-- ==== Sys2Proof/Word.lean ====
section
/-! DEFINITION. The words of the Denelo architecture, the names of its register files and the coded fields
that instructions carry (R5, R31, R32, R34 of spec/03_formats_and_opcode_map.md). -/

namespace Sys2Proof

/-- A 64-bit general or extension register (R19). -/
abbrev Word := BitVec 64
/-- A 32-bit word: an instruction word or one lane of a vector register (R31, R107). -/
abbrev Word32 := BitVec 32
/-- A byte of memory (R5). -/
abbrev Byte := BitVec 8
/-- A witness register's value (R146). -/
abbrev Word128 := BitVec 128

/-- g0 to g31; g0 reads zero and ignores writes (R32). -/
abbrev GReg := Fin 32
/-- e0 to e7 (R32). -/
abbrev EReg := Fin 8
/-- w0 to w15 (R32). -/
abbrev WReg := Fin 16
/-- v0 to v15 (R32). -/
abbrev VReg := Fin 16
/-- k0 to k3 (R32). -/
abbrev KReg := Fin 4
/-- m0 to m7 (R32). -/
abbrev MReg := Fin 8
/-- acc0 to acc3 (R32). -/
abbrev AReg := Fin 4
/-- ch0 to ch15 (R19). -/
abbrev Chan := Fin 16
/-- s0 to s7 (R34). -/
abbrev Stream := Fin 8

/-- SIZE of a load, store or returning atomic (R34). -/
inductive Size where
  | b | h | w | d
  deriving DecidableEq, Repr

/-- Bytes of a SIZE (R151). -/
def Size.bytes : Size → Nat
  | .b => 1
  | .h => 2
  | .w => 4
  | .d => 8

/-- The eight named scopes, codes 0 to 7 (R21, R34). -/
inductive Scope where
  | core | clu | sec | die | pkg | dom | host | sys
  deriving DecidableEq, Repr

/-- The code of a scope (R34). -/
def Scope.code : Scope → Nat
  | .core => 0
  | .clu => 1
  | .sec => 2
  | .die => 3
  | .pkg => 4
  | .dom => 5
  | .host => 6
  | .sys => 7

/-- WIDTH of a vector memory form (R34). -/
inductive Width where
  | n32 | n16 | n8
  deriving DecidableEq, Repr

/-- Bytes of a vector memory element (R111). -/
def Width.bytes : Width → Nat
  | .n32 => 4
  | .n16 => 2
  | .n8 => 1

/-- Rounding modes of vcvt (R34, R78). -/
inductive Rm where
  | ne | rz | rd | ru
  deriving DecidableEq, Repr

/-- OUT of mepi (R34). -/
inductive OutFmt where
  | fp32 | bf16 | fp8 | fp8nan
  deriving DecidableEq, Repr

/-- Bytes of an output element of mepi (R102). -/
def OutFmt.bytes : OutFmt → Nat
  | .fp32 => 4
  | .bf16 => 2
  | .fp8 => 1
  | .fp8nan => 1

/-- ACT of mepi (R34). -/
inductive Act where
  | none | relu | clamp
  deriving DecidableEq, Repr

/-- Conditions of vcmp (R37, R118). -/
inductive Cmp where
  | feq | fne | flt | fle | fun | ieq | ine | ilt | ile
  deriving DecidableEq, Repr

/-- Conversions of vcvt (R37, R82). -/
inductive Cvt where
  | fp32Bf16 | fp32Fp8 | fp32Fp8nan | bf16Fp32 | fp8Fp32 | fp32I32 | i32Fp32 | fp32I8 | i8Fp32
  | bf16Fp8 | bf16Fp8nan
  deriving DecidableEq, Repr

/-- The exact conversions, whose RM must be zero (R37, R82). -/
def Cvt.exact : Cvt → Bool
  | .bf16Fp32 => true
  | .fp8Fp32 => true
  | .i8Fp32 => true
  | _ => false

/-- Node kinds, codes 0 to 8 of MKOBJ and STAT (R37, R199). -/
inductive Kind where
  | dir | mem | queue | ctr | cell | mcast | mount | epwin | sysnode
  deriving DecidableEq, Repr

/-- The code of a node kind (R199). -/
def Kind.code : Kind → Nat
  | .dir => 0
  | .mem => 1
  | .queue => 2
  | .ctr => 3
  | .cell => 4
  | .mcast => 5
  | .mount => 6
  | .epwin => 7
  | .sysnode => 8

/-- The two context slots of a core (R49, R248). -/
inductive SlotSel where
  | task | act
  deriving DecidableEq, Repr

/-- An engine that runs commands: the copy engine of a core or the layout engine beside a slice (R163). -/
inductive EngineRef where
  | copy (core : Nat)
  | layout (slice : Nat)
  deriving DecidableEq, Repr

/-- A register of a core that can have an uncorrectable error (R327, R329). -/
inductive RegName where
  | g (r : GReg)
  | e (r : EReg)
  | w (r : WReg)
  | v (r : VReg)
  | k (r : KReg)
  deriving DecidableEq, Repr

/-- What an uncorrectable error at a home or core damages: a line of it (R326), or a register of one of the core's slots (R327, R329). -/
inductive ErrorIn where
  | line (n : Nat)
  | reg (sel : SlotSel) (r : RegName)
  deriving DecidableEq, Repr

/-- What a message from another device carries (R236, R243, R352). -/
inductive FarBody where
  | message (env : Word) (payload : List Word)
  | hold (ch : Chan) (v : Bool)
  | ready (ch : Chan) (v : Bool)
  deriving DecidableEq, Repr

/-- A message or channel operation as it comes over a span link: the device, slot and function of its sender, its network, its destination
core, and the sequence the sending gateway gave it (R352). -/
structure FarMsg where
  dev : BitVec 8
  src : BitVec 12
  sel : SlotSel
  vf : Nat
  reply : Bool
  dst : BitVec 12
  seq : BitVec 16
  body : FarBody
  deriving DecidableEq, Repr

/-- A flit as it comes off a span link: beyond correction, one that ends a message for this device, or another (R345, R348, R352). -/
inductive FlitIn where
  | bad
  | part
  | message (m : FarMsg)
  deriving DecidableEq, Repr

/-- What a step of bring-up finds (R364, R366): whether the firmware image's signature verifies and its security version (step 1), the home
slices whose HBM channels failed (step 2), the dies whose lanes failed (step 3), and the ports that did not negotiate (step 6). -/
structure StepFinds where
  signed : Bool
  version : BitVec 64
  channels : List Nat
  lanes : BitVec 4
  ports : BitVec 8
  deriving DecidableEq, Repr

/-- Who sends an Ewetal request record: a host's job at a port, or a peer device that mounted a directory of this one (R215). -/
inductive RecordFrom where
  | host (port : Nat) (job : BitVec 24) (ordered : Bool)
  | peer (dev : BitVec 8) (dir : Nat)
  deriving DecidableEq, Repr

/-- A packet of this device on its way: a store's, or that of a message the sending gateway keeps (R350, R352). -/
inductive PacketRef where
  | store (n : Nat)
  | kept (n : Nat)
  deriving DecidableEq, Repr

/-- Why a packet is discarded: its lifetime, a stomp or failed packet CRC (R350), or a failed end-to-end check (R331). -/
inductive Discard where
  | lifetime | stomped | endToEnd
  deriving DecidableEq, Repr

/-- A packet that is discarded, and why. -/
structure PacketLoss where
  packet : PacketRef
  why : Discard
  deriving DecidableEq, Repr

/-- What a LAUNCH chooses beyond its packet: the cores of its placement (R316), and the paths its parameters name, by parameter (R202; log
entry 78). -/
structure LaunchChoice where
  cores : List Nat
  paths : List (Nat × List Word128)
  deriving DecidableEq, Repr

/-- The 64-byte Ewetal request record (R215); the reply address and tag travel with it. -/
structure EwetalRec where
  op : BitVec 8
  arg : BitVec 6
  tag : BitVec 32
  ta : Word
  tb : Word
  comp0 : Word
  comp1 : Word
  p0 : Word
  p1 : Word
  reply : Word
  deriving DecidableEq, Repr

/-- The operations a UET Atomic carries (R354). -/
inductive UetOp where
  | add | and | or | xor | min | max | swap | cas
  deriving DecidableEq, Repr

/-- What firmware chooses for a trap record (R269); `page` rewrites a page-table entry of the object that trapped first (R233). -/
inductive FwChoice where
  | repair | forward | kill
  | page (ofs : Nat) (entry : Word)
  deriving DecidableEq, Repr

end Sys2Proof
end

