-- ==== Sys2Proof/Config.lean ====
section
/-! DEFINITION. What is fixed for the part (R1, R2, R3 of spec/00_scope.md) and the values the manual leaves
open: each open value is an opaque constant, so that nothing can be proved of what it is. -/

namespace Sys2Proof.Config

/-- Compute cores of a package (R1). -/
def cores : Nat := 4096
/-- Home slices, and layout engines, of a package (R1). -/
def slices : Nat := 256
/-- Dispatch cores (R1, R312). -/
def dispatchCores : Nat := 12
/-- Span links (R1). -/
def links : Nat := 24
/-- Bytes of a core's SRAM pool (R218). -/
def poolBytes : Nat := 524288
/-- Bytes of HBM (R3, R224). -/
def hbmBytes : Nat := 549755813888
/-- The stream timeout in cycles (R351). -/
def streamTimeout : Nat := 32768

/-- FREE VALUE: what a word of another device's memory holds when an atomic returns it (log entry 20). -/
opaque peerWord : Nat → BitVec 64
/-- FREE VALUE: 512 bits a pattern run produces, SIGB then SIGM (R296; log entry 21). -/
opaque patternSignature : Nat → BitVec 512
/-- FREE VALUE: what a peer answers to a walk, open or stat of a remote node: a refusal, or a word (log entry 20). -/
opaque peerAnswer : Nat → Option (BitVec 64)
/-- FREE VALUE: dword n of the device key's signature, or of another security-engine output (R365; log entry 21). -/
opaque securityWord : Nat → BitVec 64

/-- FREE VALUE: byte n of the signature the security engine makes at a moment (R365; log entry 21). -/
opaque signatureByte : Nat → Nat → BitVec 8
/-- FREE VALUE: what a link counter's FLITS and STALLS rose by up to a latch from the one before: moment and index (R341; log entry 27). -/
opaque linkCounter : Nat → Nat → BitVec 64
/-- FREE VALUE: what is at the far end of a span link, PEERDEV × 32 + PEERLINK (R349; log entry 28). -/
opaque linkPeer : Nat → BitVec 13
/-- FREE VALUE: how many flits a sender had sent after one that was refused (R348; log entry 28). -/
opaque flitsAfter : Nat → BitVec 8
/-- FREE VALUE: the ERR code of an enable refused for a reserved byte (R361; log entry 29). -/
opaque reservedErr : Nat → BitVec 8

/-- FREE VALUE: the rights a system node's object defines (R211; log entry 25). -/
opaque sysnodeRights : Nat → BitVec 3

/-- FREE VALUE: the key with which a message sent to a core, not to a stage, goes back to a stage's queue (R289; log entry 43). -/
opaque returnedKey : Nat → BitVec 32

/-- FREE VALUE: what a read by the hub, or of the hub's own tables, finds in a line with an uncorrectable error: moment and address
(R326; log entry 71). -/
opaque poisonedWord : Nat → Nat → BitVec 64

end Sys2Proof.Config
end

