-- ==== Sys2Proof/Syntax.lean ====
section
/-! DEFINITION. The instructions of spec/opcode_table.json, one constructor per row: first the rows that have
an encoding (R31 to R40), then the further steps of the part's agents (95_what_each_step_holds.md), which have
none and whose operands name what they act on. -/

namespace Sys2Proof

/-- One row of spec/opcode_table.json. -/
inductive Instr where
  /-- ADD (R54, R60). -/
  | add (d : GReg) (a : GReg) (b : GReg)
  /-- SUB (R54, R60). -/
  | sub (d : GReg) (a : GReg) (b : GReg)
  /-- AND (R54, R60). -/
  | and (d : GReg) (a : GReg) (b : GReg)
  /-- OR (R54, R60). -/
  | or (d : GReg) (a : GReg) (b : GReg)
  /-- XOR (R54, R60). -/
  | xor (d : GReg) (a : GReg) (b : GReg)
  /-- SLL (R54, R60). -/
  | sll (d : GReg) (a : GReg) (b : GReg)
  /-- SRL (R54, R60). -/
  | srl (d : GReg) (a : GReg) (b : GReg)
  /-- SRA (R54, R60). -/
  | sra (d : GReg) (a : GReg) (b : GReg)
  /-- MUL (R54, R60). -/
  | mul (d : GReg) (a : GReg) (b : GReg)
  /-- MULH (R54, R60). -/
  | mulh (d : GReg) (a : GReg) (b : GReg)
  /-- MULHU (R54, R60). -/
  | mulhu (d : GReg) (a : GReg) (b : GReg)
  /-- DIV (R55). -/
  | div (la : BitVec 4) (d : GReg) (a : GReg) (b : GReg)
  /-- DIVU (R55). -/
  | divu (la : BitVec 4) (d : GReg) (a : GReg) (b : GReg)
  /-- REM (R55). -/
  | rem (la : BitVec 4) (d : GReg) (a : GReg) (b : GReg)
  /-- REMU (R55). -/
  | remu (la : BitVec 4) (d : GReg) (a : GReg) (b : GReg)
  /-- SLT (R54, R60). -/
  | slt (d : GReg) (a : GReg) (b : GReg)
  /-- SLTU (R54, R60). -/
  | sltu (d : GReg) (a : GReg) (b : GReg)
  /-- MIN (R54, R60). -/
  | min (d : GReg) (a : GReg) (b : GReg)
  /-- MAX (R54, R60). -/
  | max (d : GReg) (a : GReg) (b : GReg)
  /-- MOV (R54, R60). -/
  | mov (d : GReg) (a : GReg)
  /-- OADD (R54, R60). -/
  | oadd (d : GReg) (a : GReg) (b : GReg)
  /-- MKTA (R54, R60). -/
  | mkta (d : GReg) (a : GReg) (b : GReg)
  /-- HDL (R54, R60). -/
  | hdl (d : GReg) (a : GReg)
  /-- OFS (R54, R60). -/
  | ofs (d : GReg) (a : GReg)
  /-- ADDI (R56). -/
  | addi (d : GReg) (a : GReg) (imm : BitVec 14)
  /-- ANDI (R56). -/
  | andi (d : GReg) (a : GReg) (imm : BitVec 14)
  /-- ORI (R56). -/
  | ori (d : GReg) (a : GReg) (imm : BitVec 14)
  /-- XORI (R56). -/
  | xori (d : GReg) (a : GReg) (imm : BitVec 14)
  /-- SLTI (R56). -/
  | slti (d : GReg) (a : GReg) (imm : BitVec 14)
  /-- MULI (R56). -/
  | muli (d : GReg) (a : GReg) (imm : BitVec 14)
  /-- SLLI (R57). -/
  | slli (d : GReg) (a : GReg) (sh : BitVec 6)
  /-- SRLI (R57). -/
  | srli (d : GReg) (a : GReg) (sh : BitVec 6)
  /-- SRAI (R57). -/
  | srai (d : GReg) (a : GReg) (sh : BitVec 6)
  /-- MOVI (R58). -/
  | movi (d : GReg) (imm : BitVec 19)
  /-- MOVSI (R58). -/
  | movsi (d : GReg) (imm : BitVec 19)
  /-- OADDI (R60). -/
  | oaddi (d : GReg) (a : GReg) (imm : BitVec 14)
  /-- EMOV_E_FROM_G (R59). -/
  | emovEG (d : EReg) (a : GReg)
  /-- EMOV_G_FROM_E (R59). -/
  | emovGE (d : GReg) (a : EReg)
  /-- EMOV_E_FROM_E (R59). -/
  | emovEE (d : EReg) (a : EReg)
  /-- CTLR (R53). -/
  | ctlr (d : GReg) (cnum : BitVec 9)
  /-- CTLW (R53). -/
  | ctlw (cnum : BitVec 9) (a : GReg)
  /-- BEQ (R62; the offset is concat(offHi, offLo) in halfwords). -/
  | beq (a : GReg) (b : GReg) (offHi : BitVec 9) (offLo : BitVec 5)
  /-- BNE (R62; the offset is concat(offHi, offLo) in halfwords). -/
  | bne (a : GReg) (b : GReg) (offHi : BitVec 9) (offLo : BitVec 5)
  /-- BLT (R62; the offset is concat(offHi, offLo) in halfwords). -/
  | blt (a : GReg) (b : GReg) (offHi : BitVec 9) (offLo : BitVec 5)
  /-- BGE (R62; the offset is concat(offHi, offLo) in halfwords). -/
  | bge (a : GReg) (b : GReg) (offHi : BitVec 9) (offLo : BitVec 5)
  /-- BLTU (R62; the offset is concat(offHi, offLo) in halfwords). -/
  | bltu (a : GReg) (b : GReg) (offHi : BitVec 9) (offLo : BitVec 5)
  /-- BGEU (R62; the offset is concat(offHi, offLo) in halfwords). -/
  | bgeu (a : GReg) (b : GReg) (offHi : BitVec 9) (offLo : BitVec 5)
  /-- JAL (R62). -/
  | jal (d : GReg) (off : BitVec 19)
  /-- JALR (R62). -/
  | jalr (d : GReg) (a : GReg) (imm : BitVec 14)
  /-- EXIT (R69). -/
  | exit
  /-- END (R244). -/
  | endAct
  /-- VTR (R68). -/
  | vtr (d : GReg)
  /-- TID (R68). -/
  | tid (d : GReg)
  /-- TRAP (R273 to R275). -/
  | trap (imm : BitVec 9)
  /-- ERET (R273 to R275). -/
  | eret
  /-- BKPT (R273 to R275). -/
  | bkpt (imm : BitVec 9)
  /-- CSYNC (R273 to R275). -/
  | csync
  /-- WFE (R273 to R275). -/
  | wfe
  /-- OVLD (R273 to R275). -/
  | ovld (a : GReg)
  /-- LD (R151). -/
  | ld (la : BitVec 4) (scope : Scope) (size : Size) (disp : BitVec 5) (a : GReg) (d : GReg)
  /-- LD_AFTER (R151). -/
  | ldAfter (la : BitVec 4) (scope : Scope) (size : Size) (w : WReg) (a : GReg) (d : GReg)
  /-- ST (R151). -/
  | st (s : Stream) (size : Size) (disp : BitVec 5) (a : GReg) (d : GReg)
  /-- ST_WITNESS (R151). -/
  | stWitness (s : Stream) (size : Size) (w : WReg) (a : GReg) (d : GReg)
  /-- POSTED_AADD (R154, R158, R160). -/
  | postedAadd (wres : Option WReg) (s : Stream) (wide : Bool) (a : GReg) (b : GReg)
  /-- POSTED_AAND (R154, R158, R160). -/
  | postedAand (wres : Option WReg) (s : Stream) (wide : Bool) (a : GReg) (b : GReg)
  /-- POSTED_AOR (R154, R158, R160). -/
  | postedAor (wres : Option WReg) (s : Stream) (wide : Bool) (a : GReg) (b : GReg)
  /-- POSTED_AXOR (R154, R158, R160). -/
  | postedAxor (wres : Option WReg) (s : Stream) (wide : Bool) (a : GReg) (b : GReg)
  /-- POSTED_AMIN (R154, R158, R160). -/
  | postedAmin (wres : Option WReg) (s : Stream) (wide : Bool) (a : GReg) (b : GReg)
  /-- POSTED_AMAX (R154, R158, R160). -/
  | postedAmax (wres : Option WReg) (s : Stream) (wide : Bool) (a : GReg) (b : GReg)
  /-- POSTED_AFADD (R154, R158, R160). -/
  | postedAfadd (wres : Option WReg) (s : Stream) (a : GReg) (b : GReg)
  /-- XADD_FP32 (R154, R158, R160). -/
  | xaddFp32 (wres : Option WReg) (s : Stream) (a : GReg) (b : GReg)
  /-- XADD_BF16 (R154, R158, R160). -/
  | xaddBf16 (wres : Option WReg) (s : Stream) (a : GReg) (b : GReg)
  /-- XADD_FP8 (R154, R158, R160). -/
  | xaddFp8 (wres : Option WReg) (s : Stream) (a : GReg) (b : GReg)
  /-- CADD (R154, R158, R160). -/
  | cadd (wres : Option WReg) (s : Stream) (a : GReg) (b : GReg)
  /-- XCLR (R154, R158, R160). -/
  | xclr (wres : Option WReg) (s : Stream) (a : GReg)
  /-- CRD (R159). -/
  | crd (la : BitVec 4) (scope : Scope) (a : GReg) (d : GReg)
  /-- XRD (R161). -/
  | xrd (la : BitVec 4) (scope : Scope) (a : GReg) (d : GReg)
  /-- CWAIT (R159). -/
  | cwait (scope : Scope) (a : GReg) (b : GReg)
  /-- WMERGE (R135, R152). -/
  | wmerge (d : WReg) (a : WReg) (b : WReg)
  /-- WNULL (R152). -/
  | wnull (d : WReg)
  /-- WSTAMP (R152). -/
  | wstamp (scope : Scope) (d : WReg)
  /-- WCHK (R152). -/
  | wchk (scope : Scope) (a : WReg)
  /-- WTEST (R152). -/
  | wtest (scope : Scope) (d : GReg) (a : WReg)
  /-- WGET (R132). -/
  | wget (hi : Bool) (d : GReg) (a : WReg)
  /-- WPUT (R132, R146). -/
  | wput (d : WReg) (a : GReg) (b : GReg)
  /-- DRAIN (R153). -/
  | drain (mask : BitVec 8) (wres : Option WReg)
  /-- RETURNING_AADD (R154; wide is SIZE 3). -/
  | retAadd (la : BitVec 4) (s : Stream) (wide : Bool) (a : GReg) (b : GReg) (d : GReg)
  /-- RETURNING_AAND (R154; wide is SIZE 3). -/
  | retAand (la : BitVec 4) (s : Stream) (wide : Bool) (a : GReg) (b : GReg) (d : GReg)
  /-- RETURNING_AOR (R154; wide is SIZE 3). -/
  | retAor (la : BitVec 4) (s : Stream) (wide : Bool) (a : GReg) (b : GReg) (d : GReg)
  /-- RETURNING_AXOR (R154; wide is SIZE 3). -/
  | retAxor (la : BitVec 4) (s : Stream) (wide : Bool) (a : GReg) (b : GReg) (d : GReg)
  /-- RETURNING_AMIN (R154; wide is SIZE 3). -/
  | retAmin (la : BitVec 4) (s : Stream) (wide : Bool) (a : GReg) (b : GReg) (d : GReg)
  /-- RETURNING_AMAX (R154; wide is SIZE 3). -/
  | retAmax (la : BitVec 4) (s : Stream) (wide : Bool) (a : GReg) (b : GReg) (d : GReg)
  /-- ASWAP (R154; wide is SIZE 3). -/
  | aswap (la : BitVec 4) (s : Stream) (wide : Bool) (a : GReg) (b : GReg) (d : GReg)
  /-- ACAS (R154; wide is SIZE 3). -/
  | acas (la : BitVec 4) (s : Stream) (wide : Bool) (a : GReg) (b : GReg) (d : GReg)
  /-- RETURNING_AFADD (R154). -/
  | retAfadd (la : BitVec 4) (s : Stream) (a : GReg) (b : GReg) (d : GReg)
  /-- TSHAPE (R95). -/
  | tshape (d : MReg) (a : GReg)
  /-- TLD (R96). -/
  | tld (d : MReg) (a : GReg) (disp : BitVec 5) (b : EReg)
  /-- TST (R96). -/
  | tst (d : MReg) (a : GReg) (disp : BitVec 5) (b : EReg)
  /-- MMA (R98, R99; vp is even). -/
  | mma (zf : Bool) (acc : AReg) (a : MReg) (b : MReg) (vp : VReg) (gs : GReg)
  /-- MMAR (R98, R99; vp is even). -/
  | mmar (zf : Bool) (acc : AReg) (a : MReg) (b : MReg) (vp : VReg) (gs : GReg)
  /-- MEPI (R102). -/
  | mepi (scope : Scope) (s : Stream) (act : Act) (wv : Bool) (b : GReg) (a : GReg) (rel : Bool) (out : OutFmt) (acc : AReg)
  /-- TZERO (R97). -/
  | tzero (d : MReg)
  /-- MREL (R97). -/
  | mrel (d : AReg)
  /-- MACZ (R97). -/
  | macz (d : AReg)
  /-- MRD (R97). -/
  | mrd (la : BitVec 4) (d : GReg) (a : AReg) (b : GReg)
  /-- VLD (R111). -/
  | vld (mask : Option KReg) (width : Width) (disp : BitVec 5) (a : GReg) (d : VReg)
  /-- VST (R111). -/
  | vst (mask : Option KReg) (width : Width) (s : Stream) (disp : BitVec 5) (a : GReg) (d : VReg)
  /-- VLDS (R111). -/
  | vlds (mask : Option KReg) (width : Width) (b : EReg) (a : GReg) (d : VReg)
  /-- VSTS (R111). -/
  | vsts (mask : Option KReg) (width : Width) (s : Stream) (b : EReg) (a : GReg) (d : VReg)
  /-- VFADD (R116). -/
  | vfadd (mask : Option KReg) (d : VReg) (a : VReg) (b : VReg)
  /-- VFSUB (R116). -/
  | vfsub (mask : Option KReg) (d : VReg) (a : VReg) (b : VReg)
  /-- VFMUL (R116). -/
  | vfmul (mask : Option KReg) (d : VReg) (a : VReg) (b : VReg)
  /-- VFMA (R116). -/
  | vfma (mask : Option KReg) (d : VReg) (a : VReg) (b : VReg)
  /-- VFMS (R116). -/
  | vfms (mask : Option KReg) (d : VReg) (a : VReg) (b : VReg)
  /-- VFNMA (R116). -/
  | vfnma (mask : Option KReg) (d : VReg) (a : VReg) (b : VReg)
  /-- VFMIN (R116). -/
  | vfmin (mask : Option KReg) (d : VReg) (a : VReg) (b : VReg)
  /-- VFMAX (R116). -/
  | vfmax (mask : Option KReg) (d : VReg) (a : VReg) (b : VReg)
  /-- VFABS (R116). -/
  | vfabs (mask : Option KReg) (d : VReg) (a : VReg)
  /-- VFNEG (R116). -/
  | vfneg (mask : Option KReg) (d : VReg) (a : VReg)
  /-- VADD (R117). -/
  | vadd (mask : Option KReg) (d : VReg) (a : VReg) (b : VReg)
  /-- VSUB (R117). -/
  | vsub (mask : Option KReg) (d : VReg) (a : VReg) (b : VReg)
  /-- VMUL (R117). -/
  | vmul (mask : Option KReg) (d : VReg) (a : VReg) (b : VReg)
  /-- VAND (R117). -/
  | vand (mask : Option KReg) (d : VReg) (a : VReg) (b : VReg)
  /-- VOR (R117). -/
  | vor (mask : Option KReg) (d : VReg) (a : VReg) (b : VReg)
  /-- VXOR (R117). -/
  | vxor (mask : Option KReg) (d : VReg) (a : VReg) (b : VReg)
  /-- VSLL (R117). -/
  | vsll (mask : Option KReg) (d : VReg) (a : VReg) (b : VReg)
  /-- VSRL (R117). -/
  | vsrl (mask : Option KReg) (d : VReg) (a : VReg) (b : VReg)
  /-- VSRA (R117). -/
  | vsra (mask : Option KReg) (d : VReg) (a : VReg) (b : VReg)
  /-- VMIN (R117). -/
  | vmin (mask : Option KReg) (d : VReg) (a : VReg) (b : VReg)
  /-- VMAX (R117). -/
  | vmax (mask : Option KReg) (d : VReg) (a : VReg) (b : VReg)
  /-- VCMP (R118). -/
  | vcmp (c : Cmp) (mask : Option KReg) (d : KReg) (a : VReg) (b : VReg)
  /-- VSEL (R119). -/
  | vsel (k : KReg) (d : VReg) (a : VReg) (b : VReg)
  /-- VCVT (R120). -/
  | vcvt (c : Cvt) (mask : Option KReg) (rm : Rm) (d : VReg) (a : VReg)
  /-- VRFADD (R121). -/
  | vrfadd (mask : Option KReg) (d : VReg) (a : VReg)
  /-- VRFMAX (R121). -/
  | vrfmax (mask : Option KReg) (d : VReg) (a : VReg)
  /-- VRFMIN (R121). -/
  | vrfmin (mask : Option KReg) (d : VReg) (a : VReg)
  /-- VRADD (R121). -/
  | vradd (mask : Option KReg) (d : VReg) (a : VReg)
  /-- VRMAX (R121). -/
  | vrmax (mask : Option KReg) (d : VReg) (a : VReg)
  /-- VRMIN (R121). -/
  | vrmin (mask : Option KReg) (d : VReg) (a : VReg)
  /-- VRCP (R122). -/
  | vrcp (mask : Option KReg) (d : VReg) (a : VReg)
  /-- VRSQRT (R122). -/
  | vrsqrt (mask : Option KReg) (d : VReg) (a : VReg)
  /-- VSQRT (R122). -/
  | vsqrt (mask : Option KReg) (d : VReg) (a : VReg)
  /-- VEXP2 (R122). -/
  | vexp2 (mask : Option KReg) (d : VReg) (a : VReg)
  /-- VLOG2 (R122). -/
  | vlog2 (mask : Option KReg) (d : VReg) (a : VReg)
  /-- VEXP (R122). -/
  | vexp (mask : Option KReg) (d : VReg) (a : VReg)
  /-- VTANH (R122). -/
  | vtanh (mask : Option KReg) (d : VReg) (a : VReg)
  /-- VPERM (R123). -/
  | vperm (mask : Option KReg) (d : VReg) (a : VReg) (b : VReg)
  /-- VROT (R123). -/
  | vrot (mask : Option KReg) (d : VReg) (a : VReg) (b : GReg)
  /-- VSPLAT (R123). -/
  | vsplat (mask : Option KReg) (d : VReg) (a : GReg)
  /-- VINS (R123). -/
  | vins (mask : Option KReg) (d : VReg) (a : GReg) (b : GReg)
  /-- VREV (R123). -/
  | vrev (mask : Option KReg) (d : VReg) (a : VReg)
  /-- KAND (R124). -/
  | kand (d : KReg) (a : KReg) (b : KReg)
  /-- KOR (R124). -/
  | kor (d : KReg) (a : KReg) (b : KReg)
  /-- KXOR (R124). -/
  | kxor (d : KReg) (a : KReg) (b : KReg)
  /-- KNOT (R124). -/
  | knot (d : KReg) (a : KReg)
  /-- KMOV (R124). -/
  | kmov (d : KReg) (a : KReg)
  /-- KSET (R124). -/
  | kset (d : KReg)
  /-- KCLR (R124). -/
  | kclr (d : KReg)
  /-- KFROMG (R124). -/
  | kfromg (d : KReg) (a : GReg)
  /-- VSCL (R125). -/
  | vscl (mask : Option KReg) (d : VReg) (a : VReg) (b : VReg)
  /-- VSCLS (R125). -/
  | vscls (mask : Option KReg) (d : VReg) (a : VReg) (b : GReg)
  /-- VMOVG (R126). -/
  | vmovg (la : BitVec 4) (d : GReg) (a : VReg) (lane : Fin 64)
  /-- KMOVG (R126). -/
  | kmovg (la : BitVec 4) (d : GReg) (a : KReg)
  /-- CPY (R171, R130, R175). -/
  | cpy (s : Stream) (after : Option WReg) (d : WReg) (a : GReg) (b : GReg)
  /-- CPYS (R171, R130, R175). -/
  | cpys (s : Stream) (after : Option WReg) (d : WReg) (a : GReg) (b : GReg)
  /-- GATH (R171, R130, R175). -/
  | gath (s : Stream) (after : Option WReg) (d : WReg) (a : GReg) (b : GReg)
  /-- FILL (R171, R130, R175). -/
  | fill (s : Stream) (after : Option WReg) (d : WReg) (a : GReg) (b : GReg)
  /-- LAY (R171, R130, R175). -/
  | lay (s : Stream) (after : Option WReg) (d : WReg) (a : GReg) (b : GReg)
  /-- DEAL (R171, R130, R175). -/
  | deal (s : Stream) (after : Option WReg) (d : WReg) (a : GReg) (b : GReg)
  /-- TIDSET (R172). -/
  | tidset (t : Fin 64) (a : GReg)
  /-- CPWAIT (R176). -/
  | cpwait (a : GReg) (b : GReg)
  /-- PUB (R177). -/
  | pub (conf : Bool) (d : WReg) (a : GReg)
  /-- WALK (R206; b is an even register naming a pair). -/
  | walk (d : GReg) (a : GReg) (b : GReg)
  /-- OPEN (R207). -/
  | openNode (read : Bool) (write : Bool) (shadow : Bool) (follow : Bool) (pinned : Bool) (d : GReg) (a : GReg)
  /-- BIND (R208). -/
  | bind (d : GReg) (a : GReg) (b : GReg)
  /-- UNBIND (R208). -/
  | unbind (a : GReg) (b : GReg)
  /-- CLOSE (R209). -/
  | close (a : GReg)
  /-- STAT (R210). -/
  | stat (d : GReg) (a : GReg)
  /-- MKOBJ (R211). -/
  | mkobj (kind : Kind) (d : GReg) (a : GReg) (b : GReg)
  /-- REVOKE (R195). -/
  | revoke (d : WReg) (a : GReg)
  /-- SEND (R242, R256; n payload words from d). -/
  | send (ch : Chan) (n : BitVec 4) (a : GReg) (d : GReg)
  /-- SENDR (R242, R256; n payload words from d). -/
  | sendr (ch : Chan) (n : BitVec 4) (a : GReg) (d : GReg)
  /-- SENDM (R242, R256; n payload words from d). -/
  | sendm (ch : Chan) (n : BitVec 4) (a : GReg) (d : GReg)
  /-- RECV (R257; d is at most 23). -/
  | recv (ch : Chan) (d : GReg)
  /-- PEEK (R257; d is at most 23). -/
  | peek (ch : Chan) (d : GReg)
  /-- CHB (R258, R243). -/
  | chb (ch : Chan) (v : Bool) (a : GReg)
  /-- CHHOLD (R258, R243). -/
  | chhold (ch : Chan) (v : Bool) (a : GReg)
  /-- CHREADY (R258, R243). -/
  | chready (ch : Chan) (v : Bool) (a : GReg)
  /-- SPAWN (R281). -/
  | spawn (d : GReg) (a : GReg) (b : GReg)
  /-- JOIN (R284). -/
  | join (d : GReg) (a : GReg) (b : GReg)
  /-- LEAVE (R285). -/
  | leave (a : GReg)
  /-- GBAR (R277). -/
  | gbar (a : GReg)
  /-- GIDX (R286). -/
  | gidx (d : GReg) (a : GReg)
  /-- MIGR (R282). -/
  | migr (a : GReg)
  /-- HNOP (R63). -/
  | hnop
  /-- REP_COUNT (R40; the count is cnt + 1). -/
  | repCount (step : BitVec 4) (cnt : BitVec 4)
  /-- REP_REGISTER (R40). -/
  | repRegister (step : BitVec 4) (x : GReg)
  /-- HMOV (R63). -/
  | hmov (x : GReg) (y : GReg)
  /-- HADD (R63). -/
  | hadd (x : GReg) (y : GReg)
  /-- HSUB (R63). -/
  | hsub (x : GReg) (y : GReg)
  /-- HAND (R63). -/
  | hand (x : GReg) (y : GReg)
  /-- HOR (R63). -/
  | hor (x : GReg) (y : GReg)
  /-- HXOR (R63). -/
  | hxor (x : GReg) (y : GReg)
  /-- HLI (R63). -/
  | hli (x : GReg) (imm : BitVec 5)
  /-- HADDI (R63). -/
  | haddi (x : GReg) (imm : BitVec 5)
  /-- HSLLI (R63). -/
  | hslli (x : GReg) (imm : BitVec 5)
  /-- HSRLI (R63). -/
  | hsrli (x : GReg) (imm : BitVec 5)
  /-- HSRAI (R63). -/
  | hsrai (x : GReg) (imm : BitVec 5)
  /-- HBEQZ (R63). -/
  | hbeqz (x : GReg) (off : BitVec 5)
  /-- HBNEZ (R63). -/
  | hbnez (x : GReg) (off : BitVec 5)
  /-- HJ (R63). -/
  | hj (off : BitVec 10)
  /-- HJR (R63). -/
  | hjr (x : GReg)
  /-- HWNULL (R63). -/
  | hwnull (x : WReg)
  /-- LONG_LATENCY_RESULT. R44: result n is written into its g register. -/
  | longLatencyResult (n : Nat)
  /-- EARLY_LOAD_SEND. R182: the load `ahead` positions past the waiting instruction is sent early. -/
  | earlyLoadSend (ahead : Nat)
  /-- LOAD_PERFORMED. R182: the read of result n is performed at its home. -/
  | loadPerformed (n : Nat)
  /-- STORE_COMMIT. R141: store n arrives at its home and commits, is refused, or is a duplicate. -/
  | storeCommit (n : Nat)
  /-- STORE_SETTLE. R140: the acknowledgement of store n reaches its source. -/
  | storeSettle (n : Nat)
  /-- STREAM_TIMEOUT. R351: store n is re-sent or, at the retry limit, lost. -/
  | streamTimeout (n : Nat)
  /-- RECEIVE_MARK_RELEASE. R142: mark n is released. -/
  | receiveMarkRelease (n : Nat)
  /-- DATUM_SAMPLE. R148: the datum of a region is sampled. -/
  | datumSample (scope : Scope) (region : Nat)
  /-- DATUM_PUBLISH. R187: sample n reaches the cores of its region. -/
  | datumPublish (n : Nat)
  /-- DATUM_BEACON. R353: the hub sends its beacon. -/
  | datumBeacon
  /-- BEACON_RECEIVE. R353: a beacon arrives at the gateways. -/
  | beaconReceive (dev : BitVec 8) (epoch : BitVec 6) (vt : BitVec 48) (datum : BitVec 48)
  /-- TILE_LANDING. R14: rotation copy n lands. -/
  | tileLanding (n : Nat)
  /-- MATRIX_ENGINE_EXECUTE. R93: the matrix engine begins its next instruction. -/
  | matrixEngineExecute (core : Nat)
  /-- VECTOR_ENGINE_EXECUTE. R108: the vector engine executes its next instruction. -/
  | vectorEngineExecute (core : Nat)
  /-- ENGINE_COMMAND_BEGIN. R163, R170: an engine begins its next command. -/
  | engineCommandBegin (e : EngineRef)
  /-- LAYOUT_STEAL. R163: idle layout engines of a die steal. -/
  | layoutSteal (die : Nat)
  /-- ENGINE_REFUSAL_RETURN. R169: the refusal of store n returns to its engine. -/
  | engineRefusalReturn (n : Nat)
  /-- TRANSFER_COMPLETE. R166: the running command ends and its witness is written. -/
  | transferComplete (e : EngineRef)
  /-- MESSAGE_PLACE. R236, R253: message n arrives at its destination. -/
  | messagePlace (n : Nat)
  /-- WAITING_MESSAGE_ENTER. R254: waiting message n enters the ring. -/
  | waitingMessageEnter (n : Nat)
  /-- CHANNEL_OPERATION_APPLY. R243: channel operation n is applied at its destination. -/
  | channelOperationApply (n : Nat)
  /-- ACTIVATION_START. R237: a free activation slot starts an activation. -/
  | activationStart (core : Nat)
  /-- SPAWN_START. R281: waiting spawn n starts its task. -/
  | spawnStart (n : Nat)
  /-- STAGE_DELIVERY. R288: the head of a stage queue is delivered. -/
  | stageDelivery (kernel : Nat) (stage : Nat)
  /-- STAGE_REBIND. R289: one idle core may be rebound. -/
  | stageRebind (kernel : Nat)
  /-- STAGE_STEAL. R290: an idle stage core steals a message. -/
  | stageSteal (core : Nat)
  /-- SHOOTDOWN_ARRIVAL. R371: shootdown n reaches core `target`, or sector cache target - 4096. -/
  | shootdownArrival (n : Nat) (target : Nat)
  /-- REVOKE_COMPLETE. R195: every cache has acknowledged shootdown n of a REVOKE. -/
  | revokeComplete (n : Nat)
  /-- PUB_COMPLETE. R177: publication n is confirmed, bound and acknowledged. -/
  | pubComplete (n : Nat)
  /-- PAGE_WALK. R234: a walker serves miss n. -/
  | pageWalk (n : Nat)
  /-- FIRMWARE_TRAP_SERVICE. R269: firmware serves trap record n. -/
  | firmwareTrapService (n : Nat) (choice : FwChoice)
  /-- FEATURE_ABSENT_MOVE. R270: firmware moves the task of trap record n to core `target`, or its rectangle to the block at it. -/
  | featureAbsentMove (n : Nat) (target : Nat)
  /-- PREEMPTION_REQUEST. R272: a request reaches the task slot of a core. -/
  | preemptionRequest (core : Nat) (cause : BitVec 6)
  /-- HALT_REPORTED. R272: the halt of a core is reported. -/
  | haltReported (core : Nat)
  /-- CONTEXT_SAVE. R271: the halted task is saved. -/
  | contextSave (core : Nat)
  /-- CONTEXT_RESTORE. R271: saved context n is restored on a core. -/
  | contextRestore (n : Nat) (core : Nat)
  /-- TIME_SLICE_EXPIRY. R363: the slice of the running guest ends. -/
  | timeSliceExpiry
  /-- KERNEL_COMPLETE. R246: a kernel is reported complete. -/
  | kernelComplete (kernel : Nat)
  /-- KERNEL_KILL. R324: a kernel is killed. -/
  | kernelKill (kernel : Nat) (cause : BitVec 6)
  /-- KERNEL_CONFIRMED. R321: a complete kernel is confirmed. -/
  | kernelConfirmed (kernel : Nat)
  /-- RANK_EVENT. R309: the rank core takes the oldest event. -/
  | rankEvent
  /-- PIFO_DISPATCH. R311, R306: an idle dispatch core takes the PIFO head and fetches its packet. -/
  | pifoDispatch
  /-- SEQ_RECHECK. R306: a dispatch core re-reads a slot whose SEQ does not match. -/
  | seqRecheck (dc : Nat)
  /-- WRITE. R314, R315: packet step of a dispatch core. -/
  | write (dc : Nat)
  /-- SIGNAL. R314, R315: packet step of a dispatch core. -/
  | signal (dc : Nat)
  /-- WAIT. R314, R315: packet step of a dispatch core. -/
  | wait (dc : Nat)
  /-- LAUNCH. R202, R316: packet step, with the placement the dispatch core chooses and the paths of its parameters. -/
  | launch (dc : Nat) (choice : LaunchChoice)
  /-- PREPARE. R314: packet step of a dispatch core. -/
  | prepare (dc : Nat)
  /-- COPY. R314: packet step of a dispatch core. -/
  | copy (dc : Nat)
  /-- LAYOUT. R314: packet step of a dispatch core. -/
  | layout (dc : Nat)
  /-- TREE. R314: packet step of a dispatch core. -/
  | tree (dc : Nat)
  /-- READBACK. R314: packet step of a dispatch core. -/
  | readback (dc : Nat)
  /-- QUEUE_UPDATE_COMMAND. R307: a store to a shadow half takes effect. -/
  | queueUpdateCommand (q : Nat)
  /-- RANK_PROGRAM_RELOAD. R310: the rank core reloads a program. -/
  | rankProgramReload (slot : Nat)
  /-- TOKEN_ACCRUAL. R308: 1,024 cycles of tokens accrue to a limited queue. -/
  | tokenAccrual (q : Nat)
  /-- FIRMWARE_WATCHDOG. R312: a packet has run 2^20 cycles. -/
  | firmwareWatchdog (dc : Nat)
  /-- DISPATCH_SELF_CHECK. R312: a dispatch core checks itself. -/
  | dispatchSelfCheck (dc : Nat) (ok : Bool)
  /-- SCAN_COMMAND. R297: a scan unit takes its next command. -/
  | scanCommand (sector : Nat)
  /-- PATTERN_RUN_COMPLETE. R297: the pattern run of a sector ends. -/
  | patternRunComplete (sector : Nat)
  /-- SCAN_ABORT. R298: a ranked LAUNCH abandons the pass. -/
  | scanAbort (sector : Nat) (rank : BitVec 32) (queue : Nat)
  /-- FAULT_DOORBELL_SERVICE. R323: firmware acts on the next fault record. -/
  | faultDoorbellService
  /-- FEAT_UPDATE. R294: a changed map entry reaches the FEAT register of a core. -/
  | featUpdate (core : Nat)
  /-- UNCORRECTABLE_ERROR. R326, R327, R329: a line of a home, or a register of a core, becomes uncorrectable. -/
  | uncorrectableError (home : Nat) (what : ErrorIn)
  /-- ACTIVATION_ROLLBACK. R328: an activation is rolled back. -/
  | activationRollback (core : Nat)
  /-- CODE_BLOCK_REFETCH. R329: a code block with an error is fetched again. -/
  | codeBlockRefetch (core : Nat) (block : Nat)
  /-- LANE_FAILURE. R346: a span lane fails. -/
  | laneFailure (link : Nat) (lane : Fin 9)
  /-- LINK_TRAINING_COMPLETE. R346: training ends with these good lanes. -/
  | linkTrainingComplete (link : Nat) (good : BitVec 9)
  /-- LINK_RETRAIN_REQUEST. R346: firmware requests training. -/
  | linkRetrainRequest (link : Nat)
  /-- FLIT_RECEIVE. R348, R352: a flit arrives and is acknowledged or refused. -/
  | flitReceive (link : Nat) (seq : BitVec 12) (what : FlitIn)
  /-- FLIT_REPLAY. R348: a refused flit and all later ones are sent again. -/
  | flitReplay (link : Nat) (seq : BitVec 12)
  /-- BANK_RETIRE. R347: a receive bank is retired. -/
  | bankRetire (link : Nat) (bank : Fin 9)
  /-- PACKET_LIFETIME_EXPIRY. R331, R350: a packet is discarded on its way. -/
  | packetLifetimeExpiry (loss : PacketLoss)
  /-- MESSAGE_RESEND. R352: unacknowledged message n is re-sent or lost. -/
  | messageResend (n : Nat)
  /-- GATEWAY_ACKNOWLEDGE. R352: the acknowledgement of kept message n arrives. -/
  | gatewayAcknowledge (n : Nat)
  /-- ROUTE_ENTRY_UPDATE. R344: a route entry takes effect in a die. -/
  | routeEntryUpdate (die : Nat) (dev : Nat)
  /-- RMA_WRITE. R355, R357: a host RMA Write. -/
  | rmaWrite (port : Nat) (job : BitVec 24) (ordered : Bool) (flow : Nat) (ta : Word) (data : List Byte)
  /-- UET_ATOMIC. R354, R355: a host Atomic. -/
  | uetAtomic (port : Nat) (job : BitVec 24) (ordered : Bool) (flow : Nat) (op : UetOp) (wide : Bool) (fetch : Bool) (ta : Word) (operand : Word) (cmp : Word)
  /-- RMA_READ. R357: a host RMA Read is refused and counted. -/
  | rmaRead (port : Nat)
  /-- JOB_TABLE_UPDATE. R356: a job-table entry takes effect. -/
  | jobTableUpdate (port : Nat) (entry : Nat)
  /-- HOST_WRITE_ACKNOWLEDGE. R358: the acknowledgement of RMA Write n settles its store. -/
  | hostWriteAcknowledge (n : Nat)
  /-- UET_RETRANSMIT. R358: RMA Write n is retransmitted or, after 24, lost. -/
  | uetRetransmit (n : Nat)
  /-- EWETAL_WALK. R215, R216: a request record of a host or peer is executed. -/
  | ewetalWalk (src : RecordFrom) (r : EwetalRec)
  /-- EWETAL_OPEN. R215, R216: a request record of a host or peer is executed. -/
  | ewetalOpen (src : RecordFrom) (r : EwetalRec)
  /-- EWETAL_BIND. R215, R216: a request record of a host or peer is executed. -/
  | ewetalBind (src : RecordFrom) (r : EwetalRec)
  /-- EWETAL_UNBIND. R215, R216: a request record of a host or peer is executed. -/
  | ewetalUnbind (src : RecordFrom) (r : EwetalRec)
  /-- EWETAL_CLOSE. R215, R216: a request record of a host or peer is executed. -/
  | ewetalClose (src : RecordFrom) (r : EwetalRec)
  /-- EWETAL_STAT. R215, R216: a request record of a host or peer is executed. -/
  | ewetalStat (src : RecordFrom) (r : EwetalRec)
  /-- EWETAL_MKOBJ. R215, R216: a request record of a host or peer is executed. -/
  | ewetalMkobj (src : RecordFrom) (r : EwetalRec)
  /-- EWETAL_REVOKE. R215, R216: a request record of a host or peer is executed. -/
  | ewetalRevoke (src : RecordFrom) (r : EwetalRec)
  /-- EWETAL_READ. R215, R216: a request record of a host or peer is executed. -/
  | ewetalRead (src : RecordFrom) (r : EwetalRec)
  /-- EWETAL_PUBLISH. R215, R216: a request record of a host or peer is executed. -/
  | ewetalPublish (src : RecordFrom) (r : EwetalRec)
  /-- EWETAL_PUBLISH_ON_CONFIRMATION. R215, R216: a request record of a host or peer is executed. -/
  | ewetalPublishOnConfirmation (src : RecordFrom) (r : EwetalRec)
  /-- POINTS_UPDATE. R334: the POINTS of an attachment take effect. -/
  | pointsUpdate (slot : Nat)
  /-- HALT. R335: debug request in REQ of an attachment. -/
  | halt (slot : Nat)
  /-- CONTINUE. R335: debug request in REQ of an attachment. -/
  | continueTask (slot : Nat)
  /-- STEP. R335: debug request in REQ of an attachment. -/
  | stepTask (slot : Nat)
  /-- HALT_ALL. R335: debug request in REQ of an attachment. -/
  | haltAll (slot : Nat)
  /-- CONTINUE_ALL. R335: debug request in REQ of an attachment. -/
  | continueAll (slot : Nat)
  /-- DEBUG_STOP. R336: stop n is served. -/
  | debugStop (n : Nat)
  /-- LINK_SNAPSHOT. R342: the link counters are latched. -/
  | linkSnapshot
  /-- VF_ENABLE. R361: record f is checked and enabled, or refused. -/
  | vfEnable (f : Nat)
  /-- VF_DISABLE. R362: record f is disabled. -/
  | vfDisable (f : Nat)
  /-- ATTESTATION_REQUEST. R365: the security engine writes a report. -/
  | attestationRequest
  /-- THERMAL_THROTTLE. R367: a sensor crosses its limit. -/
  | thermalThrottle (die : Fin 4)
  /-- POWER_ON_RESET. R366: power-on reset. -/
  | powerOnReset
  /-- BRING_UP_STEP. R366: the current bring-up step completes or fails. -/
  | bringUpStep (finds : StepFinds)
  /-- ILLEGAL_ENCODING. R47: the fetched word is no instruction. -/
  | illegalEncoding (w : Word32)
  /-- OVERLAY_MISS. R223: the fetch of this image offset missed. -/
  | overlayMiss (ofs : Word)
  /-- MATRIX_INSTRUCTION_COMPLETE. R106: the matrix instruction in execution completes. -/
  | matrixInstructionComplete (core : Nat)
  /-- SHADOW_PAGE_COPY_COMPLETE. R231: page copy n finishes. -/
  | shadowPageCopyComplete (n : Nat)
  /-- TREE_OPERATION_COMPLETE. R214: tree operation n completes and its core resumes. -/
  | treeOperationComplete (n : Nat)
  /-- MIGRATION_MOVE_COMPLETE. R282: the move of migration n ends. -/
  | migrationMoveComplete (n : Nat)
  /-- OVERLAY_WINDOW_LANDED. R274: the window of an OVLD lands. -/
  | overlayWindowLanded (core : Nat)
  /-- THERMAL_THROTTLE_END. R367: the sensor falls back below its limit. -/
  | thermalThrottleEnd (die : Fin 4)
  deriving DecidableEq, Repr

end Sys2Proof
end

