-- ==== Sys2Proof/Machine/State.lean ====
section
/-! DEFINITION. The state of a Kalbel K4 package as plain data, the model's faults and refusals, and the state after
package reset. Every field's docstring names the rule of spec/ that gives the piece of state. -/

namespace Sys2Proof.Machine

/-- Bytes at addresses, addresses strictly rising, no entry equal to what an unlisted address reads as. -/
abbrev Mem := List Host.Cell
/-- A cause code (R267). -/
abbrev Cause := BitVec 6
/-- Values by a natural-number key, keys rising. -/
abbrev Tab (α : Type) := List (Nat × α)

/-- Who left a witness register pending (R166, R177, R195, R102). -/
inductive PendBy where
  | engine | publication | confirmation | revoke | epilogue
  deriving DecidableEq, Repr

/-- A witness register: a value, or pending with the number of the operation that fills it (R146). -/
inductive WVal where
  | val (x : Word128)
  | pending (why : PendBy) (id : Nat)
  deriving DecidableEq, Repr

/-- An open lookahead window: its register and the positions left, 1 to 15 (R44). -/
structure Window where
  reg : GReg
  left : BitVec 4
  deriving DecidableEq, Repr

/-- A REP pair in progress, or one an ERET is about to resume (R64 to R66). -/
structure RepLive where
  done : BitVec 32
  left : BitVec 32
  step : BitVec 4
  deriving DecidableEq, Repr

/-- Why a slot is halted. -/
inductive HaltWhy where
  /-- a trap record waits for firmware (R269) -/
  | firmware
  /-- stopped for a debugger (R335, R336) -/
  | debug
  /-- pre-empted or being pre-empted, with the cause of the request (R272) -/
  | preempted (cause : Cause)
  /-- the task waits for a MIGR move (R282) -/
  | moving
  /-- a tree operation that has reached the cadastre is in flight (R205) -/
  | tree
  deriving DecidableEq, Repr

/-- Whether a slot holds a task, and whether it runs (R69, R248, R272). -/
inductive Run where
  | free
  | running
  | halted (why : HaltWhy)
  deriving DecidableEq, Repr

/-- What a message carries over the mesh or the fabric (R240, R243, R281). -/
inductive MsgBody where
  /-- SEND, SENDR, a SENDM copy or a refusal: the envelope and the payload words (R238) -/
  | message (env : Word) (payload : List Word)
  /-- a SENDM to a stage: the key travels with it (R256, R288) -/
  | stage (stage : Nat) (key : BitVec 32) (env : Word) (payload : List Word)
  /-- CHHOLD or CHREADY of channel ch (R243) -/
  | hold (ch : Chan) (v : Bool)
  | ready (ch : Chan) (v : Bool)
  /-- CHB held to the end of an activation (R258) -/
  | bind (ch : Chan) (v : Bool) (a : Word) (e0 : Word)
  /-- SPAWN: the new task's GTID, entry and parameters; none means any core (R281) -/
  | spawn (gtid : Word) (entry : Word) (params : List Word) (target : Option Nat)
  deriving DecidableEq, Repr

/-- Where a message from another device comes from: that device, the span link, the sequence, and whether the network interface of its
destination core has noted it (R352). -/
structure FarOrigin where
  dev : Nat
  link : Nat
  seq : BitVec 16
  noted : Bool
  deriving DecidableEq, Repr

/-- A message mark of a destination core's network interface: the last sequence noted of a source slot and network, and when (R352). -/
structure MsgMark where
  core : Nat
  dev : Nat
  src : Nat
  sel : SlotSel
  reply : Bool
  seq : BitVec 16
  vt : BitVec 48
  deriving DecidableEq, Repr

/-- A message or channel operation, from its execution to its effect (R240). -/
structure Msg where
  /-- the queue entry it holds; the copies of one SENDM share it (R256) -/
  entry : Nat
  /-- sender's core and slot -/
  src : Nat
  sel : SlotSel
  /-- true: the reply network (R240) -/
  reply : Bool
  /-- destination endpoint (R2) -/
  dst : Nat
  /-- kernel and function of the sender (R253) -/
  kernel : Nat
  vf : Nat
  body : MsgBody
  /-- times the message was sent again over the fabric (R352) -/
  sends : Nat
  /-- it waits for ring space at its destination (R254), and the VT since when (R252) -/
  waiting : Bool
  since : BitVec 48
  /-- the device its destination core lies on, when that is another one (R352) -/
  far : Option Nat
  /-- where it comes from, when its sender is on another device (R352) -/
  origin : Option FarOrigin
  /-- its words were read back from a ring slot with an uncorrectable error (R289, R326) -/
  poisoned : Bool
  deriving DecidableEq, Repr

/-- One message of a ring, in arrival order; its bytes lie in the ring (R236, R288, R328). -/
structure RingMsg where
  slot : Nat
  taken : Bool
  stealable : Bool
  rollbacks : Nat
  /-- the kernel of its sender (R249, R253) -/
  kernel : Nat
  /-- the key with which it left a stage's queue (R288, R289) -/
  key : Option (BitVec 32)
  deriving DecidableEq, Repr

/-- A channel-table entry (R249). COUNT and HEAD are read from `msgs`. -/
structure Channel where
  entry : BitVec 32
  depth : Nat
  stage : Nat
  refuse : Bool
  valid : Bool
  hold : Bool
  ready : Bool
  active : Bool
  ring : Nat
  last : Nat
  /-- oldest first (R236) -/
  msgs : List RingMsg
  /-- an unbind waits for the END of the channel's activation (R251) -/
  unbind : Bool
  deriving DecidableEq, Repr

/-- A debug point of an attachment as it applies to a task (R333). -/
structure Point where
  index : Nat
  kind : BitVec 2
  addr : Word
  len : Nat
  deriving DecidableEq, Repr

/-- A place where bytes are: a core's pool, HBM, host memory or another device (R225). -/
inductive Place where
  | sram (core : Nat) (ofs : Nat)
  | hbm (pa : Nat)
  | host (port : Nat) (addr : Nat)
  | peer (dev : Nat) (node : Nat) (ofs : Nat)
  deriving DecidableEq, Repr

/-- One context slot of a core (R49, R50, R248). -/
structure Slot where
  g : Vector Word 32
  e : Vector Word 8
  w : Vector WVal 16
  /-- image offset of the next instruction; a jump may leave the image (R31, R62) -/
  pc : Word
  /-- R51 -/
  gtid : Word
  /-- R66 -/
  repc : Word
  /-- R46 -/
  law : Word
  /-- R264 -/
  trapv : Word
  tcause : Word
  tpc : Word
  tval : Word
  /-- R9 -/
  rect : Word
  /-- R174 -/
  dealpat : Word
  /-- open windows (R44) -/
  windows : List Window
  /-- the REP pair in progress (R64) -/
  rep : Option RepLive
  /-- an interrupted pair that ERET resumes at TPC (R66) -/
  resume : Option RepLive
  /-- SKIP armed for the instruction at TPC (R266, R273) -/
  skip : Bool
  /-- the WFE event latch (R275) -/
  latch : Bool
  /-- INH's first cause, for a double fault's TVAL (R267) -/
  first : Cause
  run : Run
  /-- a single step was asked for (R335) -/
  stepping : Bool
  /-- a single step that waits for the return from the task's own handler (R266, R335; log entry 68) -/
  stepLater : Bool
  /-- the value of CODEBASE the slot is fetched with, until its CSYNC (R52) -/
  fetchbase : BitVec 32
  /-- cycles for which the slot is stalled yet, the target of a taken branch or jump being on its way (R67, R248) -/
  gap : Nat
  /-- a pre-emption or halt request that has arrived (R272) -/
  request : Option Cause
  /-- a debug halt request that has arrived beside a pre-emption request (R335) -/
  stop : Bool
  /-- sequence of the last store of s0 to s7; it belongs to the slot (R140) -/
  streams : Vector (BitVec 24) 8
  /-- privilege of the task's kernel (R304) -/
  priv : Bool
  /-- context number (R192) -/
  ctx : Nat
  /-- the task's kernel (R279) -/
  kernel : Nat
  /-- activation: its channel and its trigger's ring slot (R237) -/
  chan : Option Chan
  trigger : Option Nat
  /-- activation: the ring slots RECV took, per channel (R257) -/
  took : List (Nat × Nat)
  /-- R260 -/
  dirty : Bool
  /-- activation: it has executed a vector instruction (R107) -/
  usedVector : Bool
  /-- messages and operations held until END, in issue order (R242 to R244) -/
  held : List Msg
  /-- the debug points that apply (R334) -/
  points : List Point
  /-- the VT at which its core loaded them (R334) -/
  pointsVt : BitVec 48
  /-- the VT at which a DRAIN that waits issued (R153) -/
  drainVt : Option (BitVec 48)
  /-- the line stamp a CWAIT read as its counter reached gB, and waits for the datum to pass (R159) -/
  cwait : Option (Option (BitVec 6 × BitVec 48))
  /-- wide results recorded as pending by a pre-emption (R272): registers whose result is outstanding -/
  owed : List GReg
  /-- VT at which it halted last, for dump headers (R338) -/
  haltVt : BitVec 48
  /-- g, e and w registers with an uncorrectable error (R329) -/
  flaws : List RegName
  /-- the places of the rows or lanes that a matrix or vector instruction which waits has had translated (R93, R233) -/
  rows : List (List (Place × Nat))
  deriving DecidableEq, Repr

/-- A tile register's rotation state (R14, R100). -/
structure TileNet where
  /-- an MMAR has read the register since its last landing -/
  read : Bool
  /-- the core whose copy is due to land here (R14) -/
  due : Option Nat
  /-- a copy was discarded for its shape (R100) -/
  refused : Bool
  deriving DecidableEq, Repr

/-- An instruction retired into the matrix or vector queue with the scalar values it captured (R93, R108). -/
structure EngOp where
  instr : Instr
  sel : SlotSel
  /-- captured scalar operands, in the order the instruction's meaning lists them -/
  xs : List Word
  /-- captured scale lanes (R93) -/
  lanes : List Word32
  /-- what it reads or stores in memory, translated at retirement (R93, R108): pieces within one 64-byte line in order, each
  with its replicas and its length -/
  places : List (List (Place × Nat))
  /-- the tree address of each piece, for reports (R327) -/
  tas : List Word
  /-- strips, pieces or steps already done (R104) -/
  done : Nat
  /-- its number: rising in program order, it also names the register it leaves pending -/
  id : Nat
  /-- the operands an MMA has read whole (R98) -/
  buf : List (List Byte)
  /-- VT of its last store, at first of its retirement (R102) -/
  vt : BitVec 48
  deriving DecidableEq, Repr

/-- A command of a copy or layout engine (R163, R171, R175, R130, R314). -/
inductive CmdOp where
  | cpy | cpys | gath | fill | lay | deal
  /-- packet COPY and LAYOUT of a dispatch core (R314) -/
  | packetCopy | packetLayout
  deriving DecidableEq, Repr

/-- A tensor record (R128). -/
structure Record where
  format : BitVec 3
  rank : Nat
  scaled : Bool
  square : Bool
  base : Word
  sbase : Word
  ext : List Nat
  str : List Int
  deriving DecidableEq, Repr

/-- A command of a copy or layout engine, as its instruction or packet issued it (R163, R167, R171, R314). -/
structure Cmd where
  op : CmdOp
  /-- issuing core (or dispatch core), slot, GTID and kernel -/
  core : Nat
  sel : SlotSel
  gtid : Word
  kernel : Nat
  ctx : Nat
  stream : Stream
  /-- token register and the number that marks it pending; none for a packet -/
  token : Option (WReg × Nat)
  /-- the witness it waits for (R167) -/
  wait : WVal
  a : Word
  b : Word
  e : List Word
  recs : List Record
  dealpat : Word
  /-- the VT of its issue, for the trace record (R339) -/
  vt : BitVec 48
  /-- the queue of a packet's command (R314); it has no kernel -/
  queue : Option Nat
  deriving DecidableEq, Repr

/-- A unit in hand: what is still to be read, the bytes read, and the stores still to be issued, each with its places
(replicas), tree address and length (R169). -/
structure Plan where
  reads : List (Place × Nat)
  got : List Byte
  writes : List (List Place × Word × Nat)
  deriving DecidableEq, Repr

/-- A command that has begun (R169, R170). -/
structure Active where
  cmd : Cmd
  number : BitVec 32
  /-- next unit to issue, in processing order, and the unit in hand -/
  unit : Nat
  plan : Option Plan
  /-- every unit has been issued, or a failure stops it -/
  issued : Bool
  /-- the failing unit that comes first, with its cause (R169) -/
  failure : Option (Nat × Cause)
  /-- bytes stored so far (R339) -/
  bytes : Nat
  first : Bool
  /-- VT at which the last of its stores so far settled (R166) -/
  last : Option (BitVec 48)
  deriving DecidableEq, Repr

/-- A copy or layout engine (R163, R164, R170). -/
structure Engine where
  queue : List Cmd
  running : Option Active
  /-- begun commands that have issued their last store and wait for settlement (R163) -/
  settling : List Active
  next : BitVec 32
  streams : Vector (BitVec 24) 8
  deriving DecidableEq, Repr

/-- A cached translation (R232): context, handle, version, page offset and size, frame and page rights. -/
structure Tlb where
  ctx : Nat
  handle : Nat
  node : Nat
  ver : Nat
  page : Nat
  size : Nat
  frame : Nat
  w : Bool
  r : Bool
  deriving DecidableEq, Repr

/-- A named region (R221). -/
structure Region where
  ofs : Nat
  size : Nat
  deriving DecidableEq, Repr

/-- What firmware put in the map of a rebound or allocated core (R279, R287). -/
structure Alloc where
  kernel : Nat
  vf : Nat
  stage : Nat
  deriving DecidableEq, Repr

/-- A service-log entry (R320). -/
structure LogEntry where
  kernel : Nat
  queue : Nat
  index : Nat
  allocVt : BitVec 48
  release : Option (BitVec 48)
  m : Bool
  deriving DecidableEq, Repr

/-- A compute core, or a dispatch core that runs a firmware task (R1, R248, R292). -/
structure Core where
  /-- local endpoint (R2) -/
  id : Nat
  task : Slot
  act : Slot
  /-- the SRAM pool (R218) -/
  sram : Mem
  /-- poisoned 64-byte lines of the pool (R326) -/
  poison : List Nat
  /-- R51 -/
  feat : BitVec 3
  /-- FEAT of the core's map entry, as the register took it last (R294) -/
  entryFeat : BitVec 3
  /-- engines the core has in hardware (R51) -/
  hw : BitVec 3
  /-- R218 -/
  partw : Word
  /-- R52 -/
  exb : BitVec 20
  codebase : BitVec 32
  /-- the value of CODEBASE put in force last, with which an activation that starts is fetched (R52) -/
  fetchbase : BitVec 32
  /-- the window an OVLD is loading; fetch of both slots is stalled (R274) -/
  ovld : Option (BitVec 32 × SlotSel)
  /-- vector and mask registers (R107) -/
  v : Vector (Vector Word32 64) 16
  k : Vector Word 4
  /-- vector and mask registers with an uncorrectable error (R327) -/
  flaws : List RegName
  /-- R11 -/
  accd : Vector Word 4
  /-- R10 -/
  mshape : Vector Word 8
  /-- R14 -/
  net : Vector TileNet 8
  /-- matrix queue: the head is in execution when `mrun` (R93) -/
  matrix : List EngOp
  mrun : Bool
  /-- vector queue (R108) -/
  vector : List EngOp
  /-- the copy engine (R163) -/
  copy : Engine
  /-- R128, R172 -/
  tids : Tab Record
  /-- R249 -/
  chans : Vector Channel 16
  /-- R221 -/
  regions : List Region
  /-- end of the image data in the scratchpad (R221) -/
  dataEnd : Nat
  /-- DATAOFS and the program object of the kernel (R25, R274) -/
  dataOfs : Nat
  program : Nat
  /-- translation cache, most recent first (R232) -/
  tlb : List Tlb
  /-- uncorrectable errors an engine met and no instruction has trapped yet: slot and TVAL (R327) -/
  detected : List (SlotSel × Word)
  /-- the allocation the core belongs to (R279) -/
  alloc : Option Alloc
  /-- the function whose kernel last used the pool (R222, R92), and its context, which tells guests apart (R179, R363) -/
  lastVf : Option Nat
  lastCtx : Nat
  /-- core reserved as the target of a migration (R282) -/
  reserved : Bool
  /-- HOLD of every channel as it was before firmware wrote them all to 1 for a change of hands (R261) -/
  heldBefore : Option (BitVec 16)
  /-- R320 -/
  log : List LogEntry
  deriving DecidableEq, Repr

/-- What a store does at its home (R140, R154, R158, R160). -/
inductive StoreOp where
  /-- bytes from the place upward; an absent byte is not enabled (R113) -/
  | bytes (data : List (Option Byte))
  | atomic (op : UetOp) (wide : Bool) (operand : Word) (cmp : Word)
  | fadd (x : Word32)
  | cadd (x : Word)
  | xadd (x : Word32)
  | xclr
  deriving DecidableEq, Repr

/-- Where a store stands (R140, R220, R326). -/
inductive Phase where
  | issued
  | committed
  | refused (cause : Cause)
  /-- its retry limit is reached (R143) -/
  | lost
  deriving DecidableEq, Repr

/-- The host's packet a store of a port carries out (R357): port, flow, the packet's own number, and whether it is a fetching atomic. -/
structure Packet where
  port : Nat
  flow : Nat
  id : Nat
  fetch : Bool
  deriving DecidableEq, Repr

/-- What a port answers to a host's packet: an acknowledgement, an error response, or "operation not supported" (R355, R357). -/
inductive PortReply where
  | done | refused | unsupported
  deriving DecidableEq, Repr

/-- What a port last answered: on which flow, none for an RMA Read's, and with a fetching atomic's old value (R355, R357). -/
structure PortAnswer where
  flow : Option Nat
  reply : PortReply
  old : Option Word
  deriving DecidableEq, Repr

/-- What a store of a dispatch core to host memory carries for the hub: a completion record of a queue (R318), an Ewetal record's reply
to a sender, or other data of the hub's own writes, among them readback data (R216, R358). -/
inductive HubWrite where
  | record (queue : Nat)
  | reply
  /-- the data of a packet, which ends once they have been acknowledged -/
  | data
  /-- the data of an Ewetal record, which its reply follows -/
  | read
  /-- a counter's addition or a stop record, for which nothing waits -/
  | note
  /-- the body of a dump, or its header (R338) -/
  | dump (id : Nat) (header : Bool)
  /-- a part of a link snapshot (R342) -/
  | snapshot
  /-- a trace record of an attachment (R339) -/
  | trace (attachment : Nat)
  deriving DecidableEq, Repr

/-- Who writes for the hub, on which stream, and what: a dispatch core, or an engine its trace records (R339, R358). -/
structure HubSource where
  src : Nat
  origin : Nat
  stream : Stream
  what : HubWrite
  deriving DecidableEq, Repr

/-- A write for the hub to host memory or another device that waits for room in its source's stream (R140). -/
structure HubPiece where
  w : HubSource
  ctx : Nat
  op : StoreOp
  ta : Word
  place : Place
  deriving DecidableEq, Repr

/-- A dump being written: where, for which task, its parts, the body bytes the buffer takes and the first one a write faulted at; whether
its header has been issued, whether it is over, and whether it has no header (R337, R338). -/
structure DumpJob where
  id : Nat
  ctx : Nat
  ta : Word
  cause : Cause
  core : Nat
  act : Bool
  gtid : Word
  vt : BitVec 48
  tpc : Word
  parts : List Nat
  room : Nat
  fault : Option (Nat × Cause)
  header : Bool
  ended : Bool
  failed : Bool
  deriving DecidableEq, Repr

/-- A store not yet settled (R140 to R144). -/
structure Store where
  /-- source endpoint on this device, origin, stream, sequence (R140) -/
  src : Nat
  origin : Nat
  stream : Stream
  seq : BitVec 24
  /-- sequence of the previous unsettled store of the stream to the same home (R141) -/
  pred : Option (BitVec 24)
  stamp : BitVec 48
  /-- false: the store carries no stamp for line stamps and datum (R148, R297) -/
  covered : Bool
  place : Place
  op : StoreOp
  phase : Phase
  /-- kernel and context of the issuer -/
  kernel : Nat
  ctx : Nat
  /-- the register a returning atomic fills (R154) -/
  reply : Option (Nat × SlotSel × GReg)
  /-- the unit of the engine command it belongs to (R169) -/
  unit : Option (EngineRef × BitVec 32 × Nat)
  /-- re-sends so far, and the VT of the last send (R351) -/
  sends : Nat
  sent : BitVec 48
  /-- a copy of it is on its way; none is after the fabric has discarded it (R350), or while no route is in force (R344) -/
  out : Bool
  /-- the span link the copy leaves by, to another device (R344) -/
  via : Option Nat
  /-- the host's packet that carries it (R357) -/
  packet : Option Packet
  /-- what it carries, where the hub's own writes go to host memory (R358) -/
  hub : Option HubWrite
  /-- the tree address, for refusals -/
  ta : Word
  /-- how many bytes of it are replicas' (R151): replicas of one store share src, stream and seq -/
  replica : Nat
  deriving DecidableEq, Repr

/-- A piece of a host's packet that has still to enter its port's stream (R140, R357). -/
structure PortPiece where
  packet : Packet
  ctx : Nat
  op : StoreOp
  ta : Word
  places : List Place
  deriving DecidableEq, Repr

/-- What a source is, besides a stream and sequence. -/
structure Sender where
  src : Nat
  origin : Nat
  kernel : Nat
  ctx : Nat
  covered : Bool
  packet : Option Packet
  hub : Option HubWrite
  deriving DecidableEq, Repr

/-- What a load reads and how it is combined (R151, R159, R161, R162). -/
inductive LoadKind where
  | plain
  | crd
  | xrd
  /-- an aperture's combination: 0 minimum, 1 maximum, 2 sum (R162) -/
  | combine (op : Nat)
  deriving DecidableEq, Repr

/-- A read that has not been performed (R182). -/
structure Load where
  places : List Place
  bytes : Nat
  kind : LoadKind
  scope : Scope
  /-- the witness a witnessed load waits for (R151) -/
  wit : Option Word128
  ta : Word
  /-- what the members read so far hold, in member order (R162) -/
  read : List Nat
  /-- the counter or cell has been read and only the datum wait is left: value and line stamp (R159) -/
  got : Option (Word × Option (BitVec 6 × BitVec 48))
  deriving DecidableEq, Repr

/-- Where a long-latency result comes from (R43). -/
inductive Source where
  | ready (x : Word)
  | poison (ta : Word)
  | load (l : Load)
  | reply
  /-- comes from instruction `id` of the matrix or vector queue (R97, R126) -/
  | engine (id : Nat)
  deriving DecidableEq, Repr

/-- A long-latency result that has not been written (R43, R44). -/
structure Result where
  core : Nat
  sel : SlotSel
  reg : GReg
  src : Source
  deriving DecidableEq, Repr

/-- A load sent early, before its issue (R182): the image offset it stands at and the value it read. -/
structure Early where
  core : Nat
  sel : SlotSel
  pc : Word
  line : Place
  ta : Word
  value : Source
  deriving DecidableEq, Repr

/-- Rights of a handle or ceiling of a binding (R202). -/
structure Rights where
  read : Bool
  write : Bool
  shadow : Bool
  deriving DecidableEq, Repr

/-- A node of this device, or of another (R200). -/
inductive NodeRef where
  | own (n : Nat)
  | remote (dev : Nat) (n : Nat)
  deriving DecidableEq, Repr

/-- A directory entry (R199, R202). -/
structure Entry where
  name : Word128
  node : NodeRef
  ceiling : Rights
  /-- the context charged for it (R204) -/
  payer : Nat
  deriving DecidableEq, Repr

/-- Where the bytes of a version are (R228). -/
inductive Loc where
  | hbm (root : Nat) (levels : Nat)
  | host (port : Nat) (base : Nat) (job : Nat)
  | peer (dev : Nat) (node : Nat)
  /-- a system object of fixed place in HBM (R293, R304, R332; log entry 12) -/
  | fixed (base : Nat)
  deriving DecidableEq, Repr

/-- One version of an object: its descriptor and, for a shadow version, the pages it has copied (R228, R231). -/
structure Version where
  id : Nat
  loc : Loc
  length : Nat
  /-- page size code new pages take (R211) -/
  page : Nat
  /-- offsets of the pages it pays for and writes in place; none: every page (R231) -/
  own : Option (List Nat)
  /-- the context that pays for its pages -/
  payer : Nat
  /-- bytes charged -/
  charged : Nat
  /-- the kernel whose write created it (R324) -/
  maker : Nat
  /-- the extents of HBM its pages and tables lie in, shared ones among them: first frame and count (R204, R231) -/
  frames : List (Nat × Nat)
  deriving DecidableEq, Repr

/-- What a node is (R199, R211). -/
inductive Body where
  | dir (entries : List Entry)
  | object (bound : Nat) (versions : List Version)
  | mcast (op : Nat) (members : List (NodeRef × Nat)) (length : Nat)
  | mount (dev : Nat) (node : Nat)
  | epwin (base : Nat) (width : Nat) (height : Nat)
  | sysnode (number : Nat)
  deriving DecidableEq, Repr

/-- A node's record (R199, R200, R204). -/
structure Node where
  kind : Kind
  body : Body
  /-- the context that created it -/
  creator : Nat
  /-- a directory's home cadastre unit: 0 to 3 the die units, 4 the root (R200) -/
  home : Nat
  deriving DecidableEq, Repr

/-- A handle-table entry (R202, R195). -/
structure Handle where
  node : NodeRef
  rights : Rights
  ceiling : Rights
  follow : Bool
  /-- the version of a pinned handle, or the shadow handle's own (R133, R207) -/
  pin : Option Nat
  shadow : Option Nat
  dead : Bool
  /-- a CLOSE waits for acknowledgements (R209) -/
  closing : Bool
  deriving DecidableEq, Repr

/-- A context (R192, R202 to R204, R304). -/
structure Context where
  vf : Nat
  priv : Bool
  root : Nat
  handles : Tab Handle
  floor : Nat
  maxHandles : Nat
  maxEntries : Nat
  maxNodes : Nat
  maxBytes : Nat
  entries : Nat
  nodes : Nat
  bytes : Nat
  deriving DecidableEq, Repr

/-- What a shootdown names (R233). -/
inductive Shot where
  | handle (ctx : Nat) (index : Nat)
  /-- a published node and the version it was bound to -/
  | node (n : Nat) (old : Nat)
  | range (ver : Nat) (lo : Nat) (hi : Nat)
  deriving DecidableEq, Repr

/-- Who waits for a tree operation: a task, an Ewetal record (R216) or a TREE packet (R314). -/
inductive Waiter where
  | task (core : Nat) (sel : SlotSel)
  | record (ctx : Nat) (src : RecordFrom) (r : EwetalRec)
  | packet (dc : Nat) (ticket : Nat)
  deriving DecidableEq, Repr

/-- What a shootdown completes (R177, R195, R209, R233). -/
inductive ShotFor where
  | revoke (who : Waiter) (w : WReg) (id : Nat)
  | close (who : Waiter)
  | publish (id : Nat)
  | firmware
  deriving DecidableEq, Repr

/-- A shootdown in flight: it completes when every core and sector cache has acknowledged (R233, R371). -/
structure Shootdown where
  what : Shot
  why : ShotFor
  /-- caches it has reached: cores, then 4096 + sector -/
  reached : List Nat
  deriving DecidableEq, Repr

/-- A publication that has not completed (R177, R322). -/
structure Publication where
  id : Nat
  who : Waiter
  w : WReg
  ctx : Nat
  handle : Nat
  node : Nat
  version : Nat
  kernel : Nat
  /-- VT at issue; one on confirmation waits for confirmation from it -/
  vt : BitVec 48
  conf : Bool
  /-- the name has been bound to the version, and its shootdown is under way -/
  bound : Bool
  deriving DecidableEq, Repr

/-- A translation miss a walker has yet to serve: the sector cache it is outstanding in, the cores that wait for it, and the
4 KiB of a version it is for, through a handle (R234; log entry 69). -/
structure Miss where
  sector : Nat
  cores : List Nat
  ctx : Nat
  handle : Nat
  node : Nat
  ver : Nat
  ofs : Nat
  deriving DecidableEq, Repr

/-- A page a version is copying, with its size and the frame it has been given (R231). -/
structure PageCopy where
  node : Nat
  ver : Nat
  page : Nat
  size : Nat
  frame : Nat
  deriving DecidableEq, Repr

/-- A sample of the datum on its way to its region (R148, R187). -/
structure Sample where
  scope : Scope
  region : Nat
  value : BitVec 48
  deriving DecidableEq, Repr

/-- A beacon held by the gateways (R353). -/
structure Beacon where
  epoch : BitVec 6
  vt : BitVec 48
  datum : BitVec 48
  deriving DecidableEq, Repr

/-- A receive mark (R142). -/
structure Mark where
  /-- home endpoint, source endpoint, origin and stream -/
  home : Nat
  src : Nat
  origin : Nat
  stream : Stream
  seq : BitVec 24
  /-- VT of its last commit -/
  vt : BitVec 48
  /-- the function of its source, whose reserve it counts against (R360) -/
  vf : Nat
  deriving DecidableEq, Repr

/-- A rotation copy in the network, between two members of a kernel's rectangle (R14, R100, R105). -/
structure TileCopy where
  kernel : Nat
  src : Nat
  dst : Nat
  reg : MReg
  shape : Word
  bytes : List Byte
  deriving DecidableEq, Repr

/-- A group, or a rectangle (R276, R277, R283). -/
structure Group where
  kernel : Nat
  id : BitVec 32
  /-- some: a rectangle at this base core, log2 of its width and height -/
  rect : Option (Nat × Nat × Nat)
  /-- members in joining order: core, slot, GTID and generation -/
  members : List (Nat × SlotSel × Word × Nat)
  /-- the lowest generation not completed -/
  generation : Nat
  /-- arrivals: GTID, generation and stamp -/
  arrivals : List (Word × Nat × BitVec 48)
  /-- a member has ended or left (R13) -/
  broken : Bool
  deriving DecidableEq, Repr

/-- A stage's queue (R288): messages oldest first. -/
structure StageQueue where
  kernel : Nat
  stage : Nat
  depth : Nat
  mask : BitVec 16
  msgs : List Msg
  /-- the core the message at the head goes to, chosen once as it reached the head (R288) -/
  pick : Option Nat
  deriving DecidableEq, Repr

/-- A program object (R25, R26, R314). -/
structure Program where
  header : List Byte
  image : List Byte
  deriving DecidableEq, Repr

/-- How a kernel stands (R246, R321, R324). -/
inductive KState where
  | running | complete | confirmed | killed
  deriving DecidableEq, Repr

/-- A kernel (R279, R316, R318, R321). -/
structure Kernel where
  queue : Nat
  index : Nat
  tag : BitVec 16
  seq : BitVec 16
  ctx : Nat
  vf : Nat
  priv : Bool
  program : Nat
  entry : BitVec 32
  featreq : BitVec 3
  partw : Word
  cores : List Nat
  params : List Word
  /-- operands d4, d5 and d6 of the LAUNCH (R314) -/
  d4 : Word
  d5 : Word
  d6 : Word
  firstGtid : Word
  vtStart : BitVec 48
  vtEnd : BitVec 48
  state : KState
  cause : Cause
  /-- completion area of its record (R318) -/
  record : Word
  stages : Nat
  nextGroup : BitVec 32
  /-- the dispatch core that gives its cores back, the cores whose ALLOC it has still to clear, and whether it then counts a kernel
  end (R294) -/
  reporter : Option Nat
  leaving : List Nat
  counts : Bool
  /-- the dumps of its kill, once they have begun (R324, R337) -/
  dumps : Option (List DumpJob)
  deriving DecidableEq, Repr

/-- A kernel that is to be killed: the cause, and CORE of its record, 0 or 0x8000 plus the failed core (R318, R323). -/
structure Kill where
  kernel : Nat
  cause : Cause
  core : Nat
  deriving DecidableEq, Repr

/-- A trap record on its way to firmware (R269). -/
structure TrapRecord where
  core : Nat
  sel : SlotSel
  cause : Cause
  /-- the host has it, and resumes or kills later (R269) -/
  forwarded : Bool
  deriving DecidableEq, Repr

/-- A debug stop waiting to be served (R336). -/
structure Stop where
  core : Nat
  sel : SlotSel
  gtid : Word
  kernel : Nat
  cause : Cause
  tpc : Word
  tval : Word
  vt : BitVec 48
  /-- its dump, once it has begun (R336) -/
  dump : Option DumpJob
  deriving DecidableEq, Repr

/-- A saved context of a task slot (R271). -/
structure Saved where
  slot : Slot
  v : Vector (Vector Word32 64) 16
  k : Vector Word 4
  mshape : Vector Word 8
  accd : Vector Word 4
  net : Vector TileNet 8
  matrix : List EngOp
  vector : List EngOp
  copies : List TileCopy
  ovld : Option (BitVec 32)
  /-- the core it was saved from and the cause of the request -/
  core : Nat
  cause : Cause
  /-- the model's own: under which its outstanding results stand, past every endpoint -/
  key : Nat
  /-- errors an engine met and no instruction has trapped yet (R327) -/
  detected : List Word
  /-- the core as the task's tenant leaves it, with its whole SRAM image, when it passes to another tenant (R271) -/
  image : Option Core
  deriving DecidableEq, Repr

/-- A migration under way (R282). -/
structure Migration where
  src : Nat
  dst : Nat
  deriving DecidableEq, Repr

/-- An event of the hardware event queue (R308). -/
structure Event where
  queue : Nat
  /-- version and code of the queue's rank program when the event entered (R310); none: program 0 -/
  version : Nat
  code : Option (List Byte)
  deriving DecidableEq, Repr

/-- A rank program (R309, R310). -/
structure RankProg where
  code : List Byte
  version : BitVec 32
  deriving DecidableEq, Repr

/-- A dispatch core's work on a packet (R306, R311 to R315). -/
structure Dispatch where
  /-- out of service after a failed self-check (R312) -/
  down : Bool
  /-- the queue whose lock it holds, and the index, completion area and shadow half it fetched with (R306, R307) -/
  queue : Option Nat
  index : Nat
  cr : Word
  shadow : List Byte
  /-- the packet's eight dwords; none while the fetch is not done -/
  packet : List Word
  step : Nat
  /-- VT at which the packet was taken -/
  vt : BitVec 48
  /-- waits for SEQ to match since this VT (R306) -/
  seqWait : Option (BitVec 48)
  /-- the line stamp a WAIT read when its counter sufficed, which the datum has yet to pass (R159, R315) -/
  passing : Option (Option (BitVec 6 × BitVec 48))
  /-- the step in hand has issued its store or command and waits for it -/
  waiting : Bool
  /-- the sequence of that store, or the model's own number that tells a packet's command from an earlier one's -/
  ticket : Nat
  /-- how that command ended: its status and its result -/
  answer : Option (Cause × Word)
  deriving DecidableEq, Repr

/-- A link snapshot being written: the VT of its latch, that of the last sample that fell due, the latches its counters are taken from, and
the parts stored so far: dword 0 as zero, then the body (R342). -/
structure Snap where
  vt : BitVec 48
  due : BitVec 48
  latches : List Nat
  stage : Nat
  /-- a home has refused a write of it (R341) -/
  failed : Bool
  deriving DecidableEq, Repr

/-- A core of a stage that is being rebound to another: its channels are held, and messages that arrive are kept for the stage
they came for (R289). -/
structure Rebind where
  kernel : Nat
  core : Nat
  src : Nat
  dst : Nat
  /-- HOLD of its channels before, and the VT of the choice -/
  held : BitVec 16
  vt : BitVec 48
  deriving DecidableEq, Repr

/-- A commit to the POINTS of an attachment: its VT, and the entries as they stood from then on (R334). -/
structure PointCommit where
  attachment : Nat
  vt : BitVec 48
  table : List Byte
  deriving DecidableEq, Repr

/-- A queue's hub state besides its control block (R307, R308, R315). -/
structure Queue where
  /-- tokens in 1/1,024ths, and the VT up to which they have accrued (R308) -/
  tokens : Nat
  accrued : BitVec 48
  /-- the counter line a yielded packet watches (R315); the kernel-end count's for a LAUNCH (R316) -/
  watch : Option Place
  deriving DecidableEq, Repr

/-- A sector's scan unit (R297, R298). -/
structure Scan where
  /-- commands answered so far -/
  served : Nat
  /-- the core under test, VTS and ABORTRANK -/
  running : Option (Nat × BitVec 48 × BitVec 32)
  /-- rank and queue of the first LAUNCH packet ranked below ABORTRANK during the pattern run (R298) -/
  abort : Option (BitVec 32 × Nat)
  deriving DecidableEq, Repr

/-- A span link's state (R346 to R349). -/
inductive LinkState where
  | unused | training | full | erasure | narrow | removed
  deriving DecidableEq, Repr

/-- A span link (R345 to R349). -/
structure Link where
  state : LinkState
  good : BitVec 9
  erased : Option (Fin 9)
  banks : BitVec 9
  retrains : BitVec 16
  replays : BitVec 16
  /-- next flit sequence expected, flits waiting for a replay, successive replays (R348) -/
  expect : BitVec 12
  refused : Option (BitVec 12)
  again : Nat
  /-- PEERDEV × 32 + PEERLINK: what is at the far end, 31 until a training has told (R349) -/
  peer : BitVec 13
  /-- the state whose width a training keeps (R348) -/
  keep : Option LinkState
  deriving DecidableEq, Repr

/-- A message the sending gateway keeps until it is acknowledged: its sequence, the VT it was sent at last, the span link it left
by, and whether a copy is on its way (R352). -/
structure Kept where
  msg : Msg
  seq : BitVec 16
  sent : BitVec 48
  link : Nat
  out : Bool
  deriving DecidableEq, Repr

/-- A job-table entry in force at a port (R356). -/
structure Job where
  job : BitVec 24
  ord : Bool
  unord : Bool
  ctx : Nat
  deriving DecidableEq, Repr

/-- One turn of the machine: which agent acts next. The model's own field holds the turns to come (log entry 1). -/
inductive Turn where
  /-- the slot of a core issues -/
  | issue (core : Nat) (sel : SlotSel)
  /-- a step of one of the hardware's agents -/
  | hw (e : Instr)
  /-- a step of one of the hardware's agents in the same cycle as the turn before -/
  | also (e : Instr)
  /-- cycles pass -/
  | elapse (n : Nat)
  deriving DecidableEq, Repr

/-- A Kalbel K4 package. -/
structure State where
  /-- the core in focus, held whole; the others by local endpoint -/
  core : Core
  others : Tab Core
  /-- the slot that issues -/
  sel : SlotSel
  /-- R2, R147, R51 -/
  device : BitVec 8
  epoch : BitVec 6
  vt : BitVec 48
  /-- HBM by physical address (R224), its poisoned lines (R326) and line stamps (R157) -/
  hbm : Mem
  hbmPoison : List Nat
  stamps : Tab (BitVec 6 × BitVec 48)
  /-- host memory behind the ports, keyed port × 2^64 + address (R228, R358) -/
  host : Mem
  stores : List Store
  marks : List Mark
  results : List Result
  early : List Early
  samples : List Sample
  beacons : Tab Beacon
  /-- the datum of each region as last published to its cores (R148, R187): key scope × 4096 + region -/
  published : Tab (BitVec 48)
  nodes : Tab Node
  /-- what peers said of their nodes when they were walked: kind and length, keyed device × 2^32 + node (R206, R212) -/
  remotes : Tab (Kind × Nat)
  contexts : Tab Context
  nextNode : Nat
  nextVersion : Nat
  /-- the free 4 KiB frames of HBM in rising extents: first frame and count (R204; log entry 11) -/
  freeFrames : List (Nat × Nat)
  /-- a node or version nothing names any more waits for accesses in flight into it (R178, R200) -/
  lingering : Bool
  sectorTlb : Tab (List Tlb)
  /-- handle and descriptor entries of each sector's cache, most recent first: context, handle, version (R232) -/
  sectorHandles : Tab (List (Nat × Nat × Nat))
  /-- the beacon the hub sent last (R353) -/
  beaconOut : Option Beacon
  misses : List Miss
  /-- walks that ended without a page, until the access is judged (R234, R266) -/
  barren : List Miss
  pageCopies : List PageCopy
  shootdowns : List Shootdown
  publications : List Publication
  layouts : Tab Engine
  /-- the VT at which the idle layout engines of a die took commands last (R163) -/
  steals : Tab (BitVec 48)
  msgs : List Msg
  kept : List Kept
  /-- the message marks of the cores' network interfaces (R352) -/
  msgMarks : List MsgMark
  /-- the last sequences gateways have given messages, by slot, network and destination core (R352) -/
  msgSeqs : Tab (BitVec 16)
  /-- what each port answered last (R357) -/
  answers : Tab PortAnswer
  /-- hosts' packets of which a home has refused a piece while others were still to be applied (R357) -/
  brokenPackets : List Packet
  /-- pieces of hosts' packets that wait for room in their ports' streams (R140, R357) -/
  portWork : List PortPiece
  /-- writes for the hub that wait for room in their streams, oldest first (R140, R358) -/
  hubWork : List HubPiece
  /-- writes of dumps that a home has refused: the dump, whether of its header, the offset and the cause (R338) -/
  dumpFaults : List (Nat × Bool × Nat × Cause)
  /-- records written to each ring, by its tree address, since an attachment was given the ring (R336, R339) -/
  ringCounts : Tab Nat
  /-- serial number for the next task (R279) -/
  serial : BitVec 32
  groups : List Group
  copies : List TileCopy
  stages : List StageQueue
  kernels : Tab Kernel
  nextKernel : Nat
  programs : Tab Program
  trapRecords : List TrapRecord
  stops : List Stop
  saved : List Saved
  migrations : List Migration
  /-- kernels to be killed (R103, R143, R220, R323, R326) -/
  kills : List Kill
  /-- refused stores of dispatch cores: endpoint, stream, sequence and cause (R314) -/
  refusals : List (Nat × Stream × BitVec 24 × Cause)
  /-- commits to shadow halves the hub has yet to act on: queue, and whether STATE was written 1 (R307) -/
  updates : List (Nat × Bool)
  /-- commits to REQ of attachments, in commit order (R335) -/
  requests : List (Nat × Word)
  /-- attachments whose tracing has stopped until TRACE is rewritten (R339) -/
  muted : List Nat
  events : List Event
  pifo : List (BitVec 32 × Nat)
  queues : Tab Queue
  rank : Tab RankProg
  dispatch : Tab Dispatch
  scans : Tab Scan
  links : Tab Link
  jobs : Tab Job
  /-- route entries in force in the network interfaces: key 256 × die + device (R344) -/
  routes : Tab Word
  /-- sequences of the ports' streams: key 8 × port + stream (R357) -/
  portSeqs : Tab (BitVec 24)
  /-- commits to `/hv/vf` the hub has yet to act on: record, and whether it is to be enabled (R361, R362) -/
  vfRequests : List (Nat × Bool)
  /-- the fault doorbell's count as firmware served it last (R323) -/
  faultsServed : Nat
  /-- records of the fault ring that have been stored and not read yet: by slot of the ring, one bit for each dword (R301) -/
  faultsStored : Tab Nat
  /-- link snapshots written, the moments at which the link counters have been latched since package reset, the snapshot being
  written, and the samples dropped since ENABLE (R341, R342) -/
  snapshots : Nat
  latches : List Nat
  snap : Option Snap
  skipped : Nat
  /-- a rebinding under way (R289) -/
  rebinding : Option Rebind
  /-- commits to POINTS that running tasks may not have seen yet, oldest first (R334) -/
  pointCommits : List PointCommit
  /-- requests refused per port (R357) -/
  portErrors : Tab Nat
  throttled : BitVec 4
  /-- last bring-up step completed and failure code (R366) -/
  bringUp : BitVec 4
  failCode : BitVec 4
  /-- the value of the one-time fuses, and the security version of the firmware image that runs (R364) -/
  fuse : BitVec 64
  imageVersion : BitVec 64
  /-- home slices mapped out, dies that are disabled or in reset, and ports that stay down, after a failed step (R366) -/
  badSlices : List Nat
  deadDies : BitVec 4
  portsDown : BitVec 8
  /-- the nonce as the attestation request in hand found it (R365) -/
  nonce : Option (List Byte)
  /-- guests of the time-sliced function: the context whose turn it is (R363) -/
  guest : Nat
  /-- VT at which the slice of the time-sliced function's guest began (R363) -/
  sliceVt : BitVec 48
  /-- the model's own: the turns to come, a counter for fresh numbers and free values, the turns agents have had where the agenda named
  none, the word in execution, and whether the instruction just executed has to wait -/
  agenda : List Turn
  tick : Nat
  turn : Nat
  ir : Word32
  stalled : Bool
  deriving DecidableEq, Repr

/-- The model's faults. -/
inductive Fault where
  /-- Raised by an event whose operand names an agent the part does not have (R1, R2). Safe: the hardware has no
  such step. -/
  | noSuchAgent
  deriving DecidableEq, Repr

/-- The model's refusals. -/
inductive Refusal where
  /-- Raised by the arms of exec for an instruction that has no meaning yet. Safe: nothing is claimed of it. -/
  | notModelled (mnemonic : String)
  deriving DecidableEq, Repr

/-- The null witness (R146). -/
def WVal.null : WVal := .val 0

/-- A context slot after package reset: no task, every register zero, null witnesses (R8, R140; log entry 5). -/
def Slot.reset : Slot :=
  { g := Vector.replicate 32 0, e := Vector.replicate 8 0, w := Vector.replicate 16 .null, pc := 0, gtid := 0, repc := 0,
    law := 0, trapv := 0, tcause := 0, tpc := 0, tval := 0, rect := 0, dealpat := 0, windows := [], rep := none,
    resume := none, skip := false, latch := false, first := 0, run := .free, stepping := false, gap := 0, request := none,
    streams := Vector.replicate 8 0, priv := false, ctx := 0, kernel := 0, chan := none, trigger := none, took := [],
    dirty := false, usedVector := false, held := [], points := [], pointsVt := 0, drainVt := none, cwait := none, owed := [], haltVt := 0, stepLater := false, stop := false,
    fetchbase := 0, flaws := [], rows := [] }

/-- An invalid channel (R249: every field reset 0). -/
def Channel.reset : Channel :=
  { entry := 0, depth := 0, stage := 0, refuse := false, valid := false, hold := false, ready := false, active := false,
    ring := 0, last := 0, msgs := [], unbind := false }

/-- An engine after package reset: transfer numbers from 0, sequences 0 (R140, R170). -/
def Engine.reset : Engine :=
  { queue := [], running := none, settling := [], next := 0, streams := Vector.replicate 8 0 }

/-- A core after package reset: FEAT 7 (R51), every engine present (log entry 7), control registers 0 (R50). -/
def Core.reset (id : Nat) : Core :=
  { id := id, task := .reset, act := .reset, sram := [], poison := [], feat := 7, entryFeat := 7, hw := 7, partw := 0, exb := 0,
    codebase := 0, fetchbase := 0, ovld := none, v := Vector.replicate 16 (Vector.replicate 64 0),
    k := Vector.replicate 4 0, flaws := [], accd := Vector.replicate 4 0, mshape := Vector.replicate 8 0,
    net := Vector.replicate 8 { read := false, due := none, refused := false }, matrix := [], mrun := false, vector := [],
    copy := .reset, tids := [], chans := Vector.replicate 16 .reset, regions := [], dataEnd := 0, dataOfs := 0,
    program := 0, tlb := [], detected := [], alloc := none, lastVf := none, lastCtx := 0, reserved := false, heldBefore := none, log := [] }

/-- A span link after package reset (R349: GOOD 0x1FF, ERASED none, STATE Training). -/
def Link.reset : Link :=
  { state := .training, good := 0x1FF, erased := none, banks := 0x1FF, retrains := 0, replays := 0, expect := 0,
    refused := none, again := 0, peer := 31, keep := none }

/-- A component from its byte codes, byte 0 first (R193). -/
def component (bytes : List Nat) : Word128 :=
  BitVec.ofNat 128 (bytes.foldr (fun b n => b + 256 * n) 0)

/-- The number of the physical function's context (log entry 5). -/
def pfContext : Nat := 0
/-- The VF code of the physical function (R304). -/
def pfFunction : Nat := 31

/-- Where the system objects lie in HBM (log entry 12): base of each fixed object. -/
def sysBase : Nat := 0x7F00000000

/-- System object n: a fixed place 2^20 bytes past the one before (log entry 12). -/
def objectBase (n : Nat) : Nat := sysBase + 0x100000 * n

/-- `/hv/links` after reset: of each of the 24 dwords the bytes that are not zero (R349). -/
def linksReset : Mem :=
  (List.range 24).flatMap fun l =>
    [(objectBase 8 + 8 * l, 0xF9), (objectBase 8 + 8 * l + 2, 0xFF), (objectBase 8 + 8 * l + 3, 0x1F)]

/-- A system object's node: one version at its fixed place. -/
def sysNode (kind : Kind) (n length : Nat) : Node :=
  { kind := kind, creator := pfContext, home := 4,
    body := .object (100 + n) [{ id := 100 + n, loc := .fixed (objectBase n), length := length, page := 0, own := none,
                                 payer := pfContext, charged := 0, maker := 0, frames := [] }] }

/-- An entry of the physical function's plat with ceiling read, and write where `w` (R293, R332). -/
def sysEntry (bytes : List Nat) (node : Nat) (w : Bool) : Entry :=
  { name := component bytes, node := .own node, ceiling := { read := true, write := w, shadow := false },
    payer := pfContext }

/-- Where descriptors lie in HBM: the model's cadastre region (log entry 69). -/
def cadastreBase : Nat := 0x7F40000000

/-- The descriptor of a version (R228). -/
def descriptorOf (id : Nat) : Nat := cadastreBase + 32 * (id % 2 ^ 26)

/-- The descriptor of an aperture, a window or a mount, which have no versions: past those of versions (R228; log entry 69). -/
def nodeDescriptorOf (n : Nat) : Nat := cadastreBase + 2 ^ 31 + 32 * (n % 2 ^ 25)

/-- The bytes of a dword at an address that are not zero, as memory lists them. -/
def dwordCells (a x : Nat) : Mem :=
  (List.range 8).flatMap fun i => if x / 2 ^ (8 * i) % 256 = 0 then [] else [(a + i, BitVec.ofNat 8 (x / 2 ^ (8 * i)))]

/-- The tree after reset: the physical function's plat binds /sys and /hv and their objects (R293, R304, R310, R332,
R344, R349, R356, R359, R365, R366). Node numbers are the model's (log entry 12). -/
def rootNodes : Tab Node :=
  [ (1, { kind := .dir, creator := pfContext, home := 4, body := .dir [ sysEntry [0x73, 0x79, 0x73] 2 true, sysEntry [0x68, 0x76] 3 true ] }),
    (2, { kind := .dir, creator := pfContext, home := 4, body := .dir [ sysEntry [0x63, 0x6F, 0x72, 0x65, 0x6D, 0x61, 0x70] 10 true, sysEntry [0x73, 0x63, 0x61, 0x6E] 11 true,
        sysEntry [0x73, 0x63, 0x61, 0x6E, 0x63, 0x74, 0x72] 12 true,
        sysEntry [0x66, 0x61, 0x75, 0x6C, 0x74, 0x73] 13 true ] }),
    (3, { kind := .dir, creator := pfContext, home := 4, body := .dir [ sysEntry [0x71, 0x75, 0x65, 0x75, 0x65, 0x73] 14 true, sysEntry [0x72, 0x61, 0x6E, 0x6B] 15 true,
        sysEntry [0x64, 0x65, 0x62, 0x75, 0x67] 16 true, sysEntry [0x72, 0x6F, 0x75, 0x74, 0x65, 0x73] 17 true,
        sysEntry [0x6C, 0x69, 0x6E, 0x6B, 0x73] 18 false, sysEntry [0x76, 0x66] 19 true,
        sysEntry [0x61, 0x74, 0x74, 0x65, 0x73, 0x74] 20 true, sysEntry [0x73, 0x74, 0x61, 0x74, 0x75, 0x73] 21 false,
        sysEntry [0x6A, 0x6F, 0x62, 0x73] 22 true ] }),
    (10, sysNode .mem 0 32768), (11, sysNode .mem 1 4096), (12, sysNode .ctr 2 272), (13, sysNode .mem 3 2112),
    (14, sysNode .mem 4 131072), (15, sysNode .mem 5 32768), (16, sysNode .mem 6 65536), (17, sysNode .mem 7 8192),
    (18, sysNode .mem 8 256), (19, sysNode .mem 9 2176), (20, sysNode .mem 10 3940), (21, sysNode .mem 11 8),
    (22, sysNode .mem 12 32768) ]

/-- The physical function's context: privileged, the plat root open at 0xFFF0 (R191, R192, R304; quotas log entry 9). -/
def pfRoot : Context :=
  { vf := pfFunction, priv := true, root := 1, handles := [], floor := 0x15, maxHandles := 65520, maxEntries := 2 ^ 32 - 1,
    maxNodes := 2 ^ 32 - 1, maxBytes := 2 ^ 39, entries := 0, nodes := 0, bytes := 0 }

/-- What a context number that names no context reads as: no function, no handle, no quota (R195). -/
def Context.absent : Context :=
  { vf := 32, priv := false, root := 0, handles := [], floor := 0x15, maxHandles := 0, maxEntries := 0, maxNodes := 0, maxBytes := 0,
    entries := 0, nodes := 0, bytes := 0 }

/-- What a kernel number that names no kernel reads as. -/
def Kernel.absent : Kernel :=
  { queue := 0, index := 0, tag := 0, seq := 0, ctx := 0, vf := 32, priv := false, program := 0, entry := 0, featreq := 0, partw := 0, cores := [],
    params := [], d4 := 0, d5 := 0, d6 := 0, firstGtid := 0, vtStart := 0, vtEnd := 0, state := .killed, cause := 0, record := 0, stages := 0,
    nextGroup := 0, reporter := none, leaving := [], counts := false, dumps := none }

/-- The descriptors of the system objects after reset: KIND, LENGTH, and the place in ROOT (R228; log entry 12). -/
def descriptorsReset : Mem :=
  rootNodes.flatMap fun p => match p.2.body with
    | .object _ vs => vs.flatMap fun v => match v.loc with
      | .fixed base => dwordCells (descriptorOf v.id) p.2.kind.code ++ dwordCells (descriptorOf v.id + 8) v.length ++
          dwordCells (descriptorOf v.id + 16) base
      | _ => []
    | _ => []

/-- The package right after reset: no bring-up step completed (R366), VT 0 (R51), the serial counter at 1 (R279),
nothing resident or in flight, and no byte listed but those of `/hv/links` (R349) and of the system objects' descriptors (R228). -/
def State.reset : State :=
  { core := .reset 0, others := [], sel := .task, device := 0, epoch := 0, vt := 0, hbm := linksReset ++ descriptorsReset, hbmPoison := [],
    stamps := [], host := [], stores := [], marks := [], results := [], early := [], samples := [], beacons := [],
    published := [], nodes := rootNodes, remotes := [], contexts := [(pfContext, pfRoot)], nextNode := 0x1000, nextVersion := 0x1000,
    freeFrames := [(0x100, sysBase / 4096 - 0x100)], lingering := false, sectorTlb := [], sectorHandles := [], misses := [], barren := [], pageCopies := [], beaconOut := none, shootdowns := [], publications := [],
    layouts := [], steals := [], msgs := [], kept := [], msgMarks := [], msgSeqs := [], answers := [], brokenPackets := [], portWork := [], hubWork := [], dumpFaults := [], ringCounts := [], serial := 1, groups := [], copies := [], stages := [], kernels := [],
    nextKernel := 1, programs := [], trapRecords := [], stops := [], saved := [], migrations := [], events := [], kills := [], refusals := [], updates := [], requests := [], muted := [],
    pifo := [], queues := [], rank := [], dispatch := [], scans := [], links := [], jobs := [],
    faultsServed := 0, faultsStored := [], snapshots := 0, latches := [], snap := none, skipped := 0, rebinding := none,
    pointCommits := [], routes := [], portSeqs := [], vfRequests := [], portErrors := [], throttled := 0, bringUp := 0, failCode := 0, fuse := 0, imageVersion := 0, badSlices := [], deadDies := 0, portsDown := 0, nonce := none,
    guest := 0, sliceVt := 0, agenda := [], tick := 0, turn := 0, ir := 0, stalled := false }

end Sys2Proof.Machine
end

