-- ==== Sys2Proof/Machine/Ops.lean ====
section
/-! DEFINITION. The named operations over tables, memory, cores, slots and registers; retiring an instruction;
taking a trap (R46, R266 to R268 of spec/17_traps_and_preemption.md) and returning from one (R273). -/

namespace Sys2Proof.Machine

/-- What an instruction or a step answers. -/
abbrev Out := Host.Outcome State Fault Refusal

/-! ### Cause codes (R267) -/

namespace Cause
def illegal : Cause := 0x01
def privileged : Cause := 0x02
def lookahead : Cause := 0x03
def featureAbsent : Cause := 0x04
def engineInActivation : Cause := 0x05
def blockingInActivation : Cause := 0x06
def repeatNot : Cause := 0x07
def misaligned : Cause := 0x08
def sizeOrStride : Cause := 0x09
def handleInvalid : Cause := 0x0A
def handleRevoked : Cause := 0x0B
def beyondObject : Cause := 0x0C
def rights : Cause := 0x0D
def absent : Cause := 0x0E
def pageRights : Cause := 0x0F
def executeOnly : Cause := 0x10
def overlayMiss : Cause := 0x11
def codeWrite : Cause := 0x12
def requestFull : Cause := 0x13
def replyFull : Cause := 0x14
def channelInvalid : Cause := 0x15
def outsideWindow : Cause := 0x16
def tileShape : Cause := 0x17
def tileOverlap : Cause := 0x18
def accRegion : Cause := 0x19
def recordInvalid : Cause := 0x1A
def mappingWord : Cause := 0x1B
def scalesBroken : Cause := 0x1C
def witnessScope : Cause := 0x1D
def witnessMalformed : Cause := 0x1E
def cellMisaligned : Cause := 0x1F
def counterInvalid : Cause := 0x20
def groupInvalid : Cause := 0x21
def notMember : Cause := 0x22
def rectIncomplete : Cause := 0x23
def nameNotFound : Cause := 0x24
def nameExists : Cause := 0x25
def kindMismatch : Cause := 0x26
def quota : Cause := 0x27
def apertureOutside : Cause := 0x28
def partitionWord : Cause := 0x29
def controlInvalid : Cause := 0x2A
def watchpoint : Cause := 0x2B
def breakpoint : Cause := 0x2C
def singleStep : Cause := 0x2D
def trapInstr : Cause := 0x2E
def errorConsumed : Cause := 0x2F
def rolledBack : Cause := 0x30
def quarantined : Cause := 0x31
def preemption : Cause := 0x32
def timeSlice : Cause := 0x33
def hostKill : Cause := 0x34
def peerRefused : Cause := 0x35
def streamLost : Cause := 0x36
def queueFault : Cause := 0x37
def queueLimit : Cause := 0x38
def rankFault : Cause := 0x39
def dumpFault : Cause := 0x3A
def offsetOverflow : Cause := 0x3B
def watchdog : Cause := 0x3C
def selfCheck : Cause := 0x3D
def debugHalt : Cause := 0x3E
def doubleFault : Cause := 0x3F

/-- The classes of R267. -/
inductive Class where
  | user | firmware | debug | record
  deriving DecidableEq, Repr
end Cause

/-- The class of a cause (R267). -/
def causeClass (c : Cause) : Cause.Class :=
  if c = 0x02 ∨ c = 0x04 ∨ c = 0x0E ∨ c = 0x0F ∨ c = 0x2F ∨ c = 0x3F then .firmware
  else if c = 0x2B ∨ c = 0x2C ∨ c = 0x2D ∨ c = 0x3E then .debug
  else if c = 0x00 ∨ c = 0x36 ∨ c = 0x3C ∨ c = 0x3D ∨ (0x30 ≤ c ∧ c ≤ 0x34) ∨ (0x37 ≤ c ∧ c ≤ 0x3A) then .record
  else .user

/-! ### Tables -/

/-- The value under a key. -/
def tabGet {α : Type} : Tab α → Nat → Option α
  | [], _ => none
  | (j, x) :: t, k => if j = k then some x else tabGet t k

/-- Writes a key; keys stay rising. -/
def tabPut {α : Type} : Tab α → Nat → α → Tab α
  | [], k, x => [(k, x)]
  | (j, y) :: t, k, x =>
    if k < j then (k, x) :: (j, y) :: t else if k = j then (k, x) :: t else (j, y) :: tabPut t k x

/-- Removes a key. -/
def tabDel {α : Type} : Tab α → Nat → Tab α
  | [], _ => []
  | (j, y) :: t, k => if j = k then t else (j, y) :: tabDel t k

/-- The value under a key, or a default. -/
def tabGetD {α : Type} (t : Tab α) (k : Nat) (d : α) : α := (tabGet t k).getD d

/-- Removes the element at an index. -/
def dropAt {α : Type} (l : List α) (n : Nat) : List α := l.take n ++ l.drop (n + 1)

/-! ### Memory -/

/-- What an address no entry lists reads as (log entry 6). -/
def Mem.unlisted : Byte := 0

/-- One byte of memory. -/
def memRead : Mem → Nat → Byte
  | [], _ => Mem.unlisted
  | (b, x) :: m, a => if b = a then x else memRead m a

/-- Writes one byte and keeps the canonical form: writing what an unlisted address reads as removes the entry. -/
def memWrite : Mem → Nat → Byte → Mem
  | [], a, x => if x = Mem.unlisted then [] else [(a, x)]
  | (b, y) :: m, a, x =>
    if a < b then (if x = Mem.unlisted then (b, y) :: m else (a, x) :: (b, y) :: m)
    else if a = b then (if x = Mem.unlisted then m else (a, x) :: m)
    else (b, y) :: memWrite m a x

/-- The canonical form: every address at or above a bound, strictly rising, no entry equal to the unlisted byte. -/
def memWfFrom : Nat → Mem → Bool
  | _, [] => true
  | lo, (a, x) :: m => decide (lo ≤ a) && decide (x ≠ Mem.unlisted) && memWfFrom (a + 1) m

/-- The canonical form of a memory. -/
def Memory.wf (m : Mem) : Bool := memWfFrom 0 m

/-- n bytes from an address upward. -/
def memBytes (m : Mem) (a n : Nat) : List Byte := (List.range n).map fun i => memRead m (a + i)

/-- Writes bytes from an address upward. -/
def memPut : Mem → Nat → List Byte → Mem
  | m, _, [] => m
  | m, a, x :: l => memPut (memWrite m a x) (a + 1) l

/-- Writes the enabled bytes from an address upward (R113). -/
def memPutEnabled : Mem → Nat → List (Option Byte) → Mem
  | m, _, [] => m
  | m, a, none :: l => memPutEnabled m (a + 1) l
  | m, a, some x :: l => memPutEnabled (memWrite m a x) (a + 1) l

/-- A little-endian number (R5). -/
def leNat : List Byte → Nat
  | [] => 0
  | b :: l => b.toNat + 256 * leNat l

/-- n bytes of a number, least significant first (R5). -/
def natBytes : Nat → Nat → List Byte
  | 0, _ => []
  | n + 1, x => BitVec.ofNat 8 x :: natBytes n (x / 256)

/-- A little-endian dword of a memory. -/
def memDword (m : Mem) (a : Nat) : Word := BitVec.ofNat 64 (leNat (memBytes m a 8))

/-- Writes a little-endian dword. -/
def memPutDword (m : Mem) (a : Nat) (x : Word) : Mem := memPut m a (natBytes 8 x.toNat)

/-! ### Cores and slots -/

/-- A context slot of a core (R248). -/
def Core.slot (c : Core) : SlotSel → Slot
  | .task => c.task
  | .act => c.act

/-- Replaces a context slot. -/
def Core.setSlot (c : Core) : SlotSel → Slot → Core
  | .task, t => { c with task := t }
  | .act, t => { c with act := t }

/-- A core of the package by local endpoint. -/
def State.coreOf (s : State) (id : Nat) : Core :=
  if s.core.id = id then s.core else tabGetD s.others id (Core.reset id)

/-- Replaces a core. -/
def State.setCore (s : State) (id : Nat) (c : Core) : State :=
  if s.core.id = id then { s with core := c } else { s with others := tabPut s.others id c }

/-- Changes a core. -/
def State.onCore (s : State) (id : Nat) (f : Core → Core) : State := s.setCore id (f (s.coreOf id))

/-- Changes a slot of a core. -/
def State.onSlot (s : State) (id : Nat) (sel : SlotSel) (f : Slot → Slot) : State :=
  s.onCore id fun c => c.setSlot sel (f (c.slot sel))

/-- Puts another core, or another slot, in focus: what issues next (the model's own, log entry 1). -/
def State.focusOn (s : State) (id : Nat) (sel : SlotSel) : State :=
  if s.core.id = id then { s with sel := sel }
  else { s with core := s.coreOf id, others := tabPut (tabDel s.others id) s.core.id s.core, sel := sel }

/-- The slot in focus. -/
def State.slot (s : State) : Slot := s.core.slot s.sel

/-- Replaces the slot in focus. -/
def State.setSlot (s : State) (t : Slot) : State := { s with core := s.core.setSlot s.sel t }

/-- Changes the slot in focus. -/
def State.mapSlot (s : State) (f : Slot → Slot) : State := s.setSlot (f s.slot)

/-- Every core of the package that differs from its reset, the one in focus first. -/
def State.allCores (s : State) : List Core := s.core :: s.others.map (·.2)

/-! ### Registers -/

/-- A g register; g0 reads zero (R32). -/
def State.g (s : State) (r : GReg) : Word := if r = 0 then 0 else s.slot.g[r]

/-- Writes a g register; writes to g0 are discarded (R32, R54). -/
def State.setG (s : State) (r : GReg) (x : Word) : State :=
  if r = 0 then s else s.mapSlot fun t => { t with g := t.g.set r x, flaws := t.flaws.filter (· ≠ .g r) }

/-- Writes a g register of any slot; a register written is whole again (R329). -/
def Slot.putG (t : Slot) (r : GReg) (x : Word) : Slot :=
  if r = 0 then t else { t with g := t.g.set r x, flaws := t.flaws.filter (· ≠ .g r) }

/-- An e register (R59). -/
def State.e (s : State) (r : EReg) : Word := s.slot.e[r]

/-- Writes an e register. -/
def State.setE (s : State) (r : EReg) (x : Word) : State :=
  s.mapSlot fun t => { t with e := t.e.set r x, flaws := t.flaws.filter (· ≠ .e r) }

/-- A witness register (R146). -/
def State.w (s : State) (r : WReg) : WVal := s.slot.w[r]

/-- Whether a witness register is pending. -/
def WVal.isPending : WVal → Bool
  | .pending _ _ => true
  | .val _ => false

/-- A slot's witness register replaced; one that leaves the pending state sets the event latch (R146, R275). -/
def Slot.putW (t : Slot) (r : WReg) (x : WVal) : Slot :=
  { t with w := t.w.set r x, latch := t.latch || ((t.w[r]).isPending && !x.isPending), flaws := t.flaws.filter (· ≠ .w r) }

/-- Writes a witness register; a pending one is replaced (R146). -/
def State.setW (s : State) (r : WReg) (x : WVal) : State := s.mapSlot fun t => t.putW r x

/-- A field of a word. -/
def bits (x : Word) (lo len : Nat) : Nat := x.toNat / 2 ^ lo % 2 ^ len

/-! ### Time and identity -/

/-- A cycle passes (R51: VT wraps at 2^48); the counter of fresh numbers moves with it. -/
def State.tickOn (s : State) : State := { s with vt := s.vt + 1, tick := s.tick + 1 }

/-- A fresh number. -/
def State.fresh (s : State) : Nat × State := (s.tick, { s with tick := s.tick + 1 })

/-- The instruction cannot proceed: nothing changes, and the step lets the other agents act (R27, log entry 1). -/
def stall (s : State) : Out := .next { s with stalled := true }

/-- Stamp a is after stamp b (R147). -/
def stampAfter (a b : BitVec 48) : Bool := decide (0 < (a - b).toNat ∧ (a - b).toNat < 2 ^ 47)

/-- Endpoint identifier of a local endpoint of this device (R2). -/
def State.endpoint (s : State) (l : Nat) : Nat := s.device.toNat * 8192 + l

/-- Whether the package's hub executes in this core's stead: a dispatch core (R2). -/
def isDispatch (id : Nat) : Bool := decide (0x1118 ≤ id ∧ id ≤ 0x1123)

/-! ### Retiring -/

/-- One position passes in every open window (R44). -/
def tickWindows : List Window → List Window
  | [] => []
  | w :: l => if w.left.toNat ≤ 1 then tickWindows l else { w with left := w.left - 1 } :: tickWindows l

/-- Opens a window of n positions on a register; g0 and n = 0 open none (R44). -/
def openWindow (l : List Window) (r : GReg) (n : BitVec 4) : List Window :=
  if r = 0 ∨ n = 0 then l else l ++ [{ reg := r, left := n }]

/-- The slot after an instruction of `len` bytes: under REP the pair goes on or ends (R64), else the pc advances. -/
def Slot.advance (t : Slot) (len : Nat) : Slot :=
  match t.rep with
  | none => { t with pc := t.pc + BitVec.ofNat 64 len }
  | some r =>
    if r.left.toNat ≤ 1 then { t with rep := none, pc := t.pc + BitVec.ofNat 64 (2 + len) }
    else { t with rep := some { r with done := r.done + 1, left := r.left - 1 } }

/-- What every retirement does besides: a resumption not used is dropped (R66), SKIP is cleared (R266), a single step
that has run asks for its stop (R266, R335). -/
def Slot.settle (t : Slot) : Slot :=
  { t with windows := tickWindows t.windows, resume := none, skip := false, stepping := false, drainVt := none, cwait := none, gap := 0, rows := [],
           request := if t.stepping then some (t.request.getD Cause.singleStep) else t.request }

/-- The state once the instruction of `len` bytes has executed (R44, R64). -/
def State.retired (s : State) (len : Nat) : State := s.mapSlot fun t => (t.advance len).settle

/-- The state once a long-latency instruction has issued and opened its window (R44). -/
def State.opened (s : State) (len : Nat) (r : GReg) (la : BitVec 4) : State :=
  s.mapSlot fun t => { (t.advance len).settle with windows := openWindow (tickWindows t.windows) r la }

/-- The state once an instruction that continues elsewhere has executed; its target issues 3 cycles after it (R62, R67). -/
def State.jumped (s : State) (pc : Word) : State := s.mapSlot fun t => { t.settle with pc := pc, gap := 2 }

/-- The instruction of `len` bytes has executed. -/
def retire (len : Nat) (s : State) : Out := .next (s.retired len)

/-- A long-latency instruction has issued. -/
def retireOpen (len : Nat) (r : GReg) (la : BitVec 4) (s : State) : Out := .next (s.opened len r la)

/-- The instruction has executed and continues elsewhere. -/
def retireTo (pc : Word) (s : State) : Out := .next (s.jumped pc)

/-! ### Long-latency results -/

/-- A result of a slot. -/
def Result.isOf (r : Result) (core : Nat) (sel : SlotSel) : Bool := decide (r.core = core) && decide (r.sel = sel)

/-- The slot's results that have not been written (R43). -/
def State.outstanding (s : State) : List Result := s.results.filter fun r => r.isOf s.core.id s.sel

/-- Adds a result to be written later. -/
def State.addResult (s : State) (r : GReg) (src : Source) : State :=
  { s with results := s.results ++ [{ core := s.core.id, sel := s.sel, reg := r, src := src }] }

/-- The tree address of a poisoned result (R327). -/
def Source.poisoned : Source → Option Word
  | .poison ta => some ta
  | _ => none

/-! ### Traps -/

/-- The windows as LAW holds them (R46). -/
def packWindows : Nat → List Window → Nat
  | _, [] => 0
  | n, w :: l => (w.reg.val * 16 + w.left.toNat) * 2 ^ (9 * n) + packWindows (n + 1) l

/-- Entry n of LAW as a window; positions 0 is an empty entry (R46). -/
def lawEntry (law : Word) (n : Nat) : List Window :=
  if bits law (9 * n) 4 = 0 then []
  else [{ reg := ⟨bits law (9 * n + 4) 5, Nat.mod_lt _ (by decide)⟩, left := BitVec.ofNat 4 (bits law (9 * n) 4) }]

/-- The windows LAW names (R46). -/
def unpackWindows (law : Word) : List Window :=
  lawEntry law 0 ++ lawEntry law 1 ++ lawEntry law 2 ++ lawEntry law 3 ++ lawEntry law 4 ++ lawEntry law 5 ++ lawEntry law 6

/-- REPC of an interrupted pair, zero when there is none (R66). -/
def packRep : Option RepLive → Word
  | none => 0
  | some r => BitVec.ofNat 64 (r.done.toNat * 2 ^ 32 + r.left.toNat)

/-- INH of TCAUSE (R264). -/
def Slot.inh (t : Slot) : Bool := t.tcause.getLsbD 9

/-- A pair in progress, or one that ERET left to be resumed (R66). -/
def Slot.pair (t : Slot) : Option RepLive :=
  match t.rep with
  | some r => some r
  | none => t.resume

/-- The cause a trap records: a double fault while INH is 1 (R268). -/
def Slot.cause (t : Slot) (c : Cause) : Cause := if t.inh then Cause.doubleFault else c

/-- The slot after trap entry's step 2: LAW, REPC, TCAUSE with INH and SKIP, TPC and TVAL written, no windows and no pair
(R46, R66, R264, R268); a double fault records both causes (R267). -/
def Slot.saveTrap (t : Slot) (c : Cause) (tval : Word) (tpc : Word) : Slot :=
  { t with
    law := BitVec.ofNat 64 (packWindows 0 t.windows)
    repc := packRep t.pair
    tcause := BitVec.ofNat 64 (512 + (if t.cause c = 0x2B ∨ t.cause c = 0x2C then 256 else 0) + (t.cause c).toNat)
    tpc := tpc &&& 0xFFFFFFFF
    tval := if t.inh then BitVec.ofNat 64 (c.toNat * 256 + t.first.toNat) else tval
    first := t.cause c
    windows := [], rep := none, resume := none, skip := false, drainVt := none, cwait := none, rows := [] }

/-- Whether a trap of this cause enters the task's own handler (R267). -/
def Slot.handles (t : Slot) (c : Cause) : Bool :=
  decide (causeClass c = .user) && decide (t.trapv ≠ 0) && !t.inh

/-- Misses without a core. -/
def withoutCore (l : List Miss) (core : Nat) : List Miss :=
  (l.map fun m => { m with cores := m.cores.filter (· ≠ core) }).filter fun m => m.cores ≠ []

/-- A trap or a pre-emption discards the loads the slot sent early (R182), and what walks for its core have failed to find: the access
is translated again from the start (R234). -/
def State.dropEarly (s : State) : State :=
  { s with early := s.early.filter (fun e => !(decide (e.core = s.core.id) && decide (e.sel = s.sel))),
           barren := withoutCore s.barren s.core.id }

/-- Trap entry in the slot in focus once no result is outstanding (R268): the handler at TRAPV, or the task halts and
a record goes to firmware (R269), or a stop to its debugger (R336). -/
def enterTrap (c : Cause) (tval : Word) (tpc : Word) (s0 : State) : State :=
  let s := s0.dropEarly
  let t := s.slot
  let t' := t.saveTrap c tval tpc
  if t.handles c then
    s.setSlot { t' with pc := BitVec.ofNat 64 (bits t.trapv 1 31 * 2), stepping := false, stepLater := t.stepping }
  else if causeClass (t.cause c) = .debug then
    { s.setSlot { t' with run := .halted .debug, stepping := false, pc := tpc, haltVt := s.vt } with
      stops := s.stops ++ [{ core := s.core.id, sel := s.sel, gtid := t.gtid, kernel := t.kernel, cause := c,
                             tpc := tpc, tval := t'.tval, vt := s.vt, dump := none }] }
  else
    { s.setSlot { t' with run := .halted .firmware, pc := tpc, haltVt := s.vt } with
      trapRecords := s.trapRecords ++ [{ core := s.core.id, sel := s.sel, cause := t.cause c, forwarded := false }] }

/-- Raises a cause with TPC given: it waits for every outstanding result (R46); a result that turned out poisoned is
reported in its stead (R327). -/
def trapAt (c : Cause) (tval : Word) (tpc : Word) (s : State) : Out :=
  match s.outstanding.findSome? (fun r => r.src.poisoned) with
  | some ta =>
    .next (enterTrap Cause.errorConsumed ta s.slot.pc
      { s with results := s.results.filter fun r => !(r.isOf s.core.id s.sel && r.src.poisoned.isSome) })
  | none => if s.outstanding = [] then .next (enterTrap c tval tpc s) else stall s

/-- Raises a cause precisely at the instruction, or at its REP (R265). -/
def trap (c : Cause) (tval : Word) (s : State) : Out := trapAt c tval s.slot.pc s

/-- Raises a cause whose trap also clears something: it is cleared when the trap is taken, not while it waits. -/
def trapWith (f : State → State) (c : Cause) (tval : Word) (s : State) : Out :=
  if s.outstanding = [] then trap c tval (f s) else trap c tval s

/-- The word in execution, zero-extended: TVAL of the causes that name it (R47, R267). -/
def State.word (s : State) : Word := s.ir.zeroExtend 64

/-- The interrupted pair a REPC value describes (R66). -/
def repOfWord (x : Word) : Option RepLive :=
  if bits x 0 32 = 0 then none
  else some { done := BitVec.ofNat 32 (bits x 32 32), left := BitVec.ofNat 32 (bits x 0 32), step := 0 }

/-- The slot as it goes on after a trap: windows reloaded from LAW, an interrupted pair made ready to resume, SKIP armed, INH and
REPC cleared, the pc at TPC (R46, R66, R269, R273). -/
def Slot.reload (t : Slot) : Slot :=
  { t with
    windows := unpackWindows t.law
    resume := repOfWord t.repc
    skip := t.tcause.getLsbD 8
    tcause := t.tcause &&& ~~~(512 : Word)
    repc := 0
    pc := t.tpc }

/-- The slot after ERET, which occupies no position (R44, R273); a single step of the instruction that trapped goes on. -/
def Slot.resumed (t : Slot) : Slot :=
  { t.reload with
    stepping := t.stepLater
    stepLater := false
    request := if t.stepping then some (t.request.getD Cause.singleStep) else t.request }

/-- The slot as firmware resumes it at TPC once what it trapped for is mended: as after ERET, and a single step of the instruction that
trapped goes on, so that it stops once that has run (R266, R269, R335; log entry 68). -/
def Slot.repaired (t : Slot) : Slot :=
  { t.reload with run := .running, stepping := t.stepping || t.stepLater, stepLater := false }

end Sys2Proof.Machine
end

