-- ==== Sys2Proof/Machine/Float.lean ====
section
/-! DEFINITION. Numbers: values as exact multiples of powers of two, rounding, conversions and arithmetic (R70 to R73,
R78 to R89 of spec/05_number_formats.md), the special functions (R122 of spec/07) and the exact summation cell (R74 to R76). -/

namespace Sys2Proof.Machine

/-! ### Values (R70, R83) -/

/-- A floating-point value: NaN, an infinity, or ± m × 2^e with the sign of a zero kept. -/
inductive FVal where
  | nan
  | inf (neg : Bool)
  | fin (neg : Bool) (m : Nat) (e : Int)
  deriving DecidableEq, Repr

/-- The value of a format with `f` fraction bits and exponent bias `bias`, given its fields (R70). -/
def fieldsValue (f : Nat) (bias : Int) (neg : Bool) (ex fr : Nat) : FVal :=
  if ex = 0 then .fin neg fr (1 - bias - f) else .fin neg (2 ^ f + fr) (ex - bias - f)

/-- fp32(b) (R70, R83). -/
def fp32 (b : Word32) : FVal :=
  let ex := b.toNat / 2 ^ 23 % 256
  let fr := b.toNat % 2 ^ 23
  if ex = 255 then (if fr = 0 then .inf (b.getLsbD 31) else .nan) else fieldsValue 23 127 (b.getLsbD 31) ex fr

/-- bf16(b) of the low 16 bits (R70, R83). -/
def bf16 (b : Word32) : FVal :=
  let ex := b.toNat / 2 ^ 7 % 256
  let fr := b.toNat % 2 ^ 7
  if ex = 255 then (if fr = 0 then .inf (b.getLsbD 15) else .nan) else fieldsValue 7 127 (b.getLsbD 15) ex fr

/-- fp8(b) of the low 8 bits (R70, R83): no infinities, NaN only for E = 15 and F = 7. -/
def fp8 (b : Word32) : FVal :=
  let ex := b.toNat / 2 ^ 3 % 16
  let fr := b.toNat % 2 ^ 3
  if ex = 15 ∧ fr = 7 then .nan else fieldsValue 3 7 (b.getLsbD 7) ex fr

/-- The sign. -/
def FVal.neg? : FVal → Bool
  | .nan => false
  | .inf n => n
  | .fin n _ _ => n

/-- Whether a value is a NaN. -/
def FVal.isNan : FVal → Bool
  | .nan => true
  | _ => false

/-- Minus a value. -/
def FVal.negate : FVal → FVal
  | .nan => .nan
  | .inf n => .inf (!n)
  | .fin n m e => .fin (!n) m e

/-- The exact product: 0 × ∞ is NaN (R83). -/
def FVal.mul : FVal → FVal → FVal
  | .nan, _ => .nan
  | _, .nan => .nan
  | .inf a, .inf b => .inf (a != b)
  | .inf a, .fin b m _ => if m = 0 then .nan else .inf (a != b)
  | .fin a m _, .inf b => if m = 0 then .nan else .inf (a != b)
  | .fin a m e, .fin b n f => .fin (a != b) (m * n) (e + f)

/-- ± m × 2^e as an integer number of units 2^u, u at most e. -/
def units (neg : Bool) (m : Nat) (e u : Int) : Int := (if neg then -1 else 1) * (m * 2 ^ (e - u).toNat : Nat)

/-- A signed number of units 2^u; zero is +0. -/
def ofUnits (x u : Int) : FVal := .fin (decide (x < 0)) x.natAbs u

/-- The exact sum of two values; x + (−x) is +0, and two zeros of one sign keep it (R78, R83). -/
def FVal.add : FVal → FVal → FVal
  | .nan, _ => .nan
  | _, .nan => .nan
  | .inf a, .inf b => if a = b then .inf a else .nan
  | .inf a, .fin _ _ _ => .inf a
  | .fin _ _ _, .inf b => .inf b
  | .fin a m e, .fin b n f =>
    if m = 0 ∧ n = 0 then .fin (a && b) 0 0
    else if m = 0 then .fin b n f
    else if n = 0 then .fin a m e
    else ofUnits (units a m e (min e f) + units b n f (min e f)) (min e f)

/-- exact_sum of a nonempty list (R83). -/
def exactSum : List FVal → FVal
  | [] => .fin false 0 0
  | [x] => x
  | x :: l => x.add (exactSum l)

/-! ### Rounding (R78) -/

/-- Whether a magnitude with quotient q and a remainder of the unit is rounded up: `half` compares twice the remainder
with the unit. -/
def roundsUp (rm : Rm) (neg : Bool) (q rem unit : Nat) : Bool :=
  match rm with
  | .ne => decide (2 * rem > unit) || (decide (2 * rem = unit) && decide (q % 2 = 1))
  | .rz => false
  | .rd => neg && decide (rem ≠ 0)
  | .ru => !neg && decide (rem ≠ 0)

/-- m × 2^e rounded to a multiple of 2^k; answers the multiple. -/
def roundTo (rm : Rm) (neg : Bool) (m : Nat) (e k : Int) : Nat :=
  if k ≤ e then m * 2 ^ (e - k).toNat
  else
    let unit := 2 ^ (k - e).toNat
    m / unit + (if roundsUp rm neg (m / unit) (m % unit) unit then 1 else 0)

/-- The exponent of the last place of a magnitude m × 2^e in a format of precision p and least exponent `least`. -/
def lastPlace (p : Nat) (least : Int) (m : Nat) (e : Int) : Int := max least (e + (Nat.log2 m : Int) + 1 - p)

/-- The bits below the sign of a finite magnitude rounded into a format, with unbounded exponent: p significant bits,
subnormal grid 2^least. The encoding of a magnitude q × 2^k is (k − least) × 2^(p − 1) + q, subnormals included. -/
def roundBits (rm : Rm) (p : Nat) (least : Int) (neg : Bool) (m : Nat) (e : Int) : Nat :=
  if m = 0 then 0
  else
    let k := lastPlace p least m e
    (k - least).toNat * 2 ^ (p - 1) + roundTo rm neg m e k

/-- Overflow of FP32 and BF16 (R79): infinity, or the largest finite value just below it. -/
def overflowBits (rm : Rm) (neg : Bool) (inf : Nat) : Nat :=
  match rm with
  | .ne => inf
  | .rz => inf - 1
  | .rd => if neg then inf else inf - 1
  | .ru => if neg then inf - 1 else inf

/-- A value rounded into FP32 (R78, R79). -/
def toFp32 (rm : Rm) : FVal → Word32
  | .nan => 0x7FC00000
  | .inf n => BitVec.ofNat 32 ((if n then 2 ^ 31 else 0) + 0x7F800000)
  | .fin n m e =>
    let r := roundBits rm 24 (-149) n m e
    BitVec.ofNat 32 ((if n then 2 ^ 31 else 0) + (if r ≥ 0x7F800000 then overflowBits rm n 0x7F800000 else r))

/-- A value rounded into BF16, in the low 16 bits (R78, R79, R110). -/
def toBf16 (rm : Rm) : FVal → Word32
  | .nan => 0x7FC0
  | .inf n => BitVec.ofNat 32 ((if n then 2 ^ 15 else 0) + 0x7F80)
  | .fin n m e =>
    let r := roundBits rm 8 (-133) n m e
    BitVec.ofNat 32 ((if n then 2 ^ 15 else 0) + (if r ≥ 0x7F80 then overflowBits rm n 0x7F80 else r))

/-- What the overflow of a conversion to FP8 E4M3 gives, below the sign (R80). -/
def fp8Over (sat : Bool) (rm : Rm) (neg : Bool) : Nat :=
  if sat then 0x7E
  else match rm with
    | .ne => 0x7F
    | .rz => 0x7E
    | .rd => if neg then 0x7F else 0x7E
    | .ru => if neg then 0x7E else 0x7F

/-- A value converted to FP8 E4M3, in the low 8 bits (R80); NaN is 0x7F. -/
def toFp8 (sat : Bool) (rm : Rm) : FVal → Word32
  | .nan => 0x7F
  | .inf n => if sat then (if n then 0xFE else 0x7E) else 0x7F
  | .fin n m e =>
    let r := roundBits rm 4 (-9) n m e
    let b := if r > 0x7E then fp8Over sat rm n else r
    BitVec.ofNat 32 ((if n ∧ b ≠ 0x7F then 2 ^ 7 else 0) + b)

/-- round_fp32 (R83). -/
def roundFp32 (x : FVal) : Word32 := toFp32 .ne x

/-- A value rounded to an integer and saturated to w bits; NaN gives 0 (R81). -/
def toIntSat (w : Nat) (rm : Rm) : FVal → Int
  | .nan => 0
  | .inf n => if n then -(2 ^ (w - 1)) else 2 ^ (w - 1) - 1
  | .fin n m e =>
    let q : Int := roundTo rm n m e 0
    let x : Int := if n then -q else q
    if x < -(2 ^ (w - 1)) then -(2 ^ (w - 1)) else if x > 2 ^ (w - 1) - 1 then 2 ^ (w - 1) - 1 else x

/-- An integer as a value. -/
def intValue (x : Int) : FVal := ofUnits x 0

/-! ### Arithmetic on FP32 bits (R84, R85) -/

/-- round_fp32(a + b). -/
def fadd (a b : Word32) : Word32 := roundFp32 ((fp32 a).add (fp32 b))
/-- round_fp32(a − b). -/
def fsub (a b : Word32) : Word32 := roundFp32 ((fp32 a).add (fp32 b).negate)
/-- round_fp32(a × b). -/
def fmul (a b : Word32) : Word32 := roundFp32 ((fp32 a).mul (fp32 b))
/-- round_fp32(a × b + c), one rounding. -/
def ffma (a b c : Word32) : Word32 := roundFp32 (((fp32 a).mul (fp32 b)).add (fp32 c))
/-- round_fp32(a × b − c). -/
def ffms (a b c : Word32) : Word32 := roundFp32 (((fp32 a).mul (fp32 b)).add (fp32 c).negate)
/-- round_fp32(−(a × b) + c). -/
def ffnma (a b c : Word32) : Word32 := roundFp32 (((fp32 a).mul (fp32 b)).negate.add (fp32 c))

/-- a < b on values that are no NaN; zeros of either sign are equal. -/
def FVal.lt : FVal → FVal → Bool
  | .nan, _ => false
  | _, .nan => false
  | .inf a, .inf b => a && !b
  | .inf a, .fin _ _ _ => a
  | .fin _ _ _, .inf b => !b
  | .fin a m e, .fin b n f => decide (units a m e (min e f) < units b n f (min e f))

/-- Equality of values: +0.0 = −0.0, NaN equals nothing (R118). -/
def FVal.feq (x y : FVal) : Bool := !x.isNan && !y.isNan && !x.lt y && !y.lt x

/-- Order of R85: as `lt`, with −0.0 below +0.0. -/
def FVal.below (x y : FVal) : Bool := x.lt y || (x.feq y && x.neg? && !y.neg?)

/-- vfmin (R85). -/
def fmin (a b : Word32) : Word32 :=
  match (fp32 a).isNan, (fp32 b).isNan with
  | true, true => 0x7FC00000
  | true, false => b
  | false, true => a
  | false, false => if (fp32 b).below (fp32 a) then b else a

/-- vfmax (R85). -/
def fmax (a b : Word32) : Word32 :=
  match (fp32 a).isNan, (fp32 b).isNan with
  | true, true => 0x7FC00000
  | true, false => b
  | false, true => a
  | false, false => if (fp32 a).below (fp32 b) then b else a

/-! ### Conversions (R82) -/

/-- A conversion of one lane; narrow inputs use the low bits, results take the layout of R110. -/
def convert (c : Cvt) (rm : Rm) (a : Word32) : Word32 :=
  match c with
  | .fp32Bf16 => toBf16 rm (fp32 a)
  | .fp32Fp8 => toFp8 true rm (fp32 a)
  | .fp32Fp8nan => toFp8 false rm (fp32 a)
  | .bf16Fp32 => toFp32 rm (bf16 a)
  | .fp8Fp32 => toFp32 rm (fp8 a)
  | .fp32I32 => BitVec.ofInt 32 (toIntSat 32 rm (fp32 a))
  | .i32Fp32 => toFp32 rm (intValue a.toInt)
  | .fp32I8 => BitVec.ofInt 32 (toIntSat 8 rm (fp32 a))
  | .i8Fp32 => toFp32 rm (intValue (a.truncate 8 : Byte).toInt)
  | .bf16Fp8 => toFp8 true rm (bf16 a)
  | .bf16Fp8nan => toFp8 false rm (bf16 a)

/-! ### Special functions (R122)

Each is the exact function value rounded once. Roots and reciprocals are exact integer arithmetic with a sticky bit.
2^x, e^x, log2 x and tanh x are computed in fixed point with `fracBits` fractional bits; their values are irrational
outside the exact cases, which are handled apart, and no FP32 input's value lies that near a halfway point
(log entry 15). -/

/-- A magnitude known to lie strictly between m × 2^e and (m + 1) × 2^e, or to be m × 2^e where `exact`. -/
def sticky (neg : Bool) (m : Nat) (exact : Bool) (e : Int) : FVal := .fin neg (2 * m + (if exact then 0 else 1)) (e - 1)

/-- Integer square root, bit n − 1 of the root downward. -/
def isqrtFrom : Nat → Nat → Nat → Nat
  | 0, r, _ => r
  | n + 1, r, x => if (r + 2 ^ n) * (r + 2 ^ n) ≤ x then isqrtFrom n (r + 2 ^ n) x else isqrtFrom n r x

/-- The integer square root of a number below 2^512. -/
def isqrt (x : Nat) : Nat := isqrtFrom 256 0 x

/-- 1/x for finite nonzero x. -/
def rcpValue (neg : Bool) (m : Nat) (e : Int) : FVal :=
  sticky neg (2 ^ 128 / m) (decide (2 ^ 128 % m = 0)) (-128 - e)

/-- √x for finite positive x: the exponent is made even. -/
def sqrtValue (m : Nat) (e : Int) : FVal :=
  let x := if e % 2 = 0 then m * 2 ^ 128 else m * 2 ^ 129
  let h := if e % 2 = 0 then (e - 128) / 2 else (e - 129) / 2
  sticky false (isqrt x) (decide (isqrt x * isqrt x = x)) h

/-- 1/√x for finite positive x. -/
def rsqrtValue (m : Nat) (e : Int) : FVal :=
  let n := if e % 2 = 0 then m else 2 * m
  let h := if e % 2 = 0 then e / 2 else (e - 1) / 2
  sticky false (isqrt (2 ^ 256 / n)) (decide (isqrt (2 ^ 256 / n) * isqrt (2 ^ 256 / n) * n = 2 ^ 256)) (-128 - h)

/-- Fractional bits of the fixed-point evaluations. -/
def fracBits : Nat := 640

/-- Σ z^(2n+1)/(2n+1) for `fuel` terms from n on, z and its powers in fixed point: atanh z. -/
def atanhSeries : Nat → Nat → Nat → Nat → Nat
  | 0, _, _, _ => 0
  | fuel + 1, n, z2, zp => zp / (2 * n + 1) + atanhSeries fuel (n + 1) z2 (zp * z2 / 2 ^ fracBits)

/-- atanh z for fixed-point z of at most 1/3. -/
def atanhFix (z : Nat) : Nat := atanhSeries 220 0 (z * z / 2 ^ fracBits) z

/-- ln 2 in fixed point. -/
def ln2Fix : Nat := 2 * atanhFix (2 ^ fracBits / 3)

/-- Σ r^n/n! for `fuel` terms from n on, the term given: e^r. -/
def expSeries : Nat → Nat → Nat → Nat → Nat
  | 0, _, _, _ => 0
  | fuel + 1, n, r, t => t + expSeries fuel (n + 1) r (t * r / 2 ^ fracBits / (n + 1))

/-- e^r for fixed-point r in [0, 1). -/
def expFix (r : Nat) : Nat := expSeries 150 0 r (2 ^ fracBits)

/-- ± m × 2^e in fixed point, rounded down. -/
def toFix (neg : Bool) (m : Nat) (e : Int) : Int :=
  let x : Int := if 0 ≤ e + fracBits then m * 2 ^ (e + fracBits).toNat else m / 2 ^ (-(e + fracBits)).toNat
  if neg then -x else x

/-- 2^x for |x| below 2^9, with x in fixed point and not an integer: 2^⌊x⌋ times e^(frac × ln 2). -/
def pow2Fix (x : Int) : FVal :=
  let k := x / 2 ^ fracBits
  let f := (x % 2 ^ fracBits).toNat
  sticky false (expFix (f * ln2Fix / 2 ^ fracBits)) false (k - fracBits)

/-- 2^x of a finite x: exact at integers; beyond ±2^9 the result is out of range either way. -/
def exp2Value (neg : Bool) (m : Nat) (e : Int) : FVal :=
  if m = 0 then .fin false 1 0
  else if e + (Nat.log2 m : Int) ≥ 9 then (if neg then .fin false 1 (-400) else .fin false 1 400)
  else if 0 ≤ e then .fin false 1 (units neg m e 0)
  else if m % 2 ^ (-e).toNat = 0 then .fin false 1 ((if neg then -1 else 1) * (m / 2 ^ (-e).toNat : Nat))
  else pow2Fix (toFix neg m e)

/-- e^x of a finite nonzero x in fixed point: k = ⌊x / ln 2⌋, the rest below ln 2. -/
def expOfFix (x : Int) : FVal :=
  let k := x / ln2Fix
  let r := (x % ln2Fix).toNat
  sticky false (expFix r) false (k - fracBits)

/-- e^x of a finite x. -/
def expValue (neg : Bool) (m : Nat) (e : Int) : FVal :=
  if m = 0 then .fin false 1 0
  else if e + (Nat.log2 m : Int) ≥ 9 then (if neg then .fin false 1 (-400) else .fin false 1 400)
  else expOfFix (toFix neg m e)

/-- log2 x of a finite positive x = y × 2^h with y in [1, 2): h + ln y / ln 2. -/
def log2Value (m : Nat) (e : Int) : FVal :=
  let b := Nat.log2 m
  let h := e + (b : Int)
  if m = 2 ^ b then intValue h
  else
    let y := m * 2 ^ fracBits / 2 ^ b
    let z := (y - 2 ^ fracBits) * 2 ^ fracBits / (y + 2 ^ fracBits)
    let l : Int := h * 2 ^ fracBits + (2 * atanhFix z * 2 ^ fracBits / ln2Fix : Nat)
    sticky (decide (l < 0)) l.natAbs false (-(fracBits : Int))

/-- tanh |x| = (1 − t)/(1 + t) with t = e^(−2|x|); from 2^4 on the value rounds to 1. -/
def tanhValue (neg : Bool) (m : Nat) (e : Int) : FVal :=
  if m = 0 then .fin neg 0 0
  else if e + (Nat.log2 m : Int) ≥ 4 then .fin neg 1 0
  else
    let x := toFix true m (e + 1)
    let k := x / ln2Fix
    let t := expFix (x % ln2Fix).toNat / 2 ^ (-k).toNat
    sticky neg ((2 ^ fracBits - t) * 2 ^ fracBits / (2 ^ fracBits + t)) false (-(fracBits : Int))

/-- The special functions of major 0x4A. -/
inductive Special where
  | rcp | rsqrt | sqrt | exp2 | log2 | exp | tanh
  deriving DecidableEq, Repr

/-- The exact value of a special function, special inputs as R122's table gives them. -/
def specialValue : Special → FVal → FVal
  | _, .nan => .nan
  | .rcp, .inf n => .fin n 0 0
  | .rsqrt, .inf n => if n then .nan else .fin false 0 0
  | .sqrt, .inf n => if n then .nan else .inf false
  | .exp2, .inf n => if n then .fin false 0 0 else .inf false
  | .exp, .inf n => if n then .fin false 0 0 else .inf false
  | .log2, .inf n => if n then .nan else .inf false
  | .tanh, .inf n => .fin n 1 0
  | .rcp, .fin n m e => if m = 0 then .inf n else rcpValue n m e
  | .rsqrt, .fin n m e => if m = 0 then .inf n else if n then .nan else rsqrtValue m e
  | .sqrt, .fin n m e => if m = 0 then .fin n 0 0 else if n then .nan else sqrtValue m e
  | .exp2, .fin n m e => exp2Value n m e
  | .exp, .fin n m e => expValue n m e
  | .log2, .fin n m e => if m = 0 then .inf true else if n then .nan else log2Value m e
  | .tanh, .fin n m e => tanhValue n m e

/-- A special function on an FP32 lane (R122). -/
def special (f : Special) (a : Word32) : Word32 := roundFp32 (specialValue f (fp32 a))

/-! ### The exact summation cell (R74 to R76) -/

/-- A cell: its four flags, COUNT and VALUE. -/
structure Cell where
  ovf : Bool
  ninf : Bool
  pinf : Bool
  nan : Bool
  count : BitVec 64
  value : BitVec 320
  deriving DecidableEq, Repr

/-- A cell from its 512 bits (R74). -/
def Cell.of (n : Nat) : Cell :=
  { ovf := n / 2 ^ 451 % 2 = 1, ninf := n / 2 ^ 450 % 2 = 1, pinf := n / 2 ^ 449 % 2 = 1, nan := n / 2 ^ 448 % 2 = 1,
    count := BitVec.ofNat 64 (n / 2 ^ 384), value := BitVec.ofNat 320 n }

/-- The 512 bits of a cell (R74). -/
def Cell.bits (c : Cell) : Nat :=
  (if c.ovf then 2 ^ 451 else 0) + (if c.ninf then 2 ^ 450 else 0) + (if c.pinf then 2 ^ 449 else 0)
    + (if c.nan then 2 ^ 448 else 0) + c.count.toNat * 2 ^ 384 + c.value.toNat

/-- cell_add (R75). -/
def Cell.add (c : Cell) (x : FVal) : Cell :=
  let c := { c with count := c.count + 1, ovf := c.ovf || decide ((c.count + 1).toNat > 2 ^ 40) }
  match x with
  | .nan => { c with nan := true }
  | .inf false => { c with pinf := true }
  | .inf true => { c with ninf := true }
  | .fin n m e => { c with value := c.value + BitVec.ofInt 320 (units n m e (-149)) }

/-- The members of an aperture added up for one read (R162). -/
def Cell.merge (a b : Cell) : Cell :=
  { ovf := a.ovf || b.ovf || decide (a.count.toNat + b.count.toNat > 2 ^ 40), ninf := a.ninf || b.ninf, pinf := a.pinf || b.pinf,
    nan := a.nan || b.nan, count := a.count + b.count, value := a.value + b.value }

/-- What reading a cell yields (R76). -/
def Cell.read (c : Cell) : Word32 :=
  if c.ovf then 0x7FC00000
  else if c.nan || (c.pinf && c.ninf) then 0x7FC00000
  else if c.pinf then 0x7F800000
  else if c.ninf then 0xFF800000
  else if c.value = 0 then 0
  else roundFp32 (ofUnits c.value.toInt (-149))

end Sys2Proof.Machine
end

