-- ==== Sys2Proof/Machine/Operands.lean ====
section
/-! DEFINITION. Operand forms: the registers an instruction names, the feature it needs, its lookahead field, how REP
steps its fields, displacements, and the preamble every instruction shares when it issues (R32 to R48, R61, R64). -/

namespace Sys2Proof.Machine

/-- n registers from r upward, those that exist (R45: register blocks). -/
def block (r : GReg) (n : Nat) : List GReg :=
  (List.range n).filterMap fun i => if h : r.val + i < 32 then some ⟨r.val + i, h⟩ else none

/-- The g registers an instruction reads or writes through its encoding (R45). Instructions not listed name none. -/
def gNames : Instr → List GReg
  | .add d a b => [d, a, b]
  | .sub d a b => [d, a, b]
  | .and d a b => [d, a, b]
  | .or d a b => [d, a, b]
  | .xor d a b => [d, a, b]
  | .sll d a b => [d, a, b]
  | .srl d a b => [d, a, b]
  | .sra d a b => [d, a, b]
  | .mul d a b => [d, a, b]
  | .mulh d a b => [d, a, b]
  | .mulhu d a b => [d, a, b]
  | .div _ d a b => [d, a, b]
  | .divu _ d a b => [d, a, b]
  | .rem _ d a b => [d, a, b]
  | .remu _ d a b => [d, a, b]
  | .slt d a b => [d, a, b]
  | .sltu d a b => [d, a, b]
  | .min d a b => [d, a, b]
  | .max d a b => [d, a, b]
  | .mov d a => [d, a]
  | .oadd d a b => [d, a, b]
  | .mkta d a b => [d, a, b]
  | .hdl d a => [d, a]
  | .ofs d a => [d, a]
  | .addi d a _ => [d, a]
  | .andi d a _ => [d, a]
  | .ori d a _ => [d, a]
  | .xori d a _ => [d, a]
  | .slti d a _ => [d, a]
  | .muli d a _ => [d, a]
  | .slli d a _ => [d, a]
  | .srli d a _ => [d, a]
  | .srai d a _ => [d, a]
  | .movi d _ => [d]
  | .movsi d _ => [d]
  | .oaddi d a _ => [d, a]
  | .emovEG _ a => [a]
  | .emovGE d _ => [d]
  | .ctlr d _ => [d]
  | .ctlw _ a => [a]
  | .beq a b _ _ => [a, b]
  | .bne a b _ _ => [a, b]
  | .blt a b _ _ => [a, b]
  | .bge a b _ _ => [a, b]
  | .bltu a b _ _ => [a, b]
  | .bgeu a b _ _ => [a, b]
  | .jal d _ => [d]
  | .jalr d a _ => [d, a]
  | .vtr d => [d]
  | .tid d => [d]
  | .ovld a => [a]
  | .ld _ _ _ _ a d => [a, d]
  | .ldAfter _ _ _ _ a d => [a, d]
  | .st _ _ _ a d => [a, d]
  | .stWitness _ _ _ a d => [a, d]
  | .postedAadd _ _ _ a b => [a, b]
  | .postedAand _ _ _ a b => [a, b]
  | .postedAor _ _ _ a b => [a, b]
  | .postedAxor _ _ _ a b => [a, b]
  | .postedAmin _ _ _ a b => [a, b]
  | .postedAmax _ _ _ a b => [a, b]
  | .postedAfadd _ _ a b => [a, b]
  | .xaddFp32 _ _ a b => [a, b]
  | .xaddBf16 _ _ a b => [a, b]
  | .xaddFp8 _ _ a b => [a, b]
  | .cadd _ _ a b => [a, b]
  | .xclr _ _ a => [a]
  | .crd _ _ a d => [a, d]
  | .xrd _ _ a d => [a, d]
  | .cwait _ a b => [a, b]
  | .wtest _ d _ => [d]
  | .wget _ d _ => [d]
  | .wput _ a b => [a, b]
  | .retAadd _ _ _ a b d => [a, b, d]
  | .retAand _ _ _ a b d => [a, b, d]
  | .retAor _ _ _ a b d => [a, b, d]
  | .retAxor _ _ _ a b d => [a, b, d]
  | .retAmin _ _ _ a b d => [a, b, d]
  | .retAmax _ _ _ a b d => [a, b, d]
  | .aswap _ _ _ a b d => [a, b, d]
  | .acas _ _ _ a b d => [a, b, d]
  | .retAfadd _ _ a b d => [a, b, d]
  | .tshape _ a => [a]
  | .tld _ a _ _ => [a]
  | .tst _ a _ _ => [a]
  | .mma _ _ _ _ _ gs => [gs]
  | .mmar _ _ _ _ _ gs => [gs]
  | .mepi _ _ _ _ b a _ _ _ => [b, a]
  | .mrd _ d _ b => [d, b]
  | .vld _ _ _ a _ => [a]
  | .vst _ _ _ _ a _ => [a]
  | .vlds _ _ _ a _ => [a]
  | .vsts _ _ _ _ a _ => [a]
  | .vrot _ _ _ b => [b]
  | .vsplat _ _ a => [a]
  | .vins _ _ a b => [a, b]
  | .kfromg _ a => [a]
  | .vscls _ _ _ b => [b]
  | .vmovg _ d _ _ => [d]
  | .kmovg _ d _ => [d]
  | .cpy _ _ _ a b => [a, b]
  | .cpys _ _ _ a b => [a, b]
  | .gath _ _ _ a b => [a, b]
  | .fill _ _ _ a b => [a, b]
  | .lay _ _ _ a b => [a, b]
  | .deal _ _ _ a b => [a, b]
  | .tidset _ a => [a]
  | .cpwait a b => [a, b]
  | .pub _ _ a => [a]
  | .walk d a b => [d, a] ++ block b 2
  | .openNode _ _ _ _ _ d a => [d, a]
  | .bind d a b => [d, a] ++ block b 2
  | .unbind a b => [a] ++ block b 2
  | .close a => [a]
  | .stat d a => [d, a]
  | .mkobj _ d a b => [d, a] ++ block b 2
  | .revoke _ a => [a]
  | .send _ n a d => a :: block d n.toNat
  | .sendr _ n a d => a :: block d n.toNat
  | .sendm _ n a d => a :: block d n.toNat
  | .recv _ d => block d 9
  | .peek _ d => block d 9
  | .chb _ v a => if v then [a] else []
  | .chhold _ _ a => [a]
  | .chready _ _ a => [a]
  | .spawn d a b => [d, a, b]
  | .join d a b => [d, a, b]
  | .leave a => [a]
  | .gbar a => [a]
  | .gidx d a => [d, a]
  | .migr a => [a]
  | .repRegister _ x => [x]
  | .hmov x y => [x, y]
  | .hadd x y => [x, y]
  | .hsub x y => [x, y]
  | .hand x y => [x, y]
  | .hor x y => [x, y]
  | .hxor x y => [x, y]
  | .hli x _ => [x]
  | .haddi x _ => [x]
  | .hslli x _ => [x]
  | .hsrli x _ => [x]
  | .hsrai x _ => [x]
  | .hbeqz x _ => [x]
  | .hbnez x _ => [x]
  | .hjr x => [x]
  | _ => []

/-- The g registers an instruction writes (R182). -/
def gWrites : Instr → List GReg
  | .add d _ _ => [d]
  | .sub d _ _ => [d]
  | .and d _ _ => [d]
  | .or d _ _ => [d]
  | .xor d _ _ => [d]
  | .sll d _ _ => [d]
  | .srl d _ _ => [d]
  | .sra d _ _ => [d]
  | .mul d _ _ => [d]
  | .mulh d _ _ => [d]
  | .mulhu d _ _ => [d]
  | .div _ d _ _ => [d]
  | .divu _ d _ _ => [d]
  | .rem _ d _ _ => [d]
  | .remu _ d _ _ => [d]
  | .slt d _ _ => [d]
  | .sltu d _ _ => [d]
  | .min d _ _ => [d]
  | .max d _ _ => [d]
  | .mov d _ => [d]
  | .oadd d _ _ => [d]
  | .mkta d _ _ => [d]
  | .hdl d _ => [d]
  | .ofs d _ => [d]
  | .addi d _ _ => [d]
  | .andi d _ _ => [d]
  | .ori d _ _ => [d]
  | .xori d _ _ => [d]
  | .slti d _ _ => [d]
  | .muli d _ _ => [d]
  | .slli d _ _ => [d]
  | .srli d _ _ => [d]
  | .srai d _ _ => [d]
  | .movi d _ => [d]
  | .movsi d _ => [d]
  | .oaddi d _ _ => [d]
  | .emovGE d _ => [d]
  | .ctlr d _ => [d]
  | .jal d _ => [d]
  | .jalr d _ _ => [d]
  | .vtr d => [d]
  | .tid d => [d]
  | .ld _ _ _ _ _ d => [d]
  | .ldAfter _ _ _ _ _ d => [d]
  | .crd _ _ _ d => [d]
  | .xrd _ _ _ d => [d]
  | .wtest _ d _ => [d]
  | .wget _ d _ => [d]
  | .retAadd _ _ _ _ _ d => [d]
  | .retAand _ _ _ _ _ d => [d]
  | .retAor _ _ _ _ _ d => [d]
  | .retAxor _ _ _ _ _ d => [d]
  | .retAmin _ _ _ _ _ d => [d]
  | .retAmax _ _ _ _ _ d => [d]
  | .aswap _ _ _ _ _ d => [d]
  | .acas _ _ _ _ _ d => [d]
  | .retAfadd _ _ _ _ d => [d]
  | .mrd _ d _ _ => [d]
  | .vmovg _ d _ _ => [d]
  | .kmovg _ d _ => [d]
  | .walk d _ _ => [d]
  | .openNode _ _ _ _ _ d _ => [d]
  | .stat d _ => [d]
  | .mkobj _ d _ _ => [d]
  | .recv _ d => block d 9
  | .peek _ d => block d 9
  | .spawn d _ _ => [d]
  | .join d _ _ => [d]
  | .gidx d _ => [d]
  | .hmov x _ => [x]
  | .hadd x _ => [x]
  | .hsub x _ => [x]
  | .hand x _ => [x]
  | .hor x _ => [x]
  | .hxor x _ => [x]
  | .hli x _ => [x]
  | .haddi x _ => [x]
  | .hslli x _ => [x]
  | .hsrli x _ => [x]
  | .hsrai x _ => [x]
  | _ => []

/-- Whether an instruction reads the g register it also writes as its destination. -/
def readsDest : Instr → Bool
  | .movsi _ _ => true
  | .acas _ _ _ _ _ _ => true
  | .hadd _ _ => true
  | .hsub _ _ => true
  | .hand _ _ => true
  | .hor _ _ => true
  | .hxor _ _ => true
  | .haddi _ _ => true
  | .hslli _ _ => true
  | .hsrli _ _ => true
  | .hsrai _ _ => true
  | _ => false

/-- The g registers an instruction reads without naming them: SPAWN's block g16 to g23 (R281). -/
def gImplied : Instr → List GReg
  | .spawn _ _ _ => [16, 17, 18, 19, 20, 21, 22, 23]
  | _ => []

/-- The g registers an instruction reads: those it names but its destinations, and those it implies (R329). -/
def gReads (i : Instr) : List GReg :=
  (if readsDest i then gNames i else (gWrites i).foldl (fun l r => l.erase r) (gNames i)) ++ gImplied i

/-- The e registers an instruction reads (R329). -/
def eReads : Instr → List EReg
  | .emovGE _ a => [a]
  | .emovEE _ a => [a]
  | .tld _ _ _ b => [b]
  | .tst _ _ _ b => [b]
  | .mepi _ _ act _ _ _ _ _ _ => if act = .clamp then [0, 1] else [0]
  | .vlds _ _ b _ _ => [b]
  | .vsts _ _ _ b _ _ => [b]
  | .cpy _ _ _ _ _ => [0]
  | .cpys _ _ _ _ _ => [0, 1, 2, 3, 4]
  | .gath _ _ _ _ _ => [0, 1]
  | .fill _ _ _ _ _ => [0]
  | .lay _ _ _ _ _ => [0]
  | .deal _ _ _ _ _ => [0]
  | .chb _ v _ => if v then [0] else []
  | .mkobj _ _ _ _ => [0, 1]
  | _ => []

/-- The w registers an instruction reads (R329). -/
def wReads : Instr → List WReg
  | .ldAfter _ _ _ w _ _ => [w]
  | .wmerge _ a b => [a, b]
  | .wchk _ a => [a]
  | .wtest _ _ a => [a]
  | .wget _ _ a => [a]
  | .cpy _ w _ _ _ => w.toList
  | .cpys _ w _ _ _ => w.toList
  | .gath _ w _ _ _ => w.toList
  | .fill _ w _ _ _ => w.toList
  | .lay _ w _ _ _ => w.toList
  | .deal _ w _ _ _ => w.toList
  | _ => []

/-- Whether an instruction reads a register of the slot that has an uncorrectable error: that consumes it (R329). -/
def Slot.readsFlaw (t : Slot) (i : Instr) : Bool :=
  t.flaws.any fun f => match f with
    | .g r => (gReads i).contains r
    | .e r => (eReads i).contains r
    | .w r => (wReads i).contains r
    | _ => false

/-- The destination and the lookahead field of the long-latency forms (R43). -/
def longLatency : Instr → Option (GReg × BitVec 4)
  | .div la d _ _ => some (d, la)
  | .divu la d _ _ => some (d, la)
  | .rem la d _ _ => some (d, la)
  | .remu la d _ _ => some (d, la)
  | .ld la _ _ _ _ d => some (d, la)
  | .ldAfter la _ _ _ _ d => some (d, la)
  | .crd la _ _ d => some (d, la)
  | .xrd la _ _ d => some (d, la)
  | .retAadd la _ _ _ _ d => some (d, la)
  | .retAand la _ _ _ _ d => some (d, la)
  | .retAor la _ _ _ _ d => some (d, la)
  | .retAxor la _ _ _ _ d => some (d, la)
  | .retAmin la _ _ _ _ d => some (d, la)
  | .retAmax la _ _ _ _ d => some (d, la)
  | .aswap la _ _ _ _ d => some (d, la)
  | .acas la _ _ _ _ d => some (d, la)
  | .retAfadd la _ _ _ d => some (d, la)
  | .mrd la d _ _ => some (d, la)
  | .vmovg la d _ _ => some (d, la)
  | .kmovg la d _ => some (d, la)
  | _ => none

/-- The FEAT bit an instruction requires: 0 matrix, 1 vector, 2 copy (R36). -/
def feature : Instr → Option Nat
  | .tshape _ _ => some 0
  | .tld _ _ _ _ => some 0
  | .tst _ _ _ _ => some 0
  | .mma _ _ _ _ _ _ => some 0
  | .mmar _ _ _ _ _ _ => some 0
  | .mepi _ _ _ _ _ _ _ _ _ => some 0
  | .tzero _ => some 0
  | .mrel _ => some 0
  | .macz _ => some 0
  | .mrd _ _ _ _ => some 0
  | .vld _ _ _ _ _ => some 1
  | .vst _ _ _ _ _ _ => some 1
  | .vlds _ _ _ _ _ => some 1
  | .vsts _ _ _ _ _ _ => some 1
  | .vfadd _ _ _ _ => some 1
  | .vfsub _ _ _ _ => some 1
  | .vfmul _ _ _ _ => some 1
  | .vfma _ _ _ _ => some 1
  | .vfms _ _ _ _ => some 1
  | .vfnma _ _ _ _ => some 1
  | .vfmin _ _ _ _ => some 1
  | .vfmax _ _ _ _ => some 1
  | .vfabs _ _ _ => some 1
  | .vfneg _ _ _ => some 1
  | .vadd _ _ _ _ => some 1
  | .vsub _ _ _ _ => some 1
  | .vmul _ _ _ _ => some 1
  | .vand _ _ _ _ => some 1
  | .vor _ _ _ _ => some 1
  | .vxor _ _ _ _ => some 1
  | .vsll _ _ _ _ => some 1
  | .vsrl _ _ _ _ => some 1
  | .vsra _ _ _ _ => some 1
  | .vmin _ _ _ _ => some 1
  | .vmax _ _ _ _ => some 1
  | .vcmp _ _ _ _ _ => some 1
  | .vsel _ _ _ _ => some 1
  | .vcvt _ _ _ _ _ => some 1
  | .vrfadd _ _ _ => some 1
  | .vrfmax _ _ _ => some 1
  | .vrfmin _ _ _ => some 1
  | .vradd _ _ _ => some 1
  | .vrmax _ _ _ => some 1
  | .vrmin _ _ _ => some 1
  | .vrcp _ _ _ => some 1
  | .vrsqrt _ _ _ => some 1
  | .vsqrt _ _ _ => some 1
  | .vexp2 _ _ _ => some 1
  | .vlog2 _ _ _ => some 1
  | .vexp _ _ _ => some 1
  | .vtanh _ _ _ => some 1
  | .vperm _ _ _ _ => some 1
  | .vrot _ _ _ _ => some 1
  | .vsplat _ _ _ => some 1
  | .vins _ _ _ _ => some 1
  | .vrev _ _ _ => some 1
  | .kand _ _ _ => some 1
  | .kor _ _ _ => some 1
  | .kxor _ _ _ => some 1
  | .knot _ _ => some 1
  | .kmov _ _ => some 1
  | .kset _ => some 1
  | .kclr _ => some 1
  | .kfromg _ _ => some 1
  | .vscl _ _ _ _ => some 1
  | .vscls _ _ _ _ => some 1
  | .vmovg _ _ _ _ => some 1
  | .kmovg _ _ _ => some 1
  | .cpy _ _ _ _ _ => some 2
  | .cpys _ _ _ _ _ => some 2
  | .gath _ _ _ _ _ => some 2
  | .fill _ _ _ _ _ => some 2
  | .cpwait _ _ => some 2
  | _ => none

/-- The instructions that trap 0x02 at decode in an unprivileged context (R48, R205). -/
def privilegedInstr : Instr → Bool
  | .revoke _ _ => true
  | .mkobj kind _ _ _ => decide (kind = .mount ∨ kind = .sysnode)
  | _ => false

/-- A register field advanced k times when STEP bit n is set; none past the highest register of its file (R64). -/
def bump {m : Nat} (st : BitVec 4) (n k : Nat) (r : Fin m) : Option (Fin m) :=
  if st.getLsbD n then (if h : r.val + k < m then some ⟨r.val + k, h⟩ else none) else some r

/-- The follower of a REP with its stepped fields advanced k times; none where the follower may not follow REP (R36,
R39), where STEP names a field it lacks (R41), or where a register would pass the highest of its file (R64). The
displacement advances through the state (`repOfs`). -/
def repInstr (st : BitVec 4) (k : Nat) : Instr → Option Instr
  | .add d a b => if st.getLsbD 3 then none else (bump st 0 k d).bind fun d => (bump st 1 k a).bind fun a => (bump st 2 k b).bind fun b => some (.add d a b)
  | .sub d a b => if st.getLsbD 3 then none else (bump st 0 k d).bind fun d => (bump st 1 k a).bind fun a => (bump st 2 k b).bind fun b => some (.sub d a b)
  | .and d a b => if st.getLsbD 3 then none else (bump st 0 k d).bind fun d => (bump st 1 k a).bind fun a => (bump st 2 k b).bind fun b => some (.and d a b)
  | .or d a b => if st.getLsbD 3 then none else (bump st 0 k d).bind fun d => (bump st 1 k a).bind fun a => (bump st 2 k b).bind fun b => some (.or d a b)
  | .xor d a b => if st.getLsbD 3 then none else (bump st 0 k d).bind fun d => (bump st 1 k a).bind fun a => (bump st 2 k b).bind fun b => some (.xor d a b)
  | .sll d a b => if st.getLsbD 3 then none else (bump st 0 k d).bind fun d => (bump st 1 k a).bind fun a => (bump st 2 k b).bind fun b => some (.sll d a b)
  | .srl d a b => if st.getLsbD 3 then none else (bump st 0 k d).bind fun d => (bump st 1 k a).bind fun a => (bump st 2 k b).bind fun b => some (.srl d a b)
  | .sra d a b => if st.getLsbD 3 then none else (bump st 0 k d).bind fun d => (bump st 1 k a).bind fun a => (bump st 2 k b).bind fun b => some (.sra d a b)
  | .mul d a b => if st.getLsbD 3 then none else (bump st 0 k d).bind fun d => (bump st 1 k a).bind fun a => (bump st 2 k b).bind fun b => some (.mul d a b)
  | .mulh d a b => if st.getLsbD 3 then none else (bump st 0 k d).bind fun d => (bump st 1 k a).bind fun a => (bump st 2 k b).bind fun b => some (.mulh d a b)
  | .mulhu d a b => if st.getLsbD 3 then none else (bump st 0 k d).bind fun d => (bump st 1 k a).bind fun a => (bump st 2 k b).bind fun b => some (.mulhu d a b)
  | .div la d a b => if st.getLsbD 3 then none else (bump st 0 k d).bind fun d => (bump st 1 k a).bind fun a => (bump st 2 k b).bind fun b => some (.div la d a b)
  | .divu la d a b => if st.getLsbD 3 then none else (bump st 0 k d).bind fun d => (bump st 1 k a).bind fun a => (bump st 2 k b).bind fun b => some (.divu la d a b)
  | .rem la d a b => if st.getLsbD 3 then none else (bump st 0 k d).bind fun d => (bump st 1 k a).bind fun a => (bump st 2 k b).bind fun b => some (.rem la d a b)
  | .remu la d a b => if st.getLsbD 3 then none else (bump st 0 k d).bind fun d => (bump st 1 k a).bind fun a => (bump st 2 k b).bind fun b => some (.remu la d a b)
  | .slt d a b => if st.getLsbD 3 then none else (bump st 0 k d).bind fun d => (bump st 1 k a).bind fun a => (bump st 2 k b).bind fun b => some (.slt d a b)
  | .sltu d a b => if st.getLsbD 3 then none else (bump st 0 k d).bind fun d => (bump st 1 k a).bind fun a => (bump st 2 k b).bind fun b => some (.sltu d a b)
  | .min d a b => if st.getLsbD 3 then none else (bump st 0 k d).bind fun d => (bump st 1 k a).bind fun a => (bump st 2 k b).bind fun b => some (.min d a b)
  | .max d a b => if st.getLsbD 3 then none else (bump st 0 k d).bind fun d => (bump st 1 k a).bind fun a => (bump st 2 k b).bind fun b => some (.max d a b)
  | .mov d a => if st.getLsbD 2 || st.getLsbD 3 then none else (bump st 0 k d).bind fun d => (bump st 1 k a).bind fun a => some (.mov d a)
  | .oadd d a b => if st.getLsbD 3 then none else (bump st 0 k d).bind fun d => (bump st 1 k a).bind fun a => (bump st 2 k b).bind fun b => some (.oadd d a b)
  | .mkta d a b => if st.getLsbD 3 then none else (bump st 0 k d).bind fun d => (bump st 1 k a).bind fun a => (bump st 2 k b).bind fun b => some (.mkta d a b)
  | .hdl d a => if st.getLsbD 2 || st.getLsbD 3 then none else (bump st 0 k d).bind fun d => (bump st 1 k a).bind fun a => some (.hdl d a)
  | .ofs d a => if st.getLsbD 2 || st.getLsbD 3 then none else (bump st 0 k d).bind fun d => (bump st 1 k a).bind fun a => some (.ofs d a)
  | .addi d a imm => if st.getLsbD 2 || st.getLsbD 3 then none else (bump st 0 k d).bind fun d => (bump st 1 k a).bind fun a => some (.addi d a imm)
  | .andi d a imm => if st.getLsbD 2 || st.getLsbD 3 then none else (bump st 0 k d).bind fun d => (bump st 1 k a).bind fun a => some (.andi d a imm)
  | .ori d a imm => if st.getLsbD 2 || st.getLsbD 3 then none else (bump st 0 k d).bind fun d => (bump st 1 k a).bind fun a => some (.ori d a imm)
  | .xori d a imm => if st.getLsbD 2 || st.getLsbD 3 then none else (bump st 0 k d).bind fun d => (bump st 1 k a).bind fun a => some (.xori d a imm)
  | .slti d a imm => if st.getLsbD 2 || st.getLsbD 3 then none else (bump st 0 k d).bind fun d => (bump st 1 k a).bind fun a => some (.slti d a imm)
  | .muli d a imm => if st.getLsbD 2 || st.getLsbD 3 then none else (bump st 0 k d).bind fun d => (bump st 1 k a).bind fun a => some (.muli d a imm)
  | .slli d a sh => if st.getLsbD 2 || st.getLsbD 3 then none else (bump st 0 k d).bind fun d => (bump st 1 k a).bind fun a => some (.slli d a sh)
  | .srli d a sh => if st.getLsbD 2 || st.getLsbD 3 then none else (bump st 0 k d).bind fun d => (bump st 1 k a).bind fun a => some (.srli d a sh)
  | .srai d a sh => if st.getLsbD 2 || st.getLsbD 3 then none else (bump st 0 k d).bind fun d => (bump st 1 k a).bind fun a => some (.srai d a sh)
  | .movi d imm => if st.getLsbD 1 || st.getLsbD 2 || st.getLsbD 3 then none else (bump st 0 k d).bind fun d => some (.movi d imm)
  | .movsi d imm => if st.getLsbD 1 || st.getLsbD 2 || st.getLsbD 3 then none else (bump st 0 k d).bind fun d => some (.movsi d imm)
  | .oaddi d a imm => if st.getLsbD 2 || st.getLsbD 3 then none else (bump st 0 k d).bind fun d => (bump st 1 k a).bind fun a => some (.oaddi d a imm)
  | .emovEG d a => if st.getLsbD 2 || st.getLsbD 3 then none else (bump st 0 k d).bind fun d => (bump st 1 k a).bind fun a => some (.emovEG d a)
  | .emovGE d a => if st.getLsbD 2 || st.getLsbD 3 then none else (bump st 0 k d).bind fun d => (bump st 1 k a).bind fun a => some (.emovGE d a)
  | .emovEE d a => if st.getLsbD 2 || st.getLsbD 3 then none else (bump st 0 k d).bind fun d => (bump st 1 k a).bind fun a => some (.emovEE d a)
  | .ld la scope size disp a d => if st.getLsbD 2 then none else (bump st 1 k a).bind fun a => (bump st 0 k d).bind fun d => some (.ld la scope size disp a d)
  | .st s size disp a d => if st.getLsbD 2 then none else (bump st 1 k a).bind fun a => (bump st 0 k d).bind fun d => some (.st s size disp a d)
  | .postedAadd wres s wide a b => if st.getLsbD 0 || st.getLsbD 3 then none else (bump st 1 k a).bind fun a => (bump st 2 k b).bind fun b => some (.postedAadd wres s wide a b)
  | .postedAand wres s wide a b => if st.getLsbD 0 || st.getLsbD 3 then none else (bump st 1 k a).bind fun a => (bump st 2 k b).bind fun b => some (.postedAand wres s wide a b)
  | .postedAor wres s wide a b => if st.getLsbD 0 || st.getLsbD 3 then none else (bump st 1 k a).bind fun a => (bump st 2 k b).bind fun b => some (.postedAor wres s wide a b)
  | .postedAxor wres s wide a b => if st.getLsbD 0 || st.getLsbD 3 then none else (bump st 1 k a).bind fun a => (bump st 2 k b).bind fun b => some (.postedAxor wres s wide a b)
  | .postedAmin wres s wide a b => if st.getLsbD 0 || st.getLsbD 3 then none else (bump st 1 k a).bind fun a => (bump st 2 k b).bind fun b => some (.postedAmin wres s wide a b)
  | .postedAmax wres s wide a b => if st.getLsbD 0 || st.getLsbD 3 then none else (bump st 1 k a).bind fun a => (bump st 2 k b).bind fun b => some (.postedAmax wres s wide a b)
  | .postedAfadd wres s a b => if st.getLsbD 0 || st.getLsbD 3 then none else (bump st 1 k a).bind fun a => (bump st 2 k b).bind fun b => some (.postedAfadd wres s a b)
  | .xaddFp32 wres s a b => if st.getLsbD 0 || st.getLsbD 3 then none else (bump st 1 k a).bind fun a => (bump st 2 k b).bind fun b => some (.xaddFp32 wres s a b)
  | .xaddBf16 wres s a b => if st.getLsbD 0 || st.getLsbD 3 then none else (bump st 1 k a).bind fun a => (bump st 2 k b).bind fun b => some (.xaddBf16 wres s a b)
  | .xaddFp8 wres s a b => if st.getLsbD 0 || st.getLsbD 3 then none else (bump st 1 k a).bind fun a => (bump st 2 k b).bind fun b => some (.xaddFp8 wres s a b)
  | .cadd wres s a b => if st.getLsbD 0 || st.getLsbD 3 then none else (bump st 1 k a).bind fun a => (bump st 2 k b).bind fun b => some (.cadd wres s a b)
  | .xclr wres s a => if st.getLsbD 0 || st.getLsbD 2 || st.getLsbD 3 then none else (bump st 1 k a).bind fun a => some (.xclr wres s a)
  | .tld d a disp b => (bump st 0 k d).bind fun d => (bump st 1 k a).bind fun a => (bump st 2 k b).bind fun b => some (.tld d a disp b)
  | .tst d a disp b => (bump st 0 k d).bind fun d => (bump st 1 k a).bind fun a => (bump st 2 k b).bind fun b => some (.tst d a disp b)
  | .mma zf acc a b vp gs => if st.getLsbD 3 then none else (bump st 0 k acc).bind fun acc => (bump st 1 k a).bind fun a => (bump st 2 k b).bind fun b => some (.mma zf acc a b vp gs)
  | .vld mask width disp a d => if st.getLsbD 2 then none else (bump st 1 k a).bind fun a => (bump st 0 k d).bind fun d => some (.vld mask width disp a d)
  | .vst mask width s disp a d => if st.getLsbD 2 then none else (bump st 1 k a).bind fun a => (bump st 0 k d).bind fun d => some (.vst mask width s disp a d)
  | .vlds mask width b a d => if st.getLsbD 3 then none else (bump st 2 k b).bind fun b => (bump st 1 k a).bind fun a => (bump st 0 k d).bind fun d => some (.vlds mask width b a d)
  | .vsts mask width s b a d => if st.getLsbD 3 then none else (bump st 2 k b).bind fun b => (bump st 1 k a).bind fun a => (bump st 0 k d).bind fun d => some (.vsts mask width s b a d)
  | .vfadd mask d a b => if st.getLsbD 3 then none else (bump st 0 k d).bind fun d => (bump st 1 k a).bind fun a => (bump st 2 k b).bind fun b => some (.vfadd mask d a b)
  | .vfsub mask d a b => if st.getLsbD 3 then none else (bump st 0 k d).bind fun d => (bump st 1 k a).bind fun a => (bump st 2 k b).bind fun b => some (.vfsub mask d a b)
  | .vfmul mask d a b => if st.getLsbD 3 then none else (bump st 0 k d).bind fun d => (bump st 1 k a).bind fun a => (bump st 2 k b).bind fun b => some (.vfmul mask d a b)
  | .vfma mask d a b => if st.getLsbD 3 then none else (bump st 0 k d).bind fun d => (bump st 1 k a).bind fun a => (bump st 2 k b).bind fun b => some (.vfma mask d a b)
  | .vfms mask d a b => if st.getLsbD 3 then none else (bump st 0 k d).bind fun d => (bump st 1 k a).bind fun a => (bump st 2 k b).bind fun b => some (.vfms mask d a b)
  | .vfnma mask d a b => if st.getLsbD 3 then none else (bump st 0 k d).bind fun d => (bump st 1 k a).bind fun a => (bump st 2 k b).bind fun b => some (.vfnma mask d a b)
  | .vfmin mask d a b => if st.getLsbD 3 then none else (bump st 0 k d).bind fun d => (bump st 1 k a).bind fun a => (bump st 2 k b).bind fun b => some (.vfmin mask d a b)
  | .vfmax mask d a b => if st.getLsbD 3 then none else (bump st 0 k d).bind fun d => (bump st 1 k a).bind fun a => (bump st 2 k b).bind fun b => some (.vfmax mask d a b)
  | .vfabs mask d a => if st.getLsbD 2 || st.getLsbD 3 then none else (bump st 0 k d).bind fun d => (bump st 1 k a).bind fun a => some (.vfabs mask d a)
  | .vfneg mask d a => if st.getLsbD 2 || st.getLsbD 3 then none else (bump st 0 k d).bind fun d => (bump st 1 k a).bind fun a => some (.vfneg mask d a)
  | .vadd mask d a b => if st.getLsbD 3 then none else (bump st 0 k d).bind fun d => (bump st 1 k a).bind fun a => (bump st 2 k b).bind fun b => some (.vadd mask d a b)
  | .vsub mask d a b => if st.getLsbD 3 then none else (bump st 0 k d).bind fun d => (bump st 1 k a).bind fun a => (bump st 2 k b).bind fun b => some (.vsub mask d a b)
  | .vmul mask d a b => if st.getLsbD 3 then none else (bump st 0 k d).bind fun d => (bump st 1 k a).bind fun a => (bump st 2 k b).bind fun b => some (.vmul mask d a b)
  | .vand mask d a b => if st.getLsbD 3 then none else (bump st 0 k d).bind fun d => (bump st 1 k a).bind fun a => (bump st 2 k b).bind fun b => some (.vand mask d a b)
  | .vor mask d a b => if st.getLsbD 3 then none else (bump st 0 k d).bind fun d => (bump st 1 k a).bind fun a => (bump st 2 k b).bind fun b => some (.vor mask d a b)
  | .vxor mask d a b => if st.getLsbD 3 then none else (bump st 0 k d).bind fun d => (bump st 1 k a).bind fun a => (bump st 2 k b).bind fun b => some (.vxor mask d a b)
  | .vsll mask d a b => if st.getLsbD 3 then none else (bump st 0 k d).bind fun d => (bump st 1 k a).bind fun a => (bump st 2 k b).bind fun b => some (.vsll mask d a b)
  | .vsrl mask d a b => if st.getLsbD 3 then none else (bump st 0 k d).bind fun d => (bump st 1 k a).bind fun a => (bump st 2 k b).bind fun b => some (.vsrl mask d a b)
  | .vsra mask d a b => if st.getLsbD 3 then none else (bump st 0 k d).bind fun d => (bump st 1 k a).bind fun a => (bump st 2 k b).bind fun b => some (.vsra mask d a b)
  | .vmin mask d a b => if st.getLsbD 3 then none else (bump st 0 k d).bind fun d => (bump st 1 k a).bind fun a => (bump st 2 k b).bind fun b => some (.vmin mask d a b)
  | .vmax mask d a b => if st.getLsbD 3 then none else (bump st 0 k d).bind fun d => (bump st 1 k a).bind fun a => (bump st 2 k b).bind fun b => some (.vmax mask d a b)
  | .vcmp c mask d a b => if st.getLsbD 3 then none else (bump st 0 k d).bind fun d => (bump st 1 k a).bind fun a => (bump st 2 k b).bind fun b => some (.vcmp c mask d a b)
  | .vsel kk d a b => if st.getLsbD 3 then none else (bump st 0 k d).bind fun d => (bump st 1 k a).bind fun a => (bump st 2 k b).bind fun b => some (.vsel kk d a b)
  | .vcvt c mask rm d a => if st.getLsbD 2 || st.getLsbD 3 then none else (bump st 0 k d).bind fun d => (bump st 1 k a).bind fun a => some (.vcvt c mask rm d a)
  | .vrfadd mask d a => if st.getLsbD 2 || st.getLsbD 3 then none else (bump st 0 k d).bind fun d => (bump st 1 k a).bind fun a => some (.vrfadd mask d a)
  | .vrfmax mask d a => if st.getLsbD 2 || st.getLsbD 3 then none else (bump st 0 k d).bind fun d => (bump st 1 k a).bind fun a => some (.vrfmax mask d a)
  | .vrfmin mask d a => if st.getLsbD 2 || st.getLsbD 3 then none else (bump st 0 k d).bind fun d => (bump st 1 k a).bind fun a => some (.vrfmin mask d a)
  | .vradd mask d a => if st.getLsbD 2 || st.getLsbD 3 then none else (bump st 0 k d).bind fun d => (bump st 1 k a).bind fun a => some (.vradd mask d a)
  | .vrmax mask d a => if st.getLsbD 2 || st.getLsbD 3 then none else (bump st 0 k d).bind fun d => (bump st 1 k a).bind fun a => some (.vrmax mask d a)
  | .vrmin mask d a => if st.getLsbD 2 || st.getLsbD 3 then none else (bump st 0 k d).bind fun d => (bump st 1 k a).bind fun a => some (.vrmin mask d a)
  | .vrcp mask d a => if st.getLsbD 2 || st.getLsbD 3 then none else (bump st 0 k d).bind fun d => (bump st 1 k a).bind fun a => some (.vrcp mask d a)
  | .vrsqrt mask d a => if st.getLsbD 2 || st.getLsbD 3 then none else (bump st 0 k d).bind fun d => (bump st 1 k a).bind fun a => some (.vrsqrt mask d a)
  | .vsqrt mask d a => if st.getLsbD 2 || st.getLsbD 3 then none else (bump st 0 k d).bind fun d => (bump st 1 k a).bind fun a => some (.vsqrt mask d a)
  | .vexp2 mask d a => if st.getLsbD 2 || st.getLsbD 3 then none else (bump st 0 k d).bind fun d => (bump st 1 k a).bind fun a => some (.vexp2 mask d a)
  | .vlog2 mask d a => if st.getLsbD 2 || st.getLsbD 3 then none else (bump st 0 k d).bind fun d => (bump st 1 k a).bind fun a => some (.vlog2 mask d a)
  | .vexp mask d a => if st.getLsbD 2 || st.getLsbD 3 then none else (bump st 0 k d).bind fun d => (bump st 1 k a).bind fun a => some (.vexp mask d a)
  | .vtanh mask d a => if st.getLsbD 2 || st.getLsbD 3 then none else (bump st 0 k d).bind fun d => (bump st 1 k a).bind fun a => some (.vtanh mask d a)
  | .vperm mask d a b => if st.getLsbD 3 then none else (bump st 0 k d).bind fun d => (bump st 1 k a).bind fun a => (bump st 2 k b).bind fun b => some (.vperm mask d a b)
  | .vrot mask d a b => if st.getLsbD 3 then none else (bump st 0 k d).bind fun d => (bump st 1 k a).bind fun a => (bump st 2 k b).bind fun b => some (.vrot mask d a b)
  | .vsplat mask d a => if st.getLsbD 2 || st.getLsbD 3 then none else (bump st 0 k d).bind fun d => (bump st 1 k a).bind fun a => some (.vsplat mask d a)
  | .vins mask d a b => if st.getLsbD 3 then none else (bump st 0 k d).bind fun d => (bump st 1 k a).bind fun a => (bump st 2 k b).bind fun b => some (.vins mask d a b)
  | .vrev mask d a => if st.getLsbD 2 || st.getLsbD 3 then none else (bump st 0 k d).bind fun d => (bump st 1 k a).bind fun a => some (.vrev mask d a)
  | .kand d a b => if st.getLsbD 3 then none else (bump st 0 k d).bind fun d => (bump st 1 k a).bind fun a => (bump st 2 k b).bind fun b => some (.kand d a b)
  | .kor d a b => if st.getLsbD 3 then none else (bump st 0 k d).bind fun d => (bump st 1 k a).bind fun a => (bump st 2 k b).bind fun b => some (.kor d a b)
  | .kxor d a b => if st.getLsbD 3 then none else (bump st 0 k d).bind fun d => (bump st 1 k a).bind fun a => (bump st 2 k b).bind fun b => some (.kxor d a b)
  | .knot d a => if st.getLsbD 2 || st.getLsbD 3 then none else (bump st 0 k d).bind fun d => (bump st 1 k a).bind fun a => some (.knot d a)
  | .kmov d a => if st.getLsbD 2 || st.getLsbD 3 then none else (bump st 0 k d).bind fun d => (bump st 1 k a).bind fun a => some (.kmov d a)
  | .kset d => if st.getLsbD 1 || st.getLsbD 2 || st.getLsbD 3 then none else (bump st 0 k d).bind fun d => some (.kset d)
  | .kclr d => if st.getLsbD 1 || st.getLsbD 2 || st.getLsbD 3 then none else (bump st 0 k d).bind fun d => some (.kclr d)
  | .kfromg d a => if st.getLsbD 2 || st.getLsbD 3 then none else (bump st 0 k d).bind fun d => (bump st 1 k a).bind fun a => some (.kfromg d a)
  | .vscl mask d a b => if st.getLsbD 3 then none else (bump st 0 k d).bind fun d => (bump st 1 k a).bind fun a => (bump st 2 k b).bind fun b => some (.vscl mask d a b)
  | .vscls mask d a b => if st.getLsbD 3 then none else (bump st 0 k d).bind fun d => (bump st 1 k a).bind fun a => (bump st 2 k b).bind fun b => some (.vscls mask d a b)
  | .hmov x y => if st.getLsbD 2 || st.getLsbD 3 then none else (bump st 0 k x).bind fun x => (bump st 1 k y).bind fun y => some (.hmov x y)
  | .hadd x y => if st.getLsbD 2 || st.getLsbD 3 then none else (bump st 0 k x).bind fun x => (bump st 1 k y).bind fun y => some (.hadd x y)
  | .hsub x y => if st.getLsbD 2 || st.getLsbD 3 then none else (bump st 0 k x).bind fun x => (bump st 1 k y).bind fun y => some (.hsub x y)
  | .hand x y => if st.getLsbD 2 || st.getLsbD 3 then none else (bump st 0 k x).bind fun x => (bump st 1 k y).bind fun y => some (.hand x y)
  | .hor x y => if st.getLsbD 2 || st.getLsbD 3 then none else (bump st 0 k x).bind fun x => (bump st 1 k y).bind fun y => some (.hor x y)
  | .hxor x y => if st.getLsbD 2 || st.getLsbD 3 then none else (bump st 0 k x).bind fun x => (bump st 1 k y).bind fun y => some (.hxor x y)
  | .hli x imm => if st.getLsbD 1 || st.getLsbD 2 || st.getLsbD 3 then none else (bump st 0 k x).bind fun x => some (.hli x imm)
  | .haddi x imm => if st.getLsbD 1 || st.getLsbD 2 || st.getLsbD 3 then none else (bump st 0 k x).bind fun x => some (.haddi x imm)
  | .hslli x imm => if st.getLsbD 1 || st.getLsbD 2 || st.getLsbD 3 then none else (bump st 0 k x).bind fun x => some (.hslli x imm)
  | .hsrli x imm => if st.getLsbD 1 || st.getLsbD 2 || st.getLsbD 3 then none else (bump st 0 k x).bind fun x => some (.hsrli x imm)
  | .hsrai x imm => if st.getLsbD 1 || st.getLsbD 2 || st.getLsbD 3 then none else (bump st 0 k x).bind fun x => some (.hsrai x imm)
  | _ => none

/-! ### Immediates and displacements (R35) -/

/-- IMM14, sign-extended. -/
def imm14 (x : BitVec 14) : Word := x.signExtend 64

/-- The repetition index a stepped displacement adds (R64). -/
def State.repOfs (s : State) : Nat :=
  match s.slot.rep with
  | some r => if r.step.getLsbD 3 then r.done.toNat else 0
  | none => 0

/-- A DISP5 in bytes: scaled by the access, one more unit per repetition under stepo (R35, R64). -/
def State.disp (s : State) (d : BitVec 5) (scale : Nat) : Int := (d.toInt + s.repOfs) * scale

/-- The handle field of a tree address (R60). -/
def taHandle (a : Word) : Nat := bits a 48 16

/-- The offset field of a tree address (R60). -/
def taOfs (a : Word) : Nat := bits a 0 48

/-- A tree address from handle and offset. -/
def mkTa (h o : Nat) : Word := BitVec.ofNat 16 h ++ BitVec.ofNat 48 o

/-- Handle of a, offset plus d; none when the offset leaves 0 to 2^48 − 1 (R60, R61). -/
def offsetAdd (a : Word) (d : Int) : Option Word :=
  let o : Int := (taOfs a : Int) + d
  if o < 0 ∨ o ≥ 2 ^ 48 then none else some (mkTa (taHandle a) o.toNat)

/-! ### Issue -/

/-- Whether a register stands in an open window of the slot. -/
def Slot.windowed (t : Slot) (r : GReg) : Bool := t.windows.any fun w => w.reg == r

/-- Whether a long-latency instruction would open an eighth window (R45). -/
def overCapacity (t : Slot) : Option (GReg × BitVec 4) → Option GReg
  | some (r, n) => if r ≠ 0 ∧ n ≠ 0 ∧ 7 ≤ t.windows.length then some r else none
  | none => none

/-- The causes found at decode, in the order of R48; 0x01 and 0x07 are found before an instruction reaches exec. -/
def decodeCause (i : Instr) (s : State) : Option (Cause × Word) :=
  if privilegedInstr i && !s.slot.priv then some (Cause.privileged, s.word)
  else if (match feature i with | some n => !s.core.feat.getLsbD n | none => false) then some (Cause.featureAbsent, s.word)
  else match (gNames i).find? s.slot.windowed with
    | some r => some (Cause.lookahead, BitVec.ofNat 64 r.val)
    | none => match overCapacity s.slot (longLatency i) with
      | some r => some (Cause.lookahead, BitVec.ofNat 64 (128 + r.val))
      | none => none

/-- A result the next instruction waits for: its register stands in no open window (R44); g0 has none (R327). -/
def Slot.waitsFor (t : Slot) (r : Result) : Bool := decide (r.reg = 0) || !t.windowed r.reg

/-- What holds the next instruction back once its decode causes are clear (R44, R327): an uncorrectable error to be
reported, a result to be waited for, or nothing. -/
inductive Gate where
  | go
  | wait
  | poisoned (ta : Word)
  | detected (ta : Word)
  deriving DecidableEq, Repr

/-- The gate of the slot in focus. -/
def gate (s : State) : Gate :=
  match (s.outstanding.filter s.slot.waitsFor).findSome? fun r => r.src.poisoned with
  | some ta => .poisoned ta
  | none =>
    if s.outstanding.any s.slot.waitsFor then .wait
    else match s.core.detected.find? (fun d => d.1 = s.sel) with
      | some d => if s.outstanding = [] then .detected d.2 else .wait
      | none => .go

/-- The preamble of every instruction: decode causes, then waits, then its own effect (R44, R45, R48). -/
def issue (i : Instr) (s : State) (k : State → Out) : Out :=
  match decodeCause i s with
  | some (c, v) => trap c v s
  | none => match gate s with
    | .go => if s.slot.readsFlaw i then trap Cause.errorConsumed 0 s else k s
    | .wait => stall s
    | .poisoned ta => trap Cause.errorConsumed ta s
    | .detected ta =>
      trap Cause.errorConsumed ta { s with core := { s.core with detected := s.core.detected.filter fun d => d.1 ≠ s.sel } }

/-- Waits until every earlier long-latency result of the slot has been written; a poisoned one traps (R69, R214, R274, R327). -/
def resultsReady (s : State) (k : Out) : Out :=
  match s.outstanding with
  | [] => k
  | r :: l => match (r :: l).findSome? fun r => r.src.poisoned with
    | some ta => trap Cause.errorConsumed ta s
    | none => stall s

/-- Whether the executing slot is an activation on a core that holds a resident task (R50, R94, R107, R274). -/
def State.actBesideTask (s : State) : Bool := decide (s.sel = .act) && decide (s.core.task.run ≠ .free)

/-! ### Witness operands (R146, R152) -/

/-- What reading a witness register answers: its value, a wait, or in an activation the trap for a register left
pending by `pub.conf` (R177). -/
def readW (r : WReg) (s : State) (k : Word128 → Out) : Out :=
  match s.w r with
  | .val x => k x
  | .pending .confirmation _ => if s.sel = .act then trap Cause.blockingInActivation s.word s else stall s
  | .pending _ _ => stall s

end Sys2Proof.Machine
end

