-- ==== Sys2Proof/Machine/Homes.lean ====
section
/-! DEFINITION. Homes of bytes (R224, R225 of spec/14_memory_and_translation.md), regions of cores, the datum (R148,
R187) and judging witnesses (R147 to R150 of spec/09_streams_witnesses_and_atomics.md). -/

namespace Sys2Proof.Machine

/-! ### Places and homes -/

/-- The die that holds a physical address (R224). -/
def paDie (pa : Nat) : Nat := pa / 2 ^ 37 % 4

/-- The home slice of a physical address within its die (R224). -/
def paSlice (pa : Nat) : Nat :=
  (pa / 2 ^ 8 % 64) ^^^ (pa / 2 ^ 14 % 64) ^^^ (pa / 2 ^ 20 % 64) ^^^ (pa / 2 ^ 26 % 64) ^^^ (pa / 2 ^ 32 % 32)

/-- The home slice of a physical address, counted over the package (R2, R224). -/
def sliceOf (pa : Nat) : Nat := paDie pa * 64 + paSlice pa

/-- Whether a port stays down after bring-up (R366). -/
def State.portDown (s : State) (port : Nat) : Bool := s.portsDown.getLsbD port

/-- The home of a place: an endpoint identifier (R225). -/
def State.homeOf (s : State) : Place → Nat
  | .sram c _ => s.endpoint c
  | .hbm pa => s.endpoint (0x1000 + sliceOf pa)
  | .host port _ => s.endpoint (0x1124 + port)
  | .peer dev _ _ => dev * 8192 + 0x1FFF

/-- The place n bytes on. -/
def Place.add : Place → Nat → Place
  | .sram c o, n => .sram c (o + n)
  | .hbm pa, n => .hbm (pa + n)
  | .host p a, n => .host p (a + n)
  | .peer d k o, n => .peer d k (o + n)

/-- The first byte of a place's 64-byte line. -/
def Place.line : Place → Place
  | .sram c o => .sram c (o / 64 * 64)
  | .hbm pa => .hbm (pa / 64 * 64)
  | .host p a => .host p (a / 64 * 64)
  | .peer d k o => .peer d k (o / 64 * 64)

/-- The lines n bytes from a place touch. -/
def Place.lines (p : Place) (n : Nat) : List Place :=
  if n ≤ 1 then [p.line] else if (p.add (n - 1)).line = p.line then [p.line] else [p.line, (p.add (n - 1)).line]

/-- Host memory's key of an address behind a port (R228). -/
def hostKey (port addr : Nat) : Nat := port * 2 ^ 64 + addr % 2 ^ 64

/-- One byte at a place; another device's bytes are not held here. -/
def State.byteAt (s : State) : Place → Byte
  | .sram c o => memRead (s.coreOf c).sram o
  | .hbm pa => memRead s.hbm pa
  | .host p a => memRead s.host (hostKey p a)
  | .peer _ _ _ => Mem.unlisted

/-- n bytes from a place upward. -/
def State.bytesAt (s : State) (p : Place) (n : Nat) : List Byte := (List.range n).map fun i => s.byteAt (p.add i)

/-- A little-endian number of n bytes at a place (R5). -/
def State.natAt (s : State) (p : Place) (n : Nat) : Nat := leNat (s.bytesAt p n)

/-- Writes the enabled bytes from a place upward. -/
def State.putAt (s : State) (p : Place) (l : List (Option Byte)) : State :=
  match p with
  | .sram c o => s.onCore c fun k => { k with sram := memPutEnabled k.sram o l }
  | .hbm pa => { s with hbm := memPutEnabled s.hbm pa l }
  | .host q a => { s with host := memPutEnabled s.host (hostKey q a) l }
  | .peer _ _ _ => s

/-- Writes n bytes of a number at a place (R5). -/
def State.putNat (s : State) (p : Place) (n x : Nat) : State := s.putAt p ((natBytes n x).map some)

/-- Whether a place's line is poisoned (R326). -/
def State.poisonedAt (s : State) : Place → Bool
  | .sram c o => (s.coreOf c).poison.contains (o / 64)
  | .hbm pa => s.hbmPoison.contains (pa / 64)
  | _ => false

/-- Clears the poison mark of a place's line (R326). -/
def State.clearPoison (s : State) : Place → State
  | .sram c o => s.onCore c fun k => { k with poison := k.poison.filter (· ≠ o / 64) }
  | .hbm pa => { s with hbmPoison := s.hbmPoison.filter (· ≠ pa / 64) }
  | _ => s

/-! ### Regions (R1, R2, R293) -/

/-- Die of a core (R2). -/
def coreDie (c : Nat) : Nat := c / 1024
/-- Row of a core in its die (R2). -/
def coreY (c : Nat) : Nat := c / 32 % 32
/-- Column of a core in its die (R2). -/
def coreX (c : Nat) : Nat := c % 32
/-- Cluster of a core: 4 × 4 blocks, 64 to a die (R1). -/
def coreCluster (c : Nat) : Nat := coreDie c * 64 + coreY c / 4 * 8 + coreX c / 4
/-- Sector of a core, numbered as R293 numbers them. -/
def coreSector (c : Nat) : Nat := coreDie c * 4 + coreY c / 16 * 2 + coreX c / 16

/-- The region of a scope a core lies in (R148). -/
def regionOf (scope : Scope) (core : Nat) : Nat :=
  match scope with
  | .core => core
  | .clu => coreCluster core
  | .sec => coreSector core
  | .die => coreDie core
  | _ => 0

/-- Whether a scope's region covers a source endpoint of this device (R148): cores with their copy engines, layout
engines from die scope upward, dispatch cores at package scope; ports' writes join no datum. -/
def covers (scope : Scope) (region src : Nat) : Bool :=
  if src < 4096 then decide (regionOf scope src = region)
  else if 0x1000 ≤ src ∧ src < 0x1100 then
    match scope with
    | .die => decide ((src - 0x1000) / 64 = region)
    | .pkg => true
    | .dom => true
    | _ => false
  else if isDispatch src then decide (scope = .pkg ∨ scope = .dom)
  else false

/-! ### The datum (R148) -/

/-- The age of the oldest unsettled stamp among stores, none when there is none. -/
def oldestAge (vt : BitVec 48) : List Store → Nat
  | [] => 0
  | x :: l => max (vt - x.stamp).toNat (oldestAge vt l)

/-- A sample taken now: the oldest stamp among the unsettled stores the region covers, or VT (R148). -/
def State.sample (s : State) (scope : Scope) (region : Nat) : BitVec 48 :=
  s.vt - BitVec.ofNat 48 (oldestAge s.vt (s.stores.filter fun x => x.covered && covers scope region x.src))

/-- The published datum of a scope as a core sees it: sampled every cycle at core scope, else as last published (R148);
domain scope is the package datum for the executing device. -/
def State.datum (s : State) (scope : Scope) (core : Nat) : BitVec 48 :=
  match scope with
  | .core => s.sample .core core
  | .clu => tabGetD s.published (1 * 4096 + coreCluster core) 0
  | .sec => tabGetD s.published (2 * 4096 + coreSector core) 0
  | .die => tabGetD s.published (3 * 4096 + coreDie core) 0
  | _ => tabGetD s.published (4 * 4096) 0

/-! ### Witness values (R131, R132, R146) -/

/-- A field of a witness. -/
def wbits (x : Word128) (lo len : Nat) : Nat := x.toNat / 2 ^ lo % 2 ^ len

/-- KIND: 0 null, 1 store, 2 transfer, 3 stamp. -/
def witKind (x : Word128) : Nat := wbits x 126 2
/-- EPOCH. -/
def witEpoch (x : Word128) : BitVec 6 := BitVec.ofNat 6 (wbits x 120 6)
/-- STAMP. -/
def witStamp (x : Word128) : BitVec 48 := BitVec.ofNat 48 (wbits x 72 48)
/-- SOURCE of a store witness, ENGINE of a transfer witness. -/
def witSource (x : Word128) : Nat := wbits x 51 21
/-- The origin device: of SOURCE, of ENGINE, or DEVICE (R149, R152). -/
def witDevice (x : Word128) : Nat := if witKind x = 3 then wbits x 64 8 else witSource x / 8192

/-- A store witness (R146). -/
def storeWitness (epoch : BitVec 6) (stamp : BitVec 48) (source stream seq home origin : Nat) : Word128 :=
  BitVec.ofNat 128 (2 ^ 126 + epoch.toNat * 2 ^ 120 + stamp.toNat * 2 ^ 72 + source * 2 ^ 51 + stream * 2 ^ 48
    + seq * 2 ^ 24 + home * 2 ^ 3 + origin * 2)

/-- A transfer witness (R131). -/
def transferWitness (epoch : BitVec 6) (stamp : BitVec 48) (engine number status : Nat) : Word128 :=
  BitVec.ofNat 128 (2 * 2 ^ 126 + epoch.toNat * 2 ^ 120 + stamp.toNat * 2 ^ 72 + engine * 2 ^ 51 + number * 2 ^ 8 + status)

/-- A stamp witness (R132). -/
def stampWitness (epoch : BitVec 6) (stamp : BitVec 48) (device : Nat) : Word128 :=
  BitVec.ofNat 128 (3 * 2 ^ 126 + epoch.toNat * 2 ^ 120 + stamp.toNat * 2 ^ 72 + device * 2 ^ 64)

/-- A stamp witness of now, of this device. -/
def State.stampNow (s : State) : Word128 := stampWitness s.epoch s.vt s.device.toNat

/-- Whether a 128-bit value breaks a zero field of its kind (R132, R146). -/
def witMalformed (x : Word128) : Bool :=
  match witKind x with
  | 0 => decide (x ≠ 0)
  | 1 => decide (wbits x 0 1 ≠ 0 ∨ wbits x 1 2 = 3)
  | 2 => decide (wbits x 40 11 ≠ 0)
  | _ => decide (wbits x 0 64 ≠ 0)

/-- Whether a device belongs to the domain: this one, or one a route entry reaches (R2, R344; log entry 13). -/
def State.inDomain (s : State) (dev : Nat) : Bool :=
  decide (dev = s.device.toNat) ||
    [0, 1, 2, 3].any fun d => (tabGetD s.routes (256 * d + dev) 0).getLsbD 63

/-- Whether a witness is expired (R147). -/
def State.expired (s : State) (x : Word128) : Bool :=
  if witDevice x = s.device.toNat then
    decide (witEpoch x ≠ s.epoch) || decide ((s.vt - witStamp x).toNat ≥ 2 ^ 47)
  else match tabGet s.beacons (witDevice x) with
    | none => false
    | some b =>
      (decide (witEpoch x ≠ b.epoch) && decide (witEpoch x ≠ b.epoch + 1)) ||
        (decide (witEpoch x = b.epoch) && decide ((b.vt - witStamp x).toNat ≥ 2 ^ 47))

/-- `scope_check`: whether a witness may be checked at a scope by a core; it traps 0x1D otherwise (R150). -/
def State.scopeOk (s : State) (x : Word128) (scope : Scope) (core : Nat) : Bool :=
  match witKind x with
  | 1 =>
    if scope.code ≤ 3 then
      decide (witSource x / 8192 = s.device.toNat) && decide (witSource x % 8192 < 4096) &&
        decide (regionOf scope (witSource x % 8192) = regionOf scope core)
    else if scope.code = 4 then decide (witSource x / 8192 = s.device.toNat)
    else if scope.code = 5 then s.inDomain (witSource x / 8192)
    else decide (witSource x = s.endpoint core)
  | 3 =>
    if scope.code ≤ 4 then decide (witDevice x = s.device.toNat)
    else if scope.code = 5 then s.inDomain (witDevice x)
    else false
  | _ => true

/-- Whether the store a witness names has settled (R149, scopes 6 and 7). -/
def State.storeSettled (s : State) (x : Word128) : Bool :=
  !s.stores.any fun t => decide (s.endpoint t.src = witSource x ∧ t.origin = wbits x 1 2 ∧ t.stream.val = wbits x 48 3
    ∧ t.seq.toNat = wbits x 24 24)

/-- Whether a witness that passes its scope check is satisfied now (R149). -/
def State.satisfied (s : State) (x : Word128) (scope : Scope) (core : Nat) : Bool :=
  if witKind x = 0 ∨ witKind x = 2 then true
  else if s.expired x then true
  else if scope.code ≥ 6 then s.storeSettled x
  else if witDevice x = s.device.toNat then stampAfter (s.datum scope core) (witStamp x)
  else match tabGet s.beacons (witDevice x) with
    | some b => decide (witEpoch x = b.epoch) && stampAfter b.datum (witStamp x)
    | none => false

/-- Whether a witness needs no judging: null, transfer or expired (R149, R151). -/
def State.triviallySatisfied (s : State) (x : Word128) : Bool :=
  decide (witKind x = 0 ∨ witKind x = 2) || s.expired x

end Sys2Proof.Machine
end

