-- ==== Sys2Proof/Machine/Translate.lean ====
section
/-! DEFINITION. From a tree address to places: handles, kinds, bounds, rights, page tables and translation caches
(R138, R139, R212, R220, R227 to R234, R373). -/

namespace Sys2Proof.Machine

/-! ### Contexts and handles -/

/-- The context of a number. -/
def State.context (s : State) (c : Nat) : Context := tabGetD s.contexts c Context.absent

/-- A kernel's record. -/
def State.kernelRec (s : State) (k : Nat) : Kernel := tabGetD s.kernels k Kernel.absent

/-- The handle of the plat root, index 0xFFF0 (R192, R202). -/
def rootHandle (c : Context) : Handle :=
  { node := .own c.root, rights := { read := true, write := false, shadow := false },
    ceiling := { read := true, write := true, shadow := false }, follow := false, pin := none, shadow := none,
    dead := false, closing := false }

/-- Whether a shootdown is still on its way to a core; the hub, where it starts, knows of it at once (R196, R233, R371). -/
def Shootdown.ahead (d : Shootdown) (core : Nat) : Bool := decide (core < 4096) && !d.reached.contains core

/-- Whether a shootdown belongs to a CLOSE, or else to a REVOKE (R195, R209). -/
def Shootdown.closes (d : Shootdown) : Bool :=
  match d.why with
  | .close _ => true
  | _ => false

/-- Whether the last shootdown a CLOSE, or a REVOKE, of a handle has issued is still on its way to a core (R196, R209, R233). -/
def State.notYetShot (s : State) (close : Bool) (core ctx h : Nat) : Bool :=
  match (s.shootdowns.filter fun d => decide (d.what = .handle ctx h ∧ d.closes = close)).getLast? with
  | some d => d.ahead core
  | none => false

/-- The handle entry as a core sees it: 0x0A when null, reserved or not open, 0x0B when dead (R203, R227). -/
def State.handleOf (s : State) (core ctx h : Nat) : Except Cause Handle :=
  if h = 0xFFF0 then .ok (rootHandle (s.context ctx))
  else if h = 0 ∨ h > 0xFFF0 then .error Cause.handleInvalid
  else match tabGet (s.context ctx).handles h with
    | none => .error Cause.handleInvalid
    | some x =>
      if x.closing && !s.notYetShot true core ctx h then .error Cause.handleInvalid
      else if x.dead && !s.notYetShot false core ctx h then .error Cause.handleRevoked
      else .ok x

/-- The node of a number on this device. -/
def State.node (s : State) (n : Nat) : Option Node := tabGet s.nodes n

/-- The version a node's name is bound to as a core sees it: the old one until the publication's shootdown reaches the
core (R178, R233). -/
def State.boundSeen (s : State) (core n bound : Nat) : Nat :=
  match s.shootdowns.findSome? (fun d => match d.what with
    | .node m old => if m = n ∧ d.ahead core then some old else none
    | _ => none) with
  | some old => old
  | none => bound

/-- The version an access through a handle reaches (R133, R207, R227). -/
def State.versionOf (s : State) (core n bound : Nat) (h : Handle) : Nat :=
  match h.shadow with
  | some v => v
  | none => match h.pin with
    | some v => v
    | none => s.boundSeen core n bound

/-- A version among a node's. -/
def findVersion (l : List Version) (v : Nat) : Option Version := l.find? fun x => x.id = v

/-! ### Core sets (R373) -/

/-- A dword the hub reads for itself: of a line with an uncorrectable error it gets what is not stated (R326; log entry 71). -/
def State.hubDword (s : State) (pa : Nat) : Word :=
  if s.hbmPoison.contains (pa / 64) then Config.poisonedWord s.tick pa else memDword s.hbm pa

/-- A byte the hub reads for itself. -/
def State.hubByte (s : State) (pa : Nat) : Byte :=
  if s.hbmPoison.contains (pa / 64) then BitVec.ofNat 8 (bits (Config.poisonedWord s.tick (pa / 8 * 8)) (8 * (pa % 8)) 8) else memRead s.hbm pa

/-- Bytes the hub reads for itself. -/
def State.hubBytes (s : State) (pa n : Nat) : List Byte := (List.range n).map fun i => s.hubByte (pa + i)

/-- A field of a /hv/vf record (R359). -/
def State.vfField (s : State) (f ofs n : Nat) : Nat := leNat (s.hubBytes (objectBase 9 + 128 * f + ofs) n)

/-- Whether a core lies in a function's core set (R373). -/
def State.inCoreSet (s : State) (vf core : Nat) : Bool :=
  if core ≥ 4096 then false
  else if vf = pfFunction then true
  else if vf < 16 ∧ s.vfField vf 1 1 = 0 then decide (s.vfField vf 2 2 / 2 ^ coreSector core % 2 = 1)
  else match (s.coreOf core).alloc with
    | some a => decide (a.vf = vf)
    | none => false

/-- Core number m of an endpoint window, row by row from its base (R211). -/
def windowMember (base width m : Nat) : Nat := base + 32 * (m / width) + m % width

/-! ### Kinds of access -/

/-- How an instruction accesses memory, as R138's table divides them. -/
inductive AccOp where
  | load | store | posted | returning | cadd | xadd | crd | xrd
  deriving DecidableEq, Repr

/-- Whether an access reads only. -/
def AccOp.reads : AccOp → Bool
  | .load => true
  | .crd => true
  | .xrd => true
  | _ => false

/-- Whether the rights admit the access (R138). -/
def AccOp.allowed (o : AccOp) (r : Rights) : Bool :=
  match o with
  | .load => r.read
  | .crd => r.read
  | .xrd => r.read
  | .store => r.write || r.shadow
  | .posted => r.write || r.shadow
  | .returning => r.write || r.shadow
  | .cadd => r.write
  | .xadd => r.write

/-- What lies at the end of a handle, as far as R138's table tells them apart. -/
inductive Target where
  | sram
  | bytes        -- memory or queue object in HBM
  | core         -- another core's SRAM, through a window
  | peerBytes    -- memory object through a peer mount
  | hostBytes
  | apertureIn (exact : Bool)
  | apertureOut (exact : Bool)
  | counter (peer : Bool)
  | cell (peer : Bool)
  deriving DecidableEq, Repr

/-- R138's table: the trap of an access that its object does not admit; an aperture of cells admits what cells do, one of memory objects
answers xrd with 0x26, and host memory keeps its row's 0x26 for cadd, xadd and xclr (log entry 14). -/
def kindRule (t : Target) (o : AccOp) : Option Cause :=
  match t, o with
  | .sram, .load => none
  | .sram, .store => none
  | .sram, .posted => none
  | .sram, .returning => none
  | .sram, .cadd => some Cause.counterInvalid
  | .sram, .xadd => some Cause.cellMisaligned
  | .sram, .crd => some Cause.counterInvalid
  | .sram, .xrd => some Cause.kindMismatch
  | .bytes, .load => none
  | .bytes, .store => none
  | .bytes, .posted => none
  | .bytes, .returning => none
  | .bytes, .cadd => some Cause.counterInvalid
  | .bytes, .xadd => some Cause.cellMisaligned
  | .bytes, .crd => some Cause.counterInvalid
  | .bytes, .xrd => some Cause.kindMismatch
  | .core, .load => some Cause.kindMismatch
  | .core, .store => none
  | .core, .posted => none
  | .core, .returning => none
  | .core, .cadd => some Cause.counterInvalid
  | .core, .xadd => some Cause.cellMisaligned
  | .core, .crd => some Cause.counterInvalid
  | .core, .xrd => some Cause.kindMismatch
  | .peerBytes, .load => some Cause.kindMismatch
  | .peerBytes, .store => none
  | .peerBytes, .posted => none
  | .peerBytes, .returning => none
  | .peerBytes, .cadd => some Cause.counterInvalid
  | .peerBytes, .xadd => some Cause.cellMisaligned
  | .peerBytes, .crd => some Cause.counterInvalid
  | .peerBytes, .xrd => some Cause.kindMismatch
  | .hostBytes, .store => none
  | .hostBytes, .crd => some Cause.counterInvalid
  | .hostBytes, _ => some Cause.kindMismatch
  | .apertureIn exact, .load => if exact then some Cause.kindMismatch else none
  | .apertureIn exact, .store => if exact then some Cause.kindMismatch else none
  | .apertureIn exact, .posted => if exact then some Cause.kindMismatch else none
  | .apertureIn _, .cadd => some Cause.counterInvalid
  | .apertureIn exact, .xadd => if exact then none else some Cause.cellMisaligned
  | .apertureIn _, .returning => some Cause.kindMismatch
  | .apertureIn _, .crd => some Cause.counterInvalid
  | .apertureIn exact, .xrd => if exact then none else some Cause.kindMismatch
  | .apertureOut _, .load => some Cause.apertureOutside
  | .apertureOut exact, .store => if exact then some Cause.kindMismatch else none
  | .apertureOut exact, .posted => if exact then some Cause.kindMismatch else none
  | .apertureOut _, .cadd => some Cause.counterInvalid
  | .apertureOut exact, .xadd => if exact then none else some Cause.cellMisaligned
  | .apertureOut _, .returning => some Cause.kindMismatch
  | .apertureOut _, .crd => some Cause.counterInvalid
  | .apertureOut _, .xrd => some Cause.apertureOutside
  | .counter _, .cadd => none
  | .counter peer, .crd => if peer then some Cause.counterInvalid else none
  | .counter _, .xadd => some Cause.cellMisaligned
  | .counter _, _ => some Cause.kindMismatch
  | .cell _, .xadd => none
  | .cell peer, .xrd => if peer then some Cause.kindMismatch else none
  | .cell _, .cadd => some Cause.counterInvalid
  | .cell _, .crd => some Cause.counterInvalid
  | .cell _, _ => some Cause.kindMismatch

/-! ### Page tables (R229, R230) -/

/-- Leaf level, group size and bytes of a page size code (R230). -/
def pageShape (code : Nat) : Nat × Nat × Nat :=
  match code with
  | 0 => (0, 1, 4096)
  | 1 => (0, 4, 16384)
  | 2 => (0, 16, 65536)
  | 3 => (0, 64, 262144)
  | 4 => (1, 1, 2097152)
  | 5 => (1, 8, 16777216)
  | 6 => (1, 128, 268435456)
  | _ => (2, 1, 1073741824)

/-- What a walk of the tables finds (R230, R327). -/
inductive Walked where
  | absent
  | poisoned
  | page (frame size : Nat) (w r : Bool)
  deriving DecidableEq, Repr

/-- Whether an entry's must-be-zero bits are clear: [56:44], [39], [11:0] (R229). -/
def pteOk (e : Word) : Bool := decide (bits e 44 13 = 0 ∧ bits e 39 1 = 0 ∧ bits e 0 12 = 0) && e.getLsbD 63

/-- A leaf at level l: its group's first entry supplies frame and rights, and is asked for V, LEAF, SIZE and alignment only (R230). -/
def walkLeaf (s : State) (t l idx : Nat) (e : Word) : Walked :=
  let shape := pageShape (bits e 60 3)
  if shape.1 ≠ l then .absent
  else
    let a := t + 8 * (idx - idx % shape.2.1)
    let hd := memDword s.hbm a
    if s.hbmPoison.contains (a / 64) then .poisoned
    else if !hd.getLsbD 63 || !hd.getLsbD 59 || decide (bits hd 60 3 ≠ bits e 60 3) ||
        decide (bits hd 12 27 * 4096 % shape.2.2 ≠ 0) then .absent
    else .page (bits hd 12 27 * 4096) shape.2.2 (hd.getLsbD 58) (hd.getLsbD 57)

/-- The walk, from level `l − 1` downward (R230). -/
def walk (s : State) : Nat → Nat → Nat → Walked
  | 0, _, _ => .absent
  | l + 1, t, o =>
    let idx := o / 2 ^ (12 + 9 * l) % 512
    let e := memDword s.hbm (t + 8 * idx)
    if s.hbmPoison.contains ((t + 8 * idx) / 64) then .poisoned
    else if !pteOk e then .absent
    else if e.getLsbD 59 then walkLeaf s t l idx e
    else if l = 0 ∨ bits e 60 3 ≠ 0 then .absent
    else walk s l (bits e 12 27 * 4096) o

/-! ### Translation caches (R232) -/

/-- Whether a cached translation serves an offset. -/
def Tlb.serves (t : Tlb) (ctx h node ver o : Nat) : Bool :=
  decide (t.ctx = ctx ∧ t.handle = h ∧ t.node = node ∧ t.ver = ver ∧ t.page ≤ o ∧ o < t.page + t.size)

/-- The sector cache of a core. -/
def State.sectorCache (s : State) (core : Nat) : List Tlb := tabGetD s.sectorTlb (coreSector core) []

/-- Whether a cached translation matches a shootdown (R233). -/
def Tlb.shot (t : Tlb) : Shot → Bool
  | .handle ctx h => decide (t.ctx = ctx ∧ t.handle = h)
  | .node n _ => decide (t.node = n)
  | .range v lo hi => decide (t.ver = v ∧ t.page < hi ∧ lo < t.page + t.size)

/-- Whether a walk in progress would fill an entry that matches a shootdown (R233). -/
def Miss.shot (m : Miss) : Shot → Bool
  | .handle ctx h => decide (m.ctx = ctx ∧ m.handle = h)
  | .node n _ => decide (m.node = n)
  | .range v lo hi => decide (m.ver = v ∧ m.ofs < hi ∧ lo < m.ofs + 4096)

/-- Sector caches are a shootdown's targets 4,096 onward, by sector (R371). -/
def sectorTarget : Nat := 4096

/-- Whether a shootdown has reached a core and not yet its sector's cache, whose matching entries are no use to the core (R371). -/
def Shootdown.between (d : Shootdown) (core : Nat) : Bool :=
  d.reached.contains core && !d.reached.contains (sectorTarget + coreSector core)

/-- The cached translation a core finds, in its own cache or its sector's (R232). -/
def State.cached (s : State) (core ctx h node ver o : Nat) : Option Tlb :=
  match (s.coreOf core).tlb.find? fun t => t.serves ctx h node ver o with
  | some t => some t
  | none => (s.sectorCache core).find? fun t =>
      t.serves ctx h node ver o && !s.shootdowns.any fun d => d.between core && t.shot d.what

/-- Places an entry first and keeps at most n: the least recently used goes (R232). -/
def cachePut {α : Type} [DecidableEq α] (l : List α) (t : α) (n : Nat) : List α := (t :: l.filter (· ≠ t)).take n

/-- The set of a sector cache an entry belongs to, of 256 (R232; log entry 69). -/
def Tlb.set (t : Tlb) : Nat := t.page / t.size % 256

/-- Places an entry first in its set of 8 ways (R232). -/
def sectorPut (l : List Tlb) (t : Tlb) : List Tlb :=
  let rest := l.filter (· ≠ t)
  let kept := (rest.filter fun x => x.set = t.set).take 7
  t :: rest.filter fun x => decide (x.set ≠ t.set) || kept.contains x

/-- An entry as a core has just used it: it is the core's most recent, and a hit in the sector's cache fills the core's (R232). -/
def State.touch (s : State) (core : Nat) (t : Tlb) : State :=
  let s1 := s.onCore core fun c => { c with tlb := cachePut c.tlb t 64 }
  if (s.coreOf core).tlb.contains t then s1
  else { s1 with sectorTlb := tabPut s1.sectorTlb (coreSector core) (sectorPut (s1.sectorCache core) t) }

/-! ### Descriptors (R228) -/

/-- LOC, ROOT and WHERE of a descriptor, with LEVELS − 1 (R228). -/
def Loc.words : Loc → Nat × Nat × Nat × Nat
  | .hbm root levels => (0, levels - 1, root, 0)
  | .host port base job => (1, 0, base, port % 8 + job * 2 ^ 8)
  | .peer dev node => (2, 0, node, dev)
  | .fixed base => (0, 0, base, 0)

/-- A memory with a descriptor written: CTRL, LENGTH, ROOT and WHERE (R228). -/
def putDescriptor (m : Mem) (a : Nat) (kind : Kind) (loc levels length root place : Nat) : Mem :=
  memPut m a (natBytes 8 (kind.code + loc * 2 ^ 4 + levels * 2 ^ 8) ++ natBytes 8 length ++ natBytes 8 root ++ natBytes 8 place)

/-- A memory with the descriptor of a version of a node written. -/
def describe (m : Mem) (kind : Kind) (v : Version) : Mem :=
  let w := v.loc.words
  putDescriptor m (descriptorOf v.id) kind w.1 w.2.1 v.length w.2.2.1 w.2.2.2

/-- A memory with the descriptor of a node that has no versions written: an aperture, an endpoint window or a mount (R228). -/
def describeNode (m : Mem) (n : Nat) (kind : Kind) : Body → Mem
  | .mcast _ _ len => putDescriptor m (nodeDescriptorOf n) kind 4 0 len 0 0
  | .epwin _ w h => putDescriptor m (nodeDescriptorOf n) kind 3 0 (w * h * 2 ^ 19) 0 0
  | .mount dev node => putDescriptor m (nodeDescriptorOf n) kind 2 0 0 node dev
  | _ => m

/-- ROOT and LEVELS that a descriptor in HBM gives (R228). -/
def descriptorRoot (m : Mem) (id : Nat) : Nat × Nat :=
  ((memDword m (descriptorOf id + 16)).toNat, bits (memDword m (descriptorOf id)) 8 2 + 1)

/-- The handle and descriptor entries of a core's sector cache. -/
def State.sectorEntries (s : State) (core : Nat) : List (Nat × Nat × Nat) := tabGetD s.sectorHandles (coreSector core) []

/-- Whether a walk of a core would meet a poisoned descriptor: one its sector's cache does not hold is read (R234, R327). -/
def State.descriptorBad (s : State) (core ctx hi : Nat) (v : Version) : Bool :=
  !(s.sectorEntries core).contains (ctx, hi, v.id) && s.hbmPoison.contains (descriptorOf v.id / 64)

/-- Whether a miss is for the 4 KiB of a version at an offset, through a handle. -/
def Miss.isFor (m : Miss) (ctx hi n ver o : Nat) : Bool :=
  decide (m.ctx = ctx ∧ m.handle = hi ∧ m.node = n ∧ m.ver = ver ∧ m.ofs = o / 4096 * 4096)

/-- Whether a walk for a core has ended without the page. -/
def State.barrenFor (s : State) (core ctx hi n ver o : Nat) : Bool :=
  s.barren.any fun m => m.cores.contains core && m.isFor ctx hi n ver o

/-- What one page of an access translates to. -/
inductive PageOut where
  /-- the place, with the cached entry that gave it -/
  | found (p : Place) (hit : Option Tlb)
  | fail (c : Cause)
  | miss
  /-- a page that another version shares must be copied first: its offset and size (R231) -/
  | copy (page size : Nat)
  deriving DecidableEq, Repr

/-- Whether a write to the page at an offset must copy it first: a shadow handle's first write, or a page still shared (R231). -/
def needsCopy (h : Handle) (v : Version) (page : Nat) : Bool :=
  if h.rights.shadow && h.shadow.isNone then true
  else match v.own with
    | some l => !l.contains page
    | none => false

/-- Translates one offset of an object version for a core (R227): 0x0E and 0x0F, 0x2F for a poisoned table or descriptor, a
miss to be walked, or a page to be copied. What no cache holds is walked first, and a walk that found no page is judged (R234, R266). -/
def translatePage (s : State) (core ctx hi n : Nat) (h : Handle) (v : Version) (write : Bool) (o : Nat) : PageOut :=
  match v.loc with
  | .fixed base => .found (.hbm (base + o)) none
  | .host port base _ => .found (.host port (base + o)) none
  | .peer dev node => .found (.peer dev node o) none
  | .hbm root levels =>
    match s.cached core ctx hi n v.id o with
    | some t =>
      if write && !t.w then .fail Cause.pageRights
      else if !write && !t.r then .fail Cause.pageRights
      else if write && needsCopy h v t.page then .copy t.page t.size
      else .found (.hbm (t.frame + (o - t.page))) (some t)
    | none =>
      if !s.barrenFor core ctx hi n v.id o then .miss
      else if s.descriptorBad core ctx hi v then .fail Cause.errorConsumed
      else match walk s levels root o with
      | .absent => .fail Cause.absent
      | .poisoned => .fail Cause.errorConsumed
      | .page .. => .miss

/-! ### Reaching -/

/-- An access that has passed its checks up to alignment (R227): the offsets it stands at in one member or in each. -/
inductive Reach where
  /-- the executing core's SRAM -/
  | own (o : Nat)
  /-- a version of an object of this device -/
  | object (n : Nat) (h : Handle) (v : Version) (o : Nat)
  /-- another core's SRAM -/
  | member (core : Nat) (o : Nat)
  /-- a node of another device -/
  | peer (dev n : Nat) (o : Nat)
  /-- every member of an aperture, with its combining operation -/
  | aperture (op : Nat) (members : List (NodeRef × Nat)) (o : Nat)
  deriving DecidableEq, Repr

/-- Granules of the scratchpad: 32 − T − A (R218). -/
def scratchGranules (partw : Word) : Nat := 32 - bits partw 0 6 - bits partw 8 6

/-- Bytes of a core's scratchpad (R218). -/
def Core.scratch (c : Core) : Nat := scratchGranules c.partw * 16384

/-- The members of an aperture lie in the package (R138): own nodes in HBM. -/
def State.membersInside (s : State) (l : List (NodeRef × Nat)) : Bool :=
  l.all fun m => match m.1 with
    | .remote _ _ => false
    | .own n => match s.node n with
      | some { body := .object _ vs, .. } => vs.all fun v => match v.loc with
        | .hbm _ _ => true
        | .fixed _ => true
        | _ => false
      | _ => false

/-- Alignment of an access (R139): cells to 64 bytes (0x1F), everything else to its size (0x08). -/
def alignRule (o : AccOp) (ofs n : Nat) : Option Cause :=
  match o with
  | .xadd => if ofs % 64 = 0 then none else some Cause.cellMisaligned
  | .xrd => if ofs % 64 = 0 then none else some Cause.cellMisaligned
  | .cadd => if ofs % 8 = 0 then none else some Cause.misaligned
  | .crd => if ofs % 8 = 0 then none else some Cause.misaligned
  | _ => if ofs % n = 0 then none else some Cause.misaligned

/-- Kind rule and alignment in the order of R138, `align` false for forms without an alignment rule (R96, R111). -/
def thenAlign (t : Target) (op : AccOp) (align : Bool) (o n : Nat) (r : Reach) : Except Cause Reach :=
  match kindRule t op with
  | some c => .error c
  | none => match (if align then alignRule op o n else none) with
    | some c => .error c
    | none => .ok r

/-- Bounds and rights before R138's table (0x0C, 0x0D). -/
def boundsRights (o n length : Nat) (op : AccOp) (r : Rights) (k : Except Cause Reach) : Except Cause Reach :=
  if o + n > length then .error Cause.beyondObject
  else if !op.allowed r then .error Cause.rights
  else k

/-- What lies behind a peer mount, by the kind the peer named: a queue there is taken as a memory object (R138; log entry 14). -/
def remoteTarget : Kind → Option Target
  | .mem => some .peerBytes
  | .queue => some .peerBytes
  | .ctr => some (.counter true)
  | .cell => some (.cell true)
  | _ => none

/-- The checks of an access of n bytes at a tree address, up to translation (R138, R139, R212, R220, R227, R373). -/
def State.reach (s : State) (core ctx : Nat) (op : AccOp) (align : Bool) (ta : Word) (n : Nat) : Except Cause Reach :=
  let hi := taHandle ta
  let o := taOfs ta
  if hi = 0 then
    let c := s.coreOf core
    if o + n > c.scratch then .error Cause.beyondObject
    else if o < c.exb.toNat then
      .error (match op with
        | .load => Cause.executeOnly
        | .crd => Cause.counterInvalid
        | .xrd => Cause.kindMismatch
        | _ => Cause.codeWrite)
    else thenAlign .sram op align o n (.own o)
  else match s.handleOf core ctx hi with
    | .error c => .error c
    | .ok h => match h.node with
      | .remote dev m => match tabGet s.remotes (dev * 2 ^ 32 + m) with
        | some (k, len) => match remoteTarget k with
          | some t => boundsRights o n len op h.rights (thenAlign t op align o n (.peer dev m o))
          | none => .error Cause.kindMismatch
        | none => .error Cause.kindMismatch
      | .own m => match s.node m with
        | none => .error Cause.handleInvalid
        | some nd => match nd.body with
          | .dir _ => .error Cause.kindMismatch
          | .mount _ _ => .error Cause.kindMismatch
          | .sysnode _ => .error Cause.kindMismatch
          | .epwin base w ht =>
            boundsRights o n (w * ht * 524288) op h.rights
              (match thenAlign .core op align o n (.member (windowMember base w (o / 524288)) (o % 524288)) with
                | .ok r => if s.inCoreSet (s.context ctx).vf (windowMember base w (o / 524288)) then .ok r
                    else .error Cause.outsideWindow
                | .error c => .error c)
          | .mcast aop ms len =>
            boundsRights o n len op h.rights
              (thenAlign (if s.membersInside ms then .apertureIn (decide (aop = 3)) else .apertureOut (decide (aop = 3)))
                op align o n (.aperture aop ms o))
          | .object bound vs => match findVersion vs (s.versionOf core m bound h) with
            | none => .error Cause.handleInvalid
            | some v =>
              boundsRights o n v.length op h.rights
                (thenAlign (match nd.kind, v.loc with
                    | .ctr, .peer _ _ => .counter true
                    | .ctr, _ => .counter false
                    | .cell, .peer _ _ => .cell true
                    | .cell, _ => .cell false
                    | _, .host _ _ _ => .hostBytes
                    | _, .peer _ _ => .peerBytes
                    | _, _ => .bytes)
                  op align o n (.object m h v o))

/-! ### Frames (R204, R231) -/

/-- Rounds a frame number up to a page's alignment. -/
def alignFrame (f size : Nat) : Nat := (f + size / 4096 - 1) / (size / 4096) * (size / 4096)

/-- Takes up to m pages of a size from the free extents, first fit: the runs taken (first frame and pages), what is left
free, and the pages still wanting. -/
def takeRuns (size : Nat) : Nat → List (Nat × Nat) → List (Nat × Nat) × List (Nat × Nat) × Nat
  | m, [] => ([], [], m)
  | m, (a, n) :: l =>
    let f := alignFrame a size
    let c := min m ((a + n - f) / (size / 4096))
    let r := takeRuns size (m - c) l
    if c = 0 then (r.1, (a, n) :: r.2.1, r.2.2)
    else
      let stop := f + c * (size / 4096)
      ((f, c) :: r.1, ([(a, f - a), (stop, a + n - stop)].filter fun x => x.2 ≠ 0) ++ r.2.1, r.2.2)

/-- Whether a home slice refuses allocation (R366). -/
def State.sliceOut (s : State) (slice : Nat) : Bool := s.badSlices.contains slice || s.deadDies.getLsbD (slice / 64)

/-- Whether every line of a page of a size, from a frame on, lies in a slice that allocates (R224, R366). -/
def State.pageAllowed (s : State) (size f : Nat) : Bool :=
  (List.range (min (size / 256) 64)).all fun i => !s.sliceOut (sliceOf (4096 * f + 256 * i))

/-- The first m pages of k frames each among n candidates from a frame on that a test passes. -/
def allowedPages (ok : Nat → Bool) (k : Nat) : Nat → Nat → Nat → List Nat
  | 0, _, _ => []
  | n + 1, f, m => if m = 0 then [] else if ok f then f :: allowedPages ok k n (f + k) (m - 1) else allowedPages ok k n (f + k) m

/-- What is left of the frames from a to e without pages of k frames, which rise. -/
def withoutPages (k : Nat) : List Nat → Nat → Nat → List (Nat × Nat)
  | [], a, e => if a < e then [(a, e - a)] else []
  | f :: l, a, e => (if a < f then [(a, f - a)] else []) ++ withoutPages k l (f + k) e

/-- `takeRuns` over the pages that a test passes. -/
def takeAllowed (ok : Nat → Bool) (size : Nat) : Nat → List (Nat × Nat) → List (Nat × Nat) × List (Nat × Nat) × Nat
  | m, [] => ([], [], m)
  | m, (a, n) :: l =>
    let k := size / 4096
    let f := alignFrame a size
    let ps := allowedPages ok k ((a + n - f) / k) f m
    let r := takeAllowed ok size (m - ps.length) l
    (ps.map (fun p => (p, 1)) ++ r.1, withoutPages k ps a (a + n) ++ r.2.1, r.2.2)

/-- Takes m pages of a size; none where the package has no such free frames (R204), and none in a slice that refuses (R366). -/
def State.takePages (s : State) (size m : Nat) : Option (List (Nat × Nat) × State) :=
  let r := if s.badSlices = [] ∧ s.deadDies = 0 then takeRuns size m s.freeFrames else takeAllowed (s.pageAllowed size) size m s.freeFrames
  if r.2.2 = 0 then some (r.1, { s with freeFrames := r.2.1 }) else none

/-- Takes one frame of a size. -/
def State.takeFrame (s : State) (size : Nat) : Option (Nat × State) :=
  match s.takePages size 1 with
  | some ((f, _) :: _, t) => some (f, t)
  | _ => none

/-- The extents of runs of pages. -/
def runExtents (size : Nat) (l : List (Nat × Nat)) : List (Nat × Nat) := l.map fun r => (r.1, r.2 * (size / 4096))

/-- The frame of page i of runs of pages. -/
def runFrame (size : Nat) : List (Nat × Nat) → Nat → Nat
  | [], _ => 0
  | (f, c) :: l, i => if i < c then f + i * (size / 4096) else runFrame size l (i - c)

/-- What an extent keeps outside another. -/
def extentCut (x e : Nat × Nat) : List (Nat × Nat) :=
  [(e.1, min e.2 (x.1 - e.1)), (max e.1 (x.1 + x.2), e.1 + e.2 - max e.1 (x.1 + x.2))].filter fun y => y.2 ≠ 0

/-- Extents without others. -/
def extentsCut (l xs : List (Nat × Nat)) : List (Nat × Nat) := xs.foldl (fun l x => l.flatMap (extentCut x)) l

/-- Adds an extent to rising ones, joining what touches it. -/
def extentAdd : Nat × Nat → List (Nat × Nat) → List (Nat × Nat)
  | e, [] => [e]
  | e, x :: l =>
    if e.1 + e.2 < x.1 then e :: x :: l
    else if x.1 + x.2 < e.1 then x :: extentAdd e l
    else extentAdd (min e.1 x.1, max (e.1 + e.2) (x.1 + x.2) - min e.1 x.1) l

/-- Gives extents of frames back. -/
def State.giveFrames (s : State) (l : List (Nat × Nat)) : State := { s with freeFrames := l.foldl (fun f e => extentAdd e f) s.freeFrames }

/-- Whether a physical address lies in extents of frames. -/
def inExtents (l : List (Nat × Nat)) (pa : Nat) : Bool := l.any fun e => decide (e.1 * 4096 ≤ pa ∧ pa < (e.1 + e.2) * 4096)

/-! ### Versions and their pages (R133, R204, R231) -/

/-- Adds a version to a node's list, or replaces it, with its descriptor (R228). -/
def State.putVersion (s : State) (n : Nat) (v : Version) : State :=
  match s.node n with
  | some nd => match nd.body with
    | .object bound vs =>
      { s with nodes := tabPut s.nodes n { nd with body := .object bound (vs.filter (fun x => x.id ≠ v.id) ++ [v]) },
               hbm := describe s.hbm nd.kind v }
    | _ => s
  | none => s

/-- Changes a handle-table entry of a context. -/
def State.onHandle (s : State) (ctx hi : Nat) (f : Handle → Handle) : State :=
  let c := s.context ctx
  match tabGet c.handles hi with
  | some h => { s with contexts := tabPut s.contexts ctx { c with handles := tabPut c.handles hi (f h) } }
  | none => s

/-- Changes a context. -/
def State.onContext (s : State) (ctx : Nat) (f : Context → Context) : State :=
  { s with contexts := tabPut s.contexts ctx (f (s.context ctx)) }

/-- Whether a write makes the handle's shadow version: its first since the OPEN or the last PUB (R133, R177). -/
def Handle.fresh (h : Handle) : Bool := h.rights.shadow && h.shadow.isNone

/-- The context that pays for a page a write copies (R178, R231). -/
def copyPayer (ctx : Nat) (h : Handle) (v : Version) : Nat := if h.fresh then ctx else v.payer

/-- Whether n more bytes can be given to a context: its MAXBYTES and its function's entitlement of frames (R204, R360). -/
def State.room (s : State) (ctx n : Nat) : Bool :=
  let c := s.context ctx
  decide (c.bytes + n ≤ c.maxBytes) &&
    (decide (c.vf > 16) || decide (((s.contexts.filter fun x => x.2.vf = c.vf).map fun x => x.2.bytes).foldl (· + ·) 0 + n
      ≤ s.vfField c.vf 6 2 * 2 ^ 31))

/-- The kernel a core is allocated to, 0 when none. -/
def State.kernelOf (s : State) (core : Nat) : Nat :=
  if core < 4096 then (match (s.coreOf core).alloc with
    | some a => a.kernel
    | none => 0) else 0

/-- Copies n dwords of HBM, from a to b. -/
def copyDwords : Nat → Mem → Nat → Nat → Mem
  | 0, m, _, _ => m
  | n + 1, m, a, b => copyDwords n (memPutDword m b (memDword m a)) (a + 8) (b + 8)

/-- Copies n bytes of HBM, whole lines: an uncorrectable error is marked in the copy too (R326). -/
def State.copyHbm (s : State) (a b n : Nat) : State :=
  let bad := (s.hbmPoison.filter fun l => decide (a / 64 ≤ l ∧ l < (a + n) / 64)).map fun l => l - a / 64 + b / 64
  { s with hbm := copyDwords (n / 8) s.hbm a b,
           hbmPoison := (s.hbmPoison.filter fun l => !decide (b / 64 ≤ l ∧ l < (b + n) / 64)) ++ bad }

/-- Gives a version tables of its own along the walk to an offset, so that one page can be replaced without another
version seeing it (R231): a table in a shared frame is copied to a free one. Answers the extents of the version and the new
table; none where no frame is free. -/
def ownTables (shared : List (Nat × Nat)) : Nat → State → List (Nat × Nat) → Nat → Nat → Option (State × List (Nat × Nat) × Nat)
  | 0, s, fs, t, _ => some (s, fs, t)
  | l + 1, s, fs, t, o =>
    let own : Option (State × List (Nat × Nat) × Nat) :=
      if inExtents shared t then (s.takeFrame 4096).map fun r =>
        (r.2.copyHbm t (r.1 * 4096) 4096, extentsCut fs [(t / 4096, 1)] ++ [(r.1, 1)], r.1 * 4096)
      else some (s, fs, t)
    match own with
    | none => none
    | some (s1, fs1, t1) =>
      let a := t1 + 8 * (o / 2 ^ (12 + 9 * l) % 512)
      let e := memDword s1.hbm a
      if l = 0 ∨ e.getLsbD 59 then some (s1, fs1, t1)
      else match ownTables shared l s1 fs1 (bits e 12 27 * 4096) o with
        | none => none
        | some (s2, fs2, c) => some ({ s2 with hbm := memPutDword s2.hbm a (BitVec.ofNat 64 (2 ^ 63 + c)) }, fs2, t1)

/-- The extents the other versions of a node lie in. -/
def State.othersFrames (s : State) (n id : Nat) : List (Nat × Nat) :=
  match s.node n with
  | some { body := .object _ vs, .. } => (vs.filter fun x => x.id ≠ id).flatMap (·.frames)
  | _ => []

/-- Whether a page copy is already under way. -/
def State.copying (s : State) (n ver page : Nat) : Bool :=
  s.pageCopies.any fun c => decide (c.node = n ∧ c.ver = ver ∧ c.page = page)

/-- Charges a version's page, gives it a frame and tables of its own, and starts the copy (R204, R231); none where the
quota, the function's entitlement or the package's free frames do not suffice. -/
def State.startCopy (s : State) (n : Nat) (v : Version) (page size : Nat) : Option State :=
  if s.copying n v.id page then some s
  else if !s.room v.payer size then none
  else match v.loc, s.takeFrame size with
    | .hbm root levels, some (f, s1) =>
      match ownTables (s.othersFrames n v.id) levels s1 v.frames root page with
      | none => none
      | some (s2, fs, t) =>
        let v' := { v with loc := .hbm t levels, frames := fs ++ [(f, size / 4096)], charged := v.charged + size }
        let s3 := (s2.putVersion n v').onContext v.payer fun x => { x with bytes := x.bytes + size }
        some { s3 with pageCopies := s3.pageCopies ++ [{ node := n, ver := v.id, page := page, size := size, frame := f }] }
    | _, _ => none

/-- Asks for the copy of a page of a version that shares it: the first write through a shadow handle makes the version,
equal to the one bound (R133, R231). -/
def State.askCopy (s : State) (core ctx hi n : Nat) (h : Handle) (v : Version) (page size : Nat) : Option State :=
  if h.fresh then
    let nv : Version := { v with id := s.nextVersion, own := some [], payer := ctx, charged := 0, maker := s.kernelOf core }
    (({ s with nextVersion := s.nextVersion + 1 }.putVersion n nv).onHandle ctx hi
      fun x => { x with shadow := some nv.id }).startCopy n nv page size
  else s.startCopy n v page size

/-- Points the leaf entries of a page's group at a new frame, rights kept (R230). -/
def setGroup (m : Mem) (t idx frame : Nat) : Mem :=
  let g := (pageShape (bits (memDword m (t + 8 * idx)) 60 3)).2.1
  (List.range g).foldl (fun m i =>
    let a := t + 8 * (idx - idx % g + i)
    memPutDword m a (BitVec.ofNat 64 (bits (memDword m a) 43 21 * 2 ^ 43 + frame))) m

/-- The leaf table of a page, and the entry's index. -/
def leafTable (s : State) : Nat → Nat → Nat → Option (Nat × Nat)
  | 0, _, _ => none
  | l + 1, t, o =>
    let idx := o / 2 ^ (12 + 9 * l) % 512
    let e := memDword s.hbm (t + 8 * idx)
    if e.getLsbD 59 then some (t, idx) else leafTable s l (bits e 12 27 * 4096) o

/-- Drops every cached translation of a version. -/
def State.dropCached (s : State) (ver : Nat) : State :=
  { s with
    core := { s.core with tlb := s.core.tlb.filter fun e => e.ver ≠ ver }
    others := s.others.map fun k => (k.1, { k.2 with tlb := k.2.tlb.filter fun e => e.ver ≠ ver })
    sectorTlb := s.sectorTlb.map fun k => (k.1, k.2.filter fun e => e.ver ≠ ver) }

/-- Page copy n finished: the copied page belongs to its version alone (R231). One whose table entry has changed meanwhile
is left, and its write asks again. -/
def State.finishCopy (s : State) (n : Nat) : State :=
  match s.pageCopies[n]? with
  | none => s
  | some c =>
    let s0 := { s with pageCopies := dropAt s.pageCopies n }
    match s0.node c.node with
    | some { body := .object _ vs, .. } => match findVersion vs c.ver with
      | some v => match v.loc with
        | .hbm root levels => match walk s0 levels root c.page, leafTable s0 levels root c.page with
          | .page frame size _ _, some (lt, idx) =>
            if size ≠ c.size then s0
            else
              let s1 := s0.copyHbm frame (c.frame * 4096) size
              let v' := { v with own := some ((v.own.getD []) ++ [c.page]), frames := extentsCut v.frames [(frame / 4096, size / 4096)] }
              (({ s1 with hbm := setGroup s1.hbm lt idx (c.frame * 4096) }).putVersion c.node v').dropCached v.id
          | _, _ => s0
        | _ => s0
      | none => s0
    | _ => s0

/-- SHADOW_PAGE_COPY_COMPLETE (R231). -/
def execShadowPageCopyComplete (n : Nat) (s : State) : Out := .next (s.finishCopy n)

/-! ### Locating -/

/-- Where an access ends: the places of each member, with the caches as the access leaves them, a cause, or a wait with the
state in which it has been asked for. -/
inductive Located where
  | found (s : State) (ps : List Place)
  | fail (c : Cause)
  | wait (s : State)

/-- Asks for a walk: a core has at most 4 misses outstanding and a sector cache 64, and one outstanding already is joined
(R234). -/
def State.askWalk (s : State) (core ctx hi n ver o : Nat) : State :=
  let full := decide ((s.misses.filter fun m => m.cores.contains core).length ≥ 4)
  let is (m : Miss) := decide (m.sector = coreSector core) && m.isFor ctx hi n ver o
  if s.misses.any is then
    if full ∨ s.misses.any fun m => is m && m.cores.contains core then s
    else { s with misses := s.misses.map fun m => if is m then { m with cores := m.cores ++ [core] } else m }
  else if full ∨ (s.misses.filter fun m => m.sector = coreSector core).length ≥ 64 then s
  else { s with misses := s.misses ++ [{ sector := coreSector core, cores := [core], ctx := ctx, handle := hi, node := n, ver := ver,
                                         ofs := o / 4096 * 4096 }] }

/-- Translates one offset of a version and does what it takes: an entry used moves first, a miss is asked for, a shared
page's copy is started; 0x27 where it cannot be (R178, R204, R231, R232). -/
def State.locateOne (s : State) (core ctx hi n : Nat) (h : Handle) (v : Version) (write : Bool) (o : Nat) : Located :=
  match translatePage s core ctx hi n h v write o with
  | .found p hit => .found (match hit with
    | some t => s.touch core t
    | none => s) [p]
  | .fail c => .fail c
  | .miss => .wait (s.askWalk core ctx hi n v.id o)
  | .copy page size => match s.askCopy core ctx hi n h v page size with
    | none => .fail Cause.quota
    | some t => .wait t

/-- Translates the members of an aperture at an offset in member order: each by its bound version. -/
def locateMembers (core ctx hi : Nat) (write : Bool) (o : Nat) : List (NodeRef × Nat) → State → List Place → Located
  | [], s, ps => .found s ps
  | (r, _) :: l, s, ps => match r with
    | .remote dev m => locateMembers core ctx hi write o l s (ps ++ [.peer dev m o])
    | .own m => match s.node m with
      | some { body := .object bound vs, .. } => match findVersion vs (s.boundSeen core m bound) with
        | some v => match s.locateOne core ctx hi m { rootHandle (s.context ctx) with node := .own m } v write o with
          | .found t qs => locateMembers core ctx hi write o l t (ps ++ qs)
          | .fail c => .fail c
          | .wait t => .wait t
        | none => .fail Cause.absent
      | _ => .fail Cause.absent

/-- Translates what an access reached; `write` tells whether it needs W (R227). -/
def State.locate (s : State) (core ctx : Nat) (write : Bool) (ta : Word) : Reach → Located
  | .own o => .found s [.sram core o]
  | .member c o => .found s [.sram c o]
  | .peer dev m o => .found s [.peer dev m o]
  | .aperture _ ms o => locateMembers core ctx (taHandle ta) write o ms s []
  | .object n h v o => s.locateOne core ctx (taHandle ta) n h v write o

/-- The place of one byte or aligned word of a tree address, or why there is none. -/
def State.place (s : State) (core ctx : Nat) (op : AccOp) (align : Bool) (ta : Word) (n : Nat) : Located :=
  match s.reach core ctx op align ta n with
  | .error c => .fail c
  | .ok r => s.locate core ctx (!op.reads) ta r

/-! ### Walkers (R234) -/

/-- Fills the caches with what a walk found: the sector's, those of the cores that wait, and the entry of handle and
descriptor (R232, R234). -/
def State.fill (s : State) (m : Miss) (t : Tlb) : State :=
  let s1 := m.cores.foldl (fun s core => s.onCore core fun c => { c with tlb := cachePut c.tlb t 64 }) s
  { s1 with
    sectorTlb := tabPut s1.sectorTlb m.sector (sectorPut (tabGetD s1.sectorTlb m.sector []) t)
    sectorHandles := tabPut s1.sectorHandles m.sector (cachePut (tabGetD s1.sectorHandles m.sector []) (m.ctx, m.handle, m.ver) 256) }

/-- A walk that found no page: each access that waits for it is judged when it issues. -/
def State.barrenWalk (s : State) (m : Miss) : State := { s with barren := s.barren ++ [m] }

/-- Walks for a miss and fills the caches: the walker reads the handle entry and the descriptor where its sector's cache holds none, and a
table word of each level. One whose handle has gone fills nothing (R234). -/
def State.serveMiss (s : State) (m : Miss) : State :=
  let held := (tabGetD s.sectorHandles m.sector []).contains (m.ctx, m.handle, m.ver)
  let opened := decide (m.handle = 0xFFF0) || match tabGet (s.context m.ctx).handles m.handle with
    | some h => !h.dead
    | none => false
  if !held && !opened then s
  else if !held && s.hbmPoison.contains (descriptorOf m.ver / 64) then s.barrenWalk m
  else
    let r := descriptorRoot s.hbm m.ver
    match walk s r.2 r.1 m.ofs with
    | .page frame size w r =>
      s.fill m { ctx := m.ctx, handle := m.handle, node := m.node, ver := m.ver, page := m.ofs / size * size, size := size,
                 frame := frame, w := w, r := r }
    | _ => s.barrenWalk m

/-- PAGE_WALK: the walk for miss n ends. The 128 walkers of a die serve its misses in arrival order, and the access is judged
again when it issues (R234, R266). -/
def execPageWalk (n : Nat) (s : State) : Out :=
  match s.misses[n]? with
  | none => .next s
  | some m =>
    if ((s.misses.take n).filter fun k => k.sector / 4 = m.sector / 4).length ≥ 128 then .next s
    else .next ({ s with misses := dropAt s.misses n }.serveMiss m)

/-! ### Translation without a cache: engines and the hub (R165, R168, R314) -/

/-- Makes a shared page its version's own at once; none where it cannot be given storage. -/
def State.copyNow (s : State) (core ctx hi n : Nat) (h : Handle) (v : Version) (page size : Nat) : Option State :=
  (s.askCopy core ctx hi n h v page size).map fun s1 =>
    match s1.pageCopies.findIdx? fun c => decide (c.node = n ∧ c.page = page ∧ c.ver = if h.fresh then s.nextVersion else v.id) with
    | some i => s1.finishCopy i
    | none => s1

/-- The place of one offset of a version, walked, and the page to be copied first where there is one (R230, R231). -/
def walkOne (s : State) (h : Handle) (v : Version) (write : Bool) (o : Nat) : PageOut :=
  match v.loc with
  | .fixed base => .found (.hbm (base + o)) none
  | .host port base _ => .found (.host port (base + o)) none
  | .peer dev m => .found (.peer dev m o) none
  | .hbm root levels =>
    if s.hbmPoison.contains (descriptorOf v.id / 64) then .fail Cause.errorConsumed
    else match walk s levels root o with
    | .absent => .fail Cause.absent
    | .poisoned => .fail Cause.errorConsumed
    | .page frame size w r =>
      if (write && !w) || (!write && !r) then .fail Cause.pageRights
      else if write && needsCopy h v (o / size * size) then .copy (o / size * size) size
      else .found (.hbm (frame + o % size)) none

/-- The places of an aperture's members, walked in member order; shared pages are copied at once. -/
def walkMembers (core ctx hi : Nat) (write : Bool) (o : Nat) : List (NodeRef × Nat) → State → List Place → Except Cause (State × List Place)
  | [], s, ps => .ok (s, ps)
  | (r, _) :: l, s, ps => match r with
    | .remote dev m => walkMembers core ctx hi write o l s (ps ++ [.peer dev m o])
    | .own m =>
      let h := { rootHandle (s.context ctx) with node := .own m }
      let found (s : State) : Option Version := match s.node m with
        | some { body := .object bound vs, .. } => findVersion vs bound
        | _ => none
      match found s with
      | none => .error Cause.absent
      | some v => match walkOne s h v write o with
        | .found p _ => walkMembers core ctx hi write o l s (ps ++ [p])
        | .fail c => .error c
        | .miss => .error Cause.absent
        | .copy page size => match s.copyNow core ctx hi m h v page size with
          | none => .error Cause.quota
          | some t => match (found t).map fun v => walkOne t h v write o with
            | some (.found p _) => walkMembers core ctx hi write o l t (ps ++ [p])
            | _ => .error Cause.absent

/-- Translates an access an engine or the hub makes, walking at once and copying a shared page at once; answers the
places and the state after a copy. -/
def State.direct (s : State) (core ctx : Nat) (op : AccOp) (align : Bool) (ta : Word) (n : Nat) : Nat → Except Cause (State × List Place)
  | 0 => .error Cause.absent
  | fuel + 1 => match s.reach core ctx op align ta n with
    | .error c => .error c
    | .ok r => match r with
      | .own o => .ok (s, [.sram core o])
      | .member c o => .ok (s, [.sram c o])
      | .peer dev m o => .ok (s, [.peer dev m o])
      | .aperture _ ms o => walkMembers core ctx (taHandle ta) (!op.reads) o ms s []
      | .object k h v o => match walkOne s h v (!op.reads) o with
        | .found p _ => .ok (s, [p])
        | .fail c => .error c
        | .miss => .error Cause.absent
        | .copy page size => match s.copyNow core ctx (taHandle ta) k h v page size with
          | none => .error Cause.quota
          | some t => t.direct core ctx op align ta n fuel

end Sys2Proof.Machine
end

