-- ==== Sys2Proof/Machine/Release.lean ====
section
/-! DEFINITION. When nodes, versions and frames are given back: what names them, and which accesses are still in flight into
them (R178, R200, R204, R209). -/

namespace Sys2Proof.Machine

/-! ### Accesses in flight -/

/-- Whether a queued matrix or vector instruction has still to touch a place. -/
def EngOp.reaches (o : EngOp) (p : Place → Bool) : Bool := o.places.any fun l => l.any fun x => p x.1

/-- Whether an engine has a read or store in hand at a place. -/
def Engine.reaches (e : Engine) (p : Place → Bool) : Bool :=
  match e.running with
  | some a => match a.plan with
    | some u => (u.reads.any fun x => p x.1) || u.writes.any fun w => w.1.any p
    | none => false
  | none => false

/-- Whether a result is a read not performed at a place. -/
def Source.reaches (x : Source) (p : Place → Bool) : Bool :=
  match x with
  | .load l => l.places.any p
  | _ => false

/-- Whether an access translated to a place of some kind is still in flight (R178, R200). -/
def State.flying (s : State) (p : Place → Bool) : Bool :=
  (s.stores.any fun x => p x.place) || (s.results.any fun r => r.src.reaches p) ||
    (s.allCores.any fun c => ((c.matrix ++ c.vector).any fun o => o.reaches p) || c.copy.reaches p) ||
    (s.saved.any fun c => (c.matrix ++ c.vector).any fun o => o.reaches p) || (s.layouts.any fun e => e.2.reaches p) ||
    (s.allCores.any fun c => (c.task.rows ++ c.act.rows).any fun l => l.any fun q => p q.1) ||
    (s.portWork.any fun x => x.places.any p) || s.hubWork.any fun x => p x.place

/-- Whether a place belongs to a version. -/
def Version.holds (v : Version) (p : Place) : Bool :=
  match v.loc, p with
  | .hbm _ _, .hbm pa => inExtents v.frames pa
  | .fixed base, .hbm pa => decide (base ≤ pa ∧ pa < base + v.length)
  | .host port base _, .host q a => decide (port = q ∧ base ≤ a ∧ a < base + v.length)
  | .peer dev node, .peer d n _ => decide (dev = d ∧ node = n)
  | _, _ => false

/-- Whether an access translated into a version is in flight (R178). -/
def State.versionBusy (s : State) (v : Version) : Bool := s.flying v.holds

/-- Whether an access translated through a node is in flight: one to a member's SRAM from another core or an engine is taken as
one through the window that holds the member (R200; log entry 16). -/
def State.nodeBusy (s : State) (nd : Node) : Bool :=
  match nd.body with
  | .object _ vs => vs.any s.versionBusy
  | .mcast _ ms _ => ms.any fun m => match m.1 with
    | .own n => match s.node n with
      | some { body := .object _ vs, .. } => vs.any s.versionBusy
      | _ => false
    | .remote d n => s.flying fun p => match p with
      | .peer e k _ => decide (d = e ∧ n = k)
      | _ => false
  | .epwin base w h =>
    let inside := fun (p : Place) => match p with
      | .sram c _ => (List.range (w * h)).any fun m => windowMember base w m = c
      | _ => false
    (s.stores.any fun x => decide (taHandle x.ta ≠ 0) && inside x.place) || s.portWork.any fun x => x.places.any inside
  | _ => false

/-! ### What names a node or a version -/

/-- Whether an entry, handle, member or root names an own node. -/
def NodeRef.is (r : NodeRef) (n : Nat) : Bool := decide (r = .own n)

/-- Whether a node's body names another node. -/
def Body.names (b : Body) (n : Nat) : Bool :=
  match b with
  | .dir es => es.any fun e => e.node.is n
  | .mcast _ ms _ => ms.any fun m => m.1.is n
  | _ => false

/-- Whether anything names a node: a binding, a handle, an aperture, a context's root, a publication (R200). -/
def State.named (s : State) (n : Nat) : Bool :=
  (s.nodes.any fun x => x.2.body.names n) ||
    (s.contexts.any fun c => decide (c.2.root = n) || c.2.handles.any fun h => h.2.node.is n) ||
    s.publications.any fun p => decide (p.node = n)

/-- Whether a version of a node is still named: bound, reached by a handle, being published, an old version some core
still sees, or being copied (R178). -/
def State.wanted (s : State) (n bound v : Nat) : Bool :=
  decide (v = bound) ||
    (s.contexts.any fun c => c.2.handles.any fun h =>
      h.2.node.is n && (decide (h.2.pin = some v) || decide (h.2.shadow = some v))) ||
    (s.publications.any fun p => decide (p.node = n ∧ p.version = v)) ||
    (s.shootdowns.any fun d => decide (d.what = .node n v)) ||
    s.pageCopies.any fun c => decide (c.node = n ∧ c.ver = v)

/-! ### Giving back -/

/-- Returns bytes to a context's MAXBYTES. -/
def State.repay (s : State) (ctx n : Nat) : State := s.onContext ctx fun c => { c with bytes := c.bytes - n }

/-- Returns what a directory's entries were charged. -/
def repayEntries (s : State) (es : List Entry) : State :=
  es.foldl (fun s e => s.onContext e.payer fun c => { c with entries := c.entries - 1 }) s

/-- Removes a node with its versions, their frames and everything it was charged (R200, R204). -/
def State.release (s : State) (n : Nat) (nd : Node) : State :=
  let s1 := ({ s with nodes := tabDel s.nodes n }).onContext nd.creator fun c => { c with nodes := c.nodes - 1 }
  match nd.body with
  | .dir es => repayEntries s1 es
  | .object _ vs => vs.foldl (fun s v => (s.repay v.payer v.charged).giveFrames v.frames) s1
  | _ => s1

/-- Releases nodes that nothing names and no access is in flight through, again while there are any; system objects stay. -/
def sweepNodes : Nat → State → State
  | 0, s => s
  | fuel + 1, s =>
    match s.nodes.find? fun x => decide (x.1 ≥ 0x1000) && !s.named x.1 && !s.nodeBusy x.2 with
    | some x => sweepNodes fuel (s.release x.1 x.2)
    | none => s

/-- The frame a version's page lies in. -/
def frameOf (s : State) (v : Version) (page : Nat) : Option Nat :=
  match v.loc with
  | .hbm root levels => match walk s levels root page with
    | .page f _ _ _ => some f
    | _ => none
  | _ => none

/-- The offsets of the pages a version pays for. -/
def Version.paid (v : Version) : List Nat :=
  match v.own with
  | some l => l
  | none => (List.range ((v.length + (pageShape v.page).2.2 - 1) / (pageShape v.page).2.2)).map (· * (pageShape v.page).2.2)

/-- The pages of a released version that another one maps pass to that one, which pays for them from then on (log entry 16). A copy of one
of them that is under way ends: the page is shared no more, so a write goes to it where it lies (R231). -/
def inheritPages (s : State) (v : Version) (n : Nat) (w : Version) (pages : List Nat) : State × List Nat :=
  match w.own with
  | none => (s, pages)
  | some l =>
    let mine := pages.filter fun p => !l.contains p && decide (frameOf s v p = frameOf s w p)
    let moot := fun (c : PageCopy) => decide (c.node = n ∧ c.ver = w.id) && mine.contains c.page
    let frames := (s.pageCopies.filter moot).map fun c => (c.frame, c.size / 4096)
    let back := ((s.pageCopies.filter moot).map (·.size)).foldl (· + ·) 0
    let c := mine.length * (pageShape w.page).2.2
    ((((({ s with pageCopies := s.pageCopies.filter fun c => !moot c }).putVersion n
          { w with own := some (l ++ mine), charged := w.charged + c - back, frames := extentsCut w.frames frames }).onContext w.payer
        fun x => { x with bytes := x.bytes + c }).repay w.payer back).giveFrames frames,
      pages.filter fun p => !mine.contains p)

/-- Drops a version of a node: its charge and the frames no other version lies in are returned, and pages still mapped pass on
(R178, R204). -/
def State.dropVersion (s : State) (n : Nat) (v : Version) : State :=
  match s.node n with
  | some nd => match nd.body with
    | .object bound vs =>
      let rest := vs.filter fun x => x.id ≠ v.id
      let order := rest.filter (fun x => x.id = bound) ++ rest.filter (fun x => x.id ≠ bound)
      let s1 := (({ s with nodes := tabPut s.nodes n { nd with body := .object bound rest } }).repay v.payer v.charged).giveFrames
        (extentsCut v.frames (s.othersFrames n v.id))
      (order.foldl (fun (acc : State × List Nat) w => inheritPages acc.1 v n w acc.2) (s1, v.paid)).1
    | _ => s
  | none => s

/-- The first version of a node that nothing names and no access is in flight into. -/
def State.unwanted (s : State) (n : Nat) : Option Version :=
  match s.node n with
  | some { body := .object bound vs, .. } => vs.find? fun v => !s.wanted n bound v.id && !s.versionBusy v
  | _ => none

/-- Drops the unwanted versions of a node. -/
def sweepVersions : Nat → State → Nat → State
  | 0, s, _ => s
  | fuel + 1, s, n => match s.unwanted n with
    | some v => sweepVersions fuel (s.dropVersion n v) n
    | none => s

/-- Whether a node or version that nothing names is kept by an access in flight. -/
def State.lingers (s : State) : Bool :=
  s.nodes.any fun x => (decide (x.1 ≥ 0x1000) && !s.named x.1) || match x.2.body with
    | .object bound vs => vs.any fun v => !s.wanted x.1 bound v.id
    | _ => false

/-- Releases every version and every node that nothing refers to any more (R178, R200). -/
def State.sweep (s : State) : State :=
  let s1 := s.nodes.foldl (fun t x => match x.2.body with
    | .object _ vs => sweepVersions vs.length t x.1
    | _ => t) s
  let s2 := sweepNodes s1.nodes.length s1
  { s2 with lingering := s2.lingers }

/-- An access has ended: what it alone kept is released (R178, R200). -/
def State.tidy (s : State) : State := if s.lingering then s.sweep else s

end Sys2Proof.Machine
end

