-- ==== Sys2Proof/Machine/Commit.lean ====
section
/-! DEFINITION. What happens at homes: loads are performed, stores commit, settle, are re-sent or refused, marks and
datum move (R140 to R148, R154 to R162, R181 to R187 of spec/09 and spec/11; R326 of spec/22; R351, R353 of spec/24). -/

namespace Sys2Proof.Machine

/-! ### Receive marks (R142) -/

/-- Whether a mark is of a triple at a home. -/
def Mark.isOf (m : Mark) (home src origin : Nat) (st : Stream) : Bool :=
  decide (m.home = home ∧ m.src = src ∧ m.origin = origin ∧ m.stream = st)

/-- The mark a home holds for a triple. -/
def State.markOf (s : State) (home src origin : Nat) (st : Stream) : Option Mark :=
  s.marks.find? fun m => m.isOf home src origin st

/-- Whether a sequence lies at or behind a mark, within a window of 2^23. -/
def atOrBehind (seq mark : BitVec 24) : Bool := decide ((mark - seq).toNat < 2 ^ 23)

/-- Whether a home of this device is a core's pool, a dispatch core's among them, and no slice (R142, R292). -/
def State.homeIsCore (s : State) (home : Nat) : Bool := decide (home < s.endpoint 4096) || isDispatch (home % 8192)

/-- Marks a home of this device can hold: 256 at a core, 8,192 at a slice. -/
def markLimit (s : State) (home : Nat) : Nat := if s.homeIsCore home then 256 else 8192

/-- Whose reserve of marks a source of a function draws on: an enabled function its own, every other source what is left, 32
(R360). -/
def State.markShare (s : State) (vf : Nat) : Nat := if vf ≤ 16 ∧ s.vfField vf 0 1 = 1 then vf else 32

/-- Marks a slice reserves: NSLICE × 32 for an enabled function, and what is left for all other sources together (R360). -/
def State.markReserve (s : State) (share : Nat) : Nat :=
  if share ≤ 16 then s.vfField share 6 2 * 32
  else 8192 - ((List.range 17).map fun f => if s.vfField f 0 1 = 1 then s.vfField f 6 2 * 32 else 0).foldl (· + ·) 0

/-- Whether a source of a function may have a new mark at a home (R142, R360). -/
def State.newMark (s : State) (home vf : Nat) : Bool :=
  let here := s.marks.filter fun m => m.home = home
  decide (here.length < markLimit s home) &&
    (s.homeIsCore home ||
      decide ((here.filter fun m => s.markShare m.vf = s.markShare vf).length < s.markReserve (s.markShare vf)))

/-- Whether a home keeps marks: the cores and home slices of this device. -/
def Place.marked : Place → Bool
  | .sram _ _ => true
  | .hbm _ => true
  | _ => false

/-- Whether a store finds a mark of its triple or room for a new one. -/
def State.markRoom (s : State) (x : Store) : Bool :=
  !x.place.marked || (s.markOf (s.homeOf x.place) (s.endpoint x.src) x.origin x.stream).isSome ||
    s.newMark (s.homeOf x.place) (s.context x.ctx).vf

/-- Moves the mark of a store's triple to its sequence. -/
def State.putMark (s : State) (x : Store) : State :=
  if x.place.marked then
    let home := s.homeOf x.place
    { s with marks := (s.marks.filter fun m => !m.isOf home (s.endpoint x.src) x.origin x.stream) ++
        [{ home := home, src := s.endpoint x.src, origin := x.origin, stream := x.stream, seq := x.seq, vt := s.vt,
           vf := (s.context x.ctx).vf }] }
  else s

/-- RECEIVE_MARK_RELEASE: mark n goes 2^20 cycles after its last commit; message marks are numbered on from the receive marks (R142,
R352). -/
def execReceiveMarkRelease (n : Nat) (s : State) : Out :=
  match s.marks[n]? with
  | none => match s.msgMarks[n - s.marks.length]? with
    | none => .next s
    | some m => if (s.vt - m.vt).toNat ≥ 2 ^ 20 then .next { s with msgMarks := dropAt s.msgMarks (n - s.marks.length) } else .next s
  | some m => if (s.vt - m.vt).toNat ≥ 2 ^ 20 then .next { s with marks := dropAt s.marks n } else .next s

/-! ### What a store does to its word (R154, R158, R160) -/

/-- Bytes a store touches. -/
def StoreOp.length : StoreOp → Nat
  | .bytes d => d.length
  | .atomic _ wide _ _ => if wide then 8 else 4
  | .fadd _ => 4
  | .cadd _ => 8
  | .xadd _ => 64
  | .xclr => 64

/-- Whether a store enables a byte of it: every byte of an atomic (R113). -/
def StoreOp.enables (o : StoreOp) (i : Nat) : Bool :=
  match o with
  | .bytes d => match d[i]? with
    | some (some _) => true
    | _ => false
  | o => decide (i < o.length)

/-- The integer result of an atomic on w-bit words (R154). -/
def atomicInt (w : Nat) (op : UetOp) (old x cmp : BitVec w) : BitVec w :=
  match op with
  | .add => old + x
  | .and => old &&& x
  | .or => old ||| x
  | .xor => old ^^^ x
  | .min => if x.toInt < old.toInt then x else old
  | .max => if old.toInt < x.toInt then x else old
  | .swap => x
  | .cas => if old = cmp then x else old

/-- The new word of an atomic of either size, and of the old one as a number. -/
def atomicNat (op : UetOp) (wide : Bool) (old : Nat) (x cmp : Word) : Nat :=
  if wide then (atomicInt 64 op (BitVec.ofNat 64 old) x cmp).toNat
  else (atomicInt 32 op (BitVec.ofNat 32 old) (x.truncate 32) (cmp.truncate 32)).toNat

/-- Applies a store at a place of this package; answers the old word of an atomic. An XADD carries its value as FP32
bits, which hold every BF16 and FP8 value exactly (R75). -/
def State.applyOp (s : State) (p : Place) (o : StoreOp) : State × Word :=
  match o with
  | .bytes d => (s.putAt p d, 0)
  | .atomic op wide x cmp =>
    let n := if wide then 8 else 4
    (s.putNat p n (atomicNat op wide (s.natAt p n) x cmp), BitVec.ofNat 64 (s.natAt p n))
  | .fadd x =>
    (s.putNat p 4 (fadd (BitVec.ofNat 32 (s.natAt p 4)) x).toNat, BitVec.ofNat 64 (s.natAt p 4))
  | .cadd x => (s.putNat p 8 (min (s.natAt p 8 + x.toNat) (2 ^ 64 - 1)), 0)
  | .xadd x => (s.putNat p 64 ((Cell.of (s.natAt p 64)).add (fp32 x)).bits, 0)
  | .xclr => (s.putNat p 64 0, 0)

/-- Whether an operation moves its line's stamp (R157). -/
def StoreOp.stamps : StoreOp → Bool
  | .cadd _ => true
  | .xadd _ => true
  | .xclr => true
  | _ => false

/-- The line stamp after a commit of a source of the package, a port among them: the later by R147 (R157; log entry 23). -/
def State.stampLine (s : State) (x : Store) : State :=
  match x.place with
  | .hbm pa =>
    if x.op.stamps && (x.covered || decide (0x1124 ≤ x.src)) then
      match tabGet s.stamps (pa / 64) with
      | some (e, t) =>
        if e = s.epoch ∧ !stampAfter x.stamp t then s else { s with stamps := tabPut s.stamps (pa / 64) (s.epoch, x.stamp) }
      | none => { s with stamps := tabPut s.stamps (pa / 64) (s.epoch, x.stamp) }
    else s
  | _ => s

/-! ### What the hub notices of a commit (R304, R307, R315, R335) -/

/-- A byte of a queue's shadow half (R304). -/
def State.shadowByte (s : State) (q i : Nat) : Nat := (s.hubByte (objectBase 4 + 32 * q + i)).toNat

/-- n bytes of a queue's shadow half from one on. -/
def State.shadowNat (s : State) (q i n : Nat) : Nat := leNat (s.hubBytes (objectBase 4 + 32 * q + i) n)

/-- The rank program a queue uses: its version and code; program 0 is fixed (R309, R310). -/
def State.rankProgram (s : State) (q : Nat) : Nat × Option (List Byte) :=
  if s.shadowByte q 0x13 % 64 = 0 then (0, none)
  else match tabGet s.rank (s.shadowByte q 0x13 % 64) with
    | some r => (r.version.toNat, some r.code)
    | none => (0, some [])

/-- Posts an event for a queue; a queue has at most one waiting (R308). -/
def State.postEvent (s : State) (q : Nat) : State :=
  if s.events.any fun e => e.queue = q then s
  else { s with events := s.events ++ [{ queue := q, version := (s.rankProgram q).1, code := (s.rankProgram q).2 }] }

/-- Where a byte of a node's bound version lies, unchecked: for the hub's own use. -/
def State.placeOf (s : State) (n o : Nat) : Option Place :=
  match s.node n with
  | some { body := .object bound vs, .. } => match findVersion vs bound with
    | some v => match v.loc with
      | .fixed base => some (.hbm (base + o))
      | .host port base _ => some (.host port (base + o))
      | .peer _ _ => none
      | .hbm root levels => match walk s levels root o with
        | .page frame size _ _ => some (.hbm (frame + o % size))
        | _ => none
    | none => none
  | _ => none

/-- Whether a store at a place enables a byte of another range. -/
def hits (p : Place) (o : StoreOp) (q : Place) (n : Nat) : Bool :=
  (List.range o.length).any fun i => o.enables i && (List.range n).any fun j => p.add i == q.add j

/-- Doorbell events: each commit to the DOORBELL bytes of a queue's object (R304), and wake events: each commit to a
watched counter line (R315). -/
def State.ring (s : State) (x : Store) : State :=
  s.queues.foldl (fun s (q, k) =>
    let bell := match s.placeOf (s.shadowNat q 0 4) 8 with
      | some p => hits x.place x.op p 8
      | none => false
    let wake := match k.watch with
      | some w => decide (x.place.line = w.line)
      | none => false
    if bell || wake then s.postEvent q else s) s

/-- A commit to `/hv/queues`: the hub notes the update (R307); it fetches with what stands there at the fetch. -/
def State.noteShadow (s : State) (x : Store) (pa : Nat) : State :=
  (List.range 3).foldl (fun s i =>
    let q := (pa - objectBase 4) / 32 + i
    if hits x.place x.op (.hbm (objectBase 4 + 32 * q)) 32 then
      { s with
        updates := s.updates ++ [(q, hits x.place x.op (.hbm (objectBase 4 + 32 * q + 7)) 1 && decide (s.shadowByte q 7 = 1))] }
    else s) s

/-- A ring that has just been given to an attachment counts its records from 0 (R336, R339; log entry 88). -/
def State.freshRing (s : State) (x : Store) (pa : Nat) : State :=
  if hits x.place x.op (.hbm pa) 8 then { s with ringCounts := tabDel s.ringCounts (s.hubDword pa).toNat } else s

/-- A commit to REQ of an attachment is one request (R335); one to TRACE lets a stopped trace go on (R339). -/
def State.noteRequest (s : State) (x : Store) (pa : Nat) : State :=
  let a := (pa - objectBase 6) / 1024
  let s := (s.freshRing x (objectBase 6 + 1024 * a + 8)).freshRing x (objectBase 6 + 1024 * a + 0x18)
  let s := if hits x.place x.op (.hbm (objectBase 6 + 1024 * a + 0x18)) 8 then { s with muted := s.muted.filter (· ≠ a) } else s
  if a ≠ 0 ∧ hits x.place x.op (.hbm (objectBase 6 + 1024 * a + 0x38)) 8 then
    { s with requests := s.requests ++ [(a, s.hubDword (objectBase 6 + 1024 * a + 0x38))] }
  else s

/-- Wakes WFE on a core whose SRAM another source has written (R275). -/
def State.wakeCore (s : State) (x : Store) : State :=
  match x.place with
  | .sram c _ => s.onCore c fun k =>
    { k with task := { k.task with latch := k.task.latch || !(decide (x.src = c ∧ x.origin = 0)) }
             act := { k.act with latch := k.act.latch || !(decide (x.src = c ∧ x.origin = 1)) } }
  | _ => s

/-- Whether a write of a core map entry is the judgement of a good pass: LASTPASS moves, and neither the matrix engine is taken
from FEAT (a demotion) nor the core quarantined (R300; log entry 70). -/
def goodPass (was now : Word) : Bool :=
  decide (bits was 16 48 ≠ bits now 16 48) && !(was.getLsbD 5 && !now.getLsbD 5) && decide (bits now 0 2 ≠ 2)

/-- A service log as its core's map entry changes: a judged good pass removes the entries released before it, and entries still open
take the VT at which ALLOC is cleared as their release (R300, R320). -/
def logAfter (was now : Word) (vt : BitVec 48) (l : List LogEntry) : List LogEntry :=
  let kept := if goodPass was now then l.filter fun e => match e.release with
    | some r => !stampAfter (BitVec.ofNat 48 (bits now 16 48)) r
    | none => true else l
  if was.getLsbD 4 ∧ !now.getLsbD 4 then kept.map fun e => { e with release := some (e.release.getD vt) } else kept

/-- A commit to core map entries: the logs of the cores follow (R294, R320). -/
def State.noteMap (s old : State) (x : Store) (pa : Nat) : State :=
  (List.range (x.op.length / 8 + 1)).foldl (fun s i =>
    let core := (pa - objectBase 0) / 8 + i
    let was := memDword old.hbm (objectBase 0 + 8 * core)
    let now := memDword s.hbm (objectBase 0 + 8 * core)
    if core < Config.cores ∧ was ≠ now ∧ (s.coreOf core).log ≠ [] then
      s.onCore core fun c => { c with log := logAfter was now s.vt c.log }
    else s) s

/-- A commit to the fault ring: which dwords of its records have been stored (R301). -/
def State.noteFaults (s : State) (x : Store) (pa : Nat) : State :=
  (List.range (x.op.length / 16 + 2)).foldl (fun s i =>
    let n := (pa - (objectBase 3 + 64)) / 16 + i
    let a := objectBase 3 + 64 + 16 * n
    let m := (if hits x.place x.op (.hbm a) 8 then 1 else 0) ||| (if hits x.place x.op (.hbm (a + 8)) 8 then 2 else 0)
    if m = 0 ∨ n ≥ 128 then s else { s with faultsStored := tabPut s.faultsStored n (tabGetD s.faultsStored n 0 ||| m) }) s

/-- Where the POINTS of an attachment stand, and how many bytes (R332, R333). -/
def pointsAt (a : Nat) : Nat := objectBase 6 + 1024 * a + 0x40
/-- 24 entries of 32 bytes. -/
def pointsBytes : Nat := 768

/-- A commit to the POINTS of an attachment (R334). -/
def State.notePoints (s : State) (x : Store) (pa : Nat) : State :=
  (List.range (x.op.length / 1024 + 2)).foldl (fun s i =>
    let a := (pa - objectBase 6) / 1024 + i
    if hits x.place x.op (.hbm (pointsAt a)) pointsBytes then
      { s with pointCommits := s.pointCommits ++ [{ attachment := a, vt := s.vt, table := memBytes s.hbm (pointsAt a) pointsBytes }] }
    else s) s

/-- Keeps read-only bits of a dword a commit has reached: those of `mask` stay as they were (R6). -/
def State.keepBits (s old : State) (a : Nat) (mask : Word) : State :=
  let was := memDword old.hbm a
  let now := memDword s.hbm a
  if now &&& mask = was &&& mask then s else { s with hbm := memPutDword s.hbm a ((now &&& ~~~mask) ||| (was &&& mask)) }

/-- VERSION and ERR of the control dwords of `/hv/rank` are read-only (R6, R310). -/
def State.guardRank (s old : State) (x : Store) (pa : Nat) : State :=
  (List.range (x.op.length / 512 + 2)).foldl (fun s i =>
    s.keepBits old (objectBase 5 + 512 * ((pa - objectBase 5) / 512 + i)) 0x2FFFFFFFF) s

/-- Bytes 0x20 to 0x3F of a queue object read zero: what a commit puts there is not kept (R304). -/
def State.guardQueues (s : State) (x : Store) : State :=
  s.nodes.foldl (fun s (n, nd) =>
    if nd.kind = .queue then
      match s.placeOf n 0x20 with
      | some p => if x.place.line = p.line ∧ hits x.place x.op p 32 then s.putAt p (List.replicate 32 (some 0)) else s
      | none => s
    else s) s

/-- The queues of record f stop: their shadow halves' STATE is 0 (R304, R362). -/
def State.stopQueues (s : State) (f : Nat) : State :=
  let a := objectBase 9 + 128 * f
  (List.range (leNat (memBytes s.hbm (a + 0xA) 2))).foldl (fun s i =>
    { s with hbm := memWrite s.hbm (objectBase 4 + 32 * (leNat (memBytes s.hbm (a + 8) 2) + i) + 7) 0 }) s

/-- What becomes of record f of `/hv/vf` when a commit reaches it, with its bytes as they were and whether the commit has a byte for STATE:
setting STATE from 0 to 1 waits for the hub's check, and from then on every other field stands; from 1 to 0 disables; ERR is read-only
(R359, R361, R362). A STATE that is neither 0 nor 1 enables nothing. -/
def State.guardRecord (s : State) (was : List Byte) (f : Nat) (state : Bool) : State :=
  let a := objectBase 9 + 128 * f
  let kept := memWrite s.hbm (a + 0xD) (was.getD 0xD 0)
  let now := memBytes kept a 128
  let s := { s with hbm := kept }
  if was.headD 0 = 1 ∨ s.vfRequests.contains (f, true) then
    if state ∧ now.headD 0 = 0 ∧ now.drop 1 = was.drop 1 then
      { (if was.headD 0 = 1 then s.stopQueues f else s) with vfRequests := s.vfRequests ++ [(f, false)] }
    else { s with hbm := memPut s.hbm a was }
  else if now.headD 0 = 1 then
    if was.headD 0 = 0 then { s with hbm := memWrite s.hbm a 0, vfRequests := s.vfRequests ++ [(f, true)] }
    else { s with hbm := memWrite s.hbm a (was.headD 0) }
  else s

/-- A commit to `/hv/vf`, with the state before it. -/
def State.noteVf (s old : State) (x : Store) (pa : Nat) : State :=
  (List.range (x.op.length / 128 + 2)).foldl (fun s i =>
    let f := (pa - objectBase 9) / 128 + i
    let a := objectBase 9 + 128 * f
    if f < 17 ∧ hits x.place x.op (.hbm a) 128 then s.guardRecord (memBytes old.hbm a 128) f (hits x.place x.op (.hbm a) 1) else s) s

/-- A commit to the control word of the link counters: ERR is read-only, and SKIPPED counts from ENABLE on (R6, R341, R342). -/
def State.noteEnable (s old : State) : State :=
  let t := s.keepBits old (objectBase 6) 0x4000000000000000
  if (memDword t.hbm (objectBase 6)).getLsbD 63 ∧ !(memDword old.hbm (objectBase 6)).getLsbD 63 then { t with skipped := 0 } else t

/-- A commit to the request dword of `/hv/attest`, with the state before it: a request takes the nonce as it stands, and one written before
the dword has cleared is ignored (R365). -/
def State.noteAttest (s old : State) (x : Store) : State :=
  let a := objectBase 10 + 32
  if !hits x.place x.op (.hbm a) 8 then s
  else if memDword old.hbm a = 1 then { s with hbm := memPutDword s.hbm a 1 }
  else if memDword s.hbm a = 1 then { s with nonce := some (memBytes s.hbm (objectBase 10) 32) }
  else s

/-- Everything a commit sets in motion. -/
def State.afterCommit (s old : State) (x : Store) : State :=
  let s := ((s.wakeCore x).ring x).guardQueues x
  match x.place with
  | .hbm pa =>
    let s := if objectBase 0 ≤ pa ∧ pa < objectBase 0 + 32768 then s.noteMap old x pa else s
    let s := if objectBase 9 ≤ pa ∧ pa < objectBase 9 + 2176 then s.noteVf old x pa else s
    let s := if objectBase 4 ≤ pa ∧ pa < objectBase 4 + 131072 then s.noteShadow x pa else s
    let s := if objectBase 5 ≤ pa ∧ pa < objectBase 5 + 32768 then s.guardRank old x pa else s
    let s := if objectBase 6 ≤ pa ∧ pa < objectBase 6 + 8 then s.noteEnable old else s
    let s := if objectBase 10 ≤ pa ∧ pa < objectBase 10 + 40 then s.noteAttest old x else s
    let s := if objectBase 3 + 64 ≤ pa ∧ pa < objectBase 3 + 2112 then s.noteFaults x pa else s
    if objectBase 6 ≤ pa ∧ pa < objectBase 6 + 65536 then (s.noteRequest x pa).notePoints x pa else s
  | _ => s

/-! ### Commit (R140 to R142, R220, R326) -/

/-- Whether a store is the reply to an Ewetal record whose sender has not acknowledged every data write before it (R216). -/
def State.replyHeld (s : State) (x : Store) : Bool :=
  decide (x.hub = some .reply) && s.stores.any fun y =>
    decide (y.hub = some .read ∧ y.src = x.src ∧ y.stream = x.stream ∧ (x.seq - y.seq).toNat < 2 ^ 23)

/-- Whether a store's predecessor has committed at its home, or been refused there; behind a lost one no store commits
(R141, R143). -/
def State.predDone (s : State) (x : Store) : Bool :=
  !s.replyHeld x && match x.pred with
  | none => true
  | some p => !s.stores.any fun y => decide (y.src = x.src ∧ y.origin = x.origin ∧ y.stream = x.stream ∧ y.seq = p
      ∧ (y.phase = .issued ∨ y.phase = .lost)) && s.homeOf y.place == s.homeOf x.place

/-- Whether a store is a plain store that enables a whole line (R326). -/
def Store.fullLine (x : Store) : Bool :=
  match x.op with
  | .bytes d => decide (d.length = 64) && d.all (·.isSome) && x.place.line == x.place
  | _ => false

/-- Why a home refuses a store: beyond the scratchpad or below EXB of a core when it comes from another core, an engine, or the
core's own task through a window (R220, R223), or part of a poisoned line (R326). -/
def State.refusal (s : State) (x : Store) : Option Cause :=
  let away : Option Cause := match x.place with
    | .sram c o =>
      if x.src = c ∧ x.origin ≠ 2 ∧ taHandle x.ta = 0 then none
      else if o + x.op.length > (s.coreOf c).scratch then some Cause.beyondObject
      else if o < (s.coreOf c).exb.toNat then some Cause.codeWrite
      else none
    | _ => none
  match away with
  | some c => some c
  | none => if s.poisonedAt x.place && !x.fullLine then some Cause.errorConsumed else none

/-- Replaces store n. -/
def State.setStore (s : State) (n : Nat) (x : Store) : State := { s with stores := s.stores.set n x }

/-- Gives a returning atomic's register its result (R154). -/
def State.answer (s : State) (x : Store) (v : Source) : State :=
  match x.reply with
  | none => s
  | some (c, sel, r) =>
    { s with results := s.results.map fun q =>
        if q.core = c ∧ q.sel = sel ∧ q.reg = r ∧ q.src = .reply then { q with src := v } else q }

/-- A port answers a host's packet once every store it carries has committed: with the old value where it fetches, and as
refused as soon as a home has refused one, whatever becomes of the others (R357). -/
def State.answerPacket (s : State) (x : Store) (old : Option Word) (done : Bool) : State :=
  match x.packet with
  | none => s
  | some p =>
    let more := s.portWork.any (fun y => decide (y.packet = p)) ||
      s.stores.any fun y => decide (y.packet = some p ∧ (y.phase = .issued ∨ y.phase = .lost))
    let others := s.brokenPackets.filter (· ≠ p)
    if !done then
      { s with answers := tabPut s.answers p.port { flow := some p.flow, reply := .refused, old := none }
               brokenPackets := if more then others ++ [p] else others }
    else if more then s
    else if s.brokenPackets.contains p then { s with brokenPackets := others }
    else { s with answers := tabPut s.answers p.port { flow := some p.flow, reply := .done, old := if p.fetch then old else none } }

/-- The old word a returning form gets, zero-extended from its size (R154). -/
def StoreOp.oldWord (o : StoreOp) (x : Word) : Word := if o.length = 4 then (x.truncate 32).zeroExtend 64 else x

/-- The old value a fetching atomic's response carries (R357). -/
def StoreOp.fetched (o : StoreOp) (x : Word) : Option Word :=
  match o with
  | .atomic _ _ _ _ => some x
  | _ => none

/-- A store of a whole line clears its poison mark (R326). -/
def State.clearPoisonIf (s : State) (x : Store) : State := if x.fullLine then s.clearPoison x.place else s

/-- A store commits at its home or is refused there. -/
def State.commit (s : State) (n : Nat) (x : Store) : State :=
  match x.place with
  | .peer _ _ _ =>
    match Config.peerAnswer s.tick with
    | none => (s.setStore n { x with phase := .refused Cause.peerRefused }).answerPacket x none false
    | some _ =>
      let old := x.op.oldWord (Config.peerWord s.tick)
      ((s.setStore n { x with phase := .committed }).answer x (.ready old)).answerPacket x (x.op.fetched old) true
  | _ =>
    match s.refusal x with
    | some c =>
      let s := ((s.putMark x).setStore n { x with phase := .refused c }).answerPacket x none false
      if c = Cause.errorConsumed then s.answer x (.poison x.ta) else s
    | none =>
      let r := (s.clearPoisonIf x).applyOp x.place x.op
      let old := x.op.fetched r.2
      ((((r.1.stampLine x).putMark x).setStore n { x with phase := .committed }).answer x (.ready r.2) |>.afterCommit s x).answerPacket
        x old true

/-- The die whose route entries a source endpoint uses; none for the hub die, which uses any (R343, R344). -/
def dieOf (src : Nat) : Option Nat :=
  if src < 4096 then some (coreDie src) else if src < 0x1100 then some ((src - 0x1000) / 64) else none

/-- A span link. -/
def State.link (s : State) (l : Nat) : Link := tabGetD s.links l .reset

/-- Whether flits pass over a link (R346). -/
def LinkState.carries : LinkState → Bool
  | .full => true
  | .erasure => true
  | .narrow => true
  | _ => false

/-- The route entry a source uses for a device: that of its die; from the hub die the first valid one (R344; log entry 70). -/
def State.routeEntry (s : State) (src dev : Nat) : Word :=
  match dieOf src with
  | some d => tabGetD s.routes (256 * d + dev) 0
  | none => (([0, 1, 2, 3].map fun d => tabGetD s.routes (256 * d + dev) 0).find? fun e => e.getLsbD 63).getD 0

/-- The span link a packet from one local endpoint to another of a device leaves by: LINKk with k = (s xor t) mod (N + 1); none
where the entry is not valid or the link's gateway refuses packets (R344, R347). -/
def State.route (s : State) (src dev dst : Nat) : Option Nat :=
  let e := s.routeEntry src dev
  let l := bits e (5 * ((src % 8192 ^^^ dst % 8192) % (bits e 20 2 + 1))) 5
  if e.getLsbD 63 ∧ l < Config.links ∧ (s.link l).state ≠ .removed then some l else none

/-- The endpoint of the gateway of a span link, on die floor(l / 6) (R343). -/
def gatewayEndpoint (l : Nat) : Nat := 0x1100 + l

/-- The link a store's copy leaves by, and whether it leaves at all: one without a route is kept at its source (R344). -/
def State.leave (s : State) (src : Nat) : Place → Option Nat × Bool
  | .peer dev _ _ => (s.route src dev 0x1FFF, (s.route src dev 0x1FFF).isSome)
  | _ => (none, true)

/-- Whether what has left by a link arrives: not while the link trains (R346). -/
def State.arrives (s : State) : Option Nat → Bool
  | some l => (s.link l).state.carries
  | none => true

/-- The router of an edge gateway, on its die's outer row or column (R369). -/
def gatewayRouter (l : Nat) : Nat × Nat :=
  let d := l / 6
  let i := l % 6
  if i < 3 then (d % 2 * 32 + (5 + 11 * i), d / 2 * 63) else (d % 2 * 63, d / 2 * 32 + (5 + 11 * (i - 3)))

/-- Package column and row of the router of an endpoint; none for a hub endpoint, which joins at any of the hub's four (R369). -/
def routerOf (e : Nat) : Option (Nat × Nat) :=
  let at' := fun (die x y : Nat) => (die % 2 * 32 + x, die / 2 * 32 + y)
  if e < 4096 then some (at' (coreDie e) (coreX e) (coreY e))
  else if e < 0x1100 then some (at' ((e - 0x1000) / 64) (4 * ((e - 0x1000) % 64 % 8) + 1) (4 * ((e - 0x1000) % 64 / 8) + 1))
  else if e < 0x1118 then some (gatewayRouter (e - 0x1100))
  else none

/-- The hub's router nearest to another router (R369). -/
def hubRouter (r : Nat × Nat) : Nat × Nat := (if r.1 ≤ 31 then 31 else 32, if r.2 ≤ 31 then 31 else 32)

/-- Where a packet's way through the grid starts and ends; none within the hub or within one core or slice (R369). -/
def wayOf (s d : Nat) : Option ((Nat × Nat) × (Nat × Nat)) :=
  if s = d then none
  else match routerOf s, routerOf d with
    | some a, some b => some (a, b)
    | some a, none => some (a, hubRouter a)
    | none, some b => some (hubRouter b, b)
    | none, none => none

/-- Whether two runs of links in one row or column overlap in one direction. -/
def runsMeet (a b c d : Nat) : Bool :=
  (decide (a < b ∧ c < d) && decide (max a c < min b d)) || (decide (b < a ∧ d < c) && decide (max b d < min a c))

/-- Whether two packets' paths share a mesh link, or the last one into an endpoint: along the row first, then along the column. A packet
that stays in its endpoint uses no link (R369). -/
def pathsMeet (s1 d1 s2 d2 : Nat) : Bool :=
  match wayOf s1 d1, wayOf s2 d2 with
  | some (a, b), some (c, d) =>
    decide (d1 = d2) || (decide (a.2 = c.2) && runsMeet a.1 b.1 c.1 d.1) || (decide (b.1 = d.1) && runsMeet a.2 b.2 c.2 d.2)
  | _, _ => false

/-- Where a store's way through the package ends: its home, or the gateway its copy leaves by (R343). -/
def State.storeEnd (s : State) (x : Store) : Nat :=
  match x.via with
  | some l => gatewayEndpoint l
  | none => s.homeOf x.place % 8192

/-- Where a message's way through the package starts: its sender's core, or the gateway it came by (R343). -/
def Msg.enters (m : Msg) : Nat :=
  match m.origin with
  | some o => gatewayEndpoint o.link
  | none => m.src

/-- Whether a store waits in the network behind a request message that waits for ring space: both on VC 3, over a shared link, the
message there first (R252). -/
def State.vcHeld (s : State) (x : Store) : Bool :=
  decide (x.stream.val % 4 = 3) && s.msgs.any fun m =>
    m.waiting && !m.reply && decide (m.dst < 4096 ∧ (x.stamp - m.since).toNat < 2 ^ 47) &&
      pathsMeet m.enters m.dst x.src (s.storeEnd x)

/-- Whether a place can be reached at all: host memory behind a port that stays down cannot (R366). -/
def State.placeUp (s : State) : Place → Bool
  | .host port _ => !s.portDown port
  | _ => true

/-- STORE_COMMIT: store n arrives; in order behind its predecessor (R141), with a mark (R142). A store that has
committed already is a duplicate: discarded and acknowledged again. -/
def execStoreCommit (n : Nat) (s : State) : Out :=
  match s.stores[n]? with
  | none => .next s
  | some x =>
    if x.phase = .issued ∧ x.out ∧ s.predDone x ∧ s.markRoom x ∧ s.arrives x.via ∧ s.placeUp x.place ∧ !s.vcHeld x then .next (s.commit n x) else .next s

/-! ### Settling, timing out -/

/-- Names a kernel to be killed with a cause (R103, R143). -/
def State.mustKill (s : State) (k : Nat) (c : Cause) : State :=
  { s with kills := s.kills ++ [{ kernel := k, cause := c, core := 0 }] }

/-- An engine. -/
def State.engine (s : State) : EngineRef → Engine
  | .copy c => (s.coreOf c).copy
  | .layout n => tabGetD s.layouts n .reset

/-- Replaces an engine. -/
def State.setEngine (s : State) (r : EngineRef) (e : Engine) : State :=
  match r with
  | .copy c => s.onCore c fun k => { k with copy := e }
  | .layout n => { s with layouts := tabPut s.layouts n e }

/-- An engine as a store of its command `number` settles at a VT (R166). -/
def Engine.settled (e : Engine) (number : BitVec 32) (vt : BitVec 48) : Engine :=
  let mark (a : Active) : Active := if a.number = number then { a with last := some vt } else a
  { e with running := e.running.map mark, settling := e.settling.map mark }

/-- Store n has settled: it is forgotten, its command notes the VT, and what it alone kept is released (R140, R166, R178). -/
def State.settled (s : State) (n : Nat) (x : Store) : State :=
  let s1 := { s with stores := dropAt s.stores n }
  (match x.unit with
    | some (r, number, _) => s1.setEngine r ((s1.engine r).settled number s.vt)
    | none => s1).tidy

/-- The hub learns that a write of its own has been refused or lost: a completion record faults its queue (R318), the packet whose data they
were fails (R314), a dump or a link snapshot stops there (R338, R341), and an attachment's tracing stops (R339). -/
def State.hubFails (s : State) (x : Store) (c : Cause) : State :=
  let stopped : State := { s with hubWork := s.hubWork.filter fun y => some y.w.what ≠ x.hub }
  match x.hub with
  | some (.record q) => { s with hbm := memPut s.hbm (objectBase 4 + 32 * q + 7) [2] }
  | some .data => { s with refusals := s.refusals ++ [(x.src, x.stream, x.seq, c)] }
  | some (.dump id header) => { stopped with dumpFaults := s.dumpFaults ++ [(id, header, taOfs x.ta, c)] }
  | some .snapshot => { stopped with snap := s.snap.map fun k => { k with failed := true } }
  | some (.trace a) => { stopped with muted := if s.muted.contains a then s.muted else s.muted ++ [a] }
  | _ => s

/-- What a refusal means to the source (R103, R220, R314): a task's kernel is killed, a firmware task's on a dispatch core too (R292), unless
a returning atomic has been answered with poison (R327); a dispatch core fails its step. -/
def State.refusedAt (s : State) (x : Store) (c : Cause) : State :=
  if x.hub.isSome then s.hubFails x c
  else if isDispatch x.src ∧ x.kernel = 0 then { s with refusals := s.refusals ++ [(x.src, x.stream, x.seq, c)] }
  else if x.src < 4096 ∨ isDispatch x.src then
    if x.reply.isSome ∧ c = Cause.errorConsumed then s else s.mustKill x.kernel c
  else s

/-- The acknowledgement of store n reaches its source (R140, R153). Stores to host memory settle by their packet's acknowledgement, and a
refused store of an engine by its refusal's return. -/
def State.settleStep (s : State) (n : Nat) : State :=
  match s.stores[n]? with
  | none => s
  | some x =>
    match x.place, x.phase with
    | .host _ _, _ => s
    | _, .committed => s.settled n x
    | _, .refused c => if x.unit.isSome then s else (s.settled n x).refusedAt x c
    | _, _ => s

/-- The acknowledgement of the RMA Write that carries store n settles it (R153, R358). -/
def State.hostStep (s : State) (n : Nat) : State :=
  match s.stores[n]? with
  | none => s
  | some x => match x.place, x.phase with
    | .host _ _, .committed => s.settled n x
    | _, _ => s

/-- Whether a store that has not committed waits for this one at their home (R141). -/
def State.waitedFor (s : State) (x : Store) : Bool :=
  s.stores.any fun y => decide (y.src = x.src ∧ y.origin = x.origin ∧ y.stream = x.stream ∧ y.pred = some x.seq ∧ y.phase = .issued) &&
    s.homeOf y.place == s.homeOf x.place

/-- The lost stores of a kernel that has ended leave the datum; each is forgotten once no store waits behind it, so that none commits
without its predecessor (R141, R143). -/
def State.forgetLost (s : State) (k : Nat) : State :=
  { s with stores := (s.stores.filter fun x => !decide (x.kernel = k ∧ x.phase = .lost) || s.waitedFor x).map fun x =>
      if x.kernel = k ∧ x.phase = .lost then { x with covered := false } else x }

/-- A store at its retry limit is lost, and the kernel of its task is killed with 0x36; the store keeps its stamp in the
datum (R143, R292, R330), for good where it belongs to no kernel (log entry 87). -/
def State.lose (s : State) (n : Nat) (x : Store) : State :=
  let s := s.setStore n { x with phase := .lost }
  if x.hub.isSome then s.hubFails x Cause.streamLost
  else if x.kernel = 0 then
    if isDispatch x.src then { s with refusals := s.refusals ++ [(x.src, x.stream, x.seq, Cause.streamLost)] } else s
  else if (s.kernelRec x.kernel).state = .running then s.mustKill x.kernel Cause.streamLost
  else s.forgetLost x.kernel

/-- Re-sends store n over the route of the moment, or loses it after 24 re-sends (R351, R358). -/
def State.resend (s : State) (n : Nat) (x : Store) : State :=
  let r := s.leave x.src x.place
  if x.sends ≥ 24 then s.lose n x else s.setStore n { x with sends := x.sends + 1, sent := s.vt, out := r.2, via := r.1 }

/-- STREAM_TIMEOUT: store n has waited 32,768 cycles since it was last sent (R143, R351). -/
def execStreamTimeout (n : Nat) (s : State) : Out :=
  match s.stores[n]? with
  | none => .next s
  | some x => match x.place with
    | .host _ _ => .next s
    | _ =>
      if x.phase ≠ .lost ∧ (s.vt - x.sent).toNat ≥ Config.streamTimeout then .next (s.resend n x) else .next s

/-- UET_RETRANSMIT: the packet of store n to host memory is sent again, or given up after 24 times (R358). -/
def execUetRetransmit (n : Nat) (s : State) : Out :=
  match s.stores[n]? with
  | none => .next s
  | some x => match x.place with
    | .host _ _ => if x.phase ≠ .lost then .next (s.resend n x) else .next s
    | _ => .next s

/-! ### The datum (R148, R187, R353) -/

/-- The regions a scope has; core scope is sampled by its own core every cycle. -/
def regions (sc : Scope) : Nat :=
  match sc with
  | .clu => 256
  | .sec => 16
  | .die => 4
  | .pkg => 1
  | _ => 0

/-- Cycles between samples of a scope's datum (R148). -/
def sampleInterval (sc : Scope) : Nat :=
  match sc with
  | .clu => 16
  | .sec => 64
  | .die => 256
  | _ => 1024

/-- DATUM_SAMPLE: a sample of a region's datum is taken, at a VT that is a multiple of its interval (R148, R187). -/
def execDatumSample (scope : Scope) (region : Nat) (s : State) : Out :=
  if region ≥ regions scope then .fault .noSuchAgent
  else if s.vt.toNat % sampleInterval scope ≠ 0 then .next s
  else .next { s with samples := s.samples ++ [{ scope := scope, region := region, value := s.sample scope region }] }

/-- DATUM_PUBLISH: sample n reaches every core of its region; a published datum never moves backwards (R148, R187). -/
def execDatumPublish (n : Nat) (s : State) : Out :=
  match s.samples[n]? with
  | none => .next s
  | some x =>
    let key := x.scope.code * 4096 + x.region
    let s := { s with samples := dropAt s.samples n }
    match tabGet s.published key with
    | some d => if stampAfter x.value d then .next { s with published := tabPut s.published key x.value } else .next s
    | none => .next { s with published := tabPut s.published key x.value }

/-- DATUM_BEACON: the hub sends its epoch, its VT and its package datum (R353). -/
def execDatumBeacon (s : State) : Out :=
  .next { s with beaconOut := some { epoch := s.epoch, vt := s.vt, datum := tabGetD s.published (4 * 4096) 0 } }

/-- BEACON_RECEIVE: the entry is replaced when empty, by a later beacon of its epoch, or by one an epoch ahead (R353). -/
def execBeaconReceive (dev : BitVec 8) (epoch : BitVec 6) (vt datum : BitVec 48) (s : State) : Out :=
  let b : Beacon := { epoch := epoch, vt := vt, datum := datum }
  match tabGet s.beacons dev.toNat with
  | none => .next { s with beacons := tabPut s.beacons dev.toNat b }
  | some o =>
    if (epoch = o.epoch ∧ stampAfter vt o.vt) ∨ epoch = o.epoch + 1 then
      .next { s with beacons := tabPut s.beacons dev.toNat b }
    else .next s

/-! ### Loads (R151, R159, R161, R162, R182) -/

/-- The lines a load touches. -/
def Load.lines (l : Load) : List Place := l.places.flatMap fun p => p.lines l.bytes

/-- Whether two lists of lines meet. -/
def meet (a b : List Place) : Bool := a.any fun p => b.contains p

/-- Whether an earlier load of the same slot on one of its lines waits (R182). -/
def earlierLoad (rs : List Result) (r : Result) (l : Load) : Bool :=
  rs.any fun q => q.isOf r.core r.sel && (match q.src with
    | .load k => meet k.lines l.lines
    | _ => false)

/-- Whether the witness of a witnessed load lets it read (R151): by the home's mark for a store of that home, else by the
datum. -/
def State.witnessLets (s : State) (core : Nat) (l : Load) (p : Place) : Bool :=
  match l.wit with
  | none => true
  | some w =>
    if s.triviallySatisfied w then true
    else match (if witKind w = 1 ∧ wbits w 3 21 = s.homeOf p then
        s.markOf (s.homeOf p) (witSource w) (wbits w 1 2) ⟨wbits w 48 3 % 8, Nat.mod_lt _ (by decide)⟩ else none) with
      | some m => atOrBehind (BitVec.ofNat 24 (wbits w 24 24)) m.seq
      | none => s.satisfied w l.scope core

/-- Bytes a load reads of each member. -/
def Load.reads (l : Load) : Nat :=
  match l.kind with
  | .xrd => 64
  | _ => l.bytes

/-- The combination an aperture load returns (R162). -/
def combine (op n : Nat) (xs : List Nat) : Nat :=
  match xs with
  | [] => 0
  | x :: l =>
    let sg := fun (y : Nat) => (BitVec.ofNat (8 * n) y).toInt
    match op with
    | 0 => l.foldl (fun a b => if sg b < sg a then b else a) x
    | 1 => l.foldl (fun a b => if sg a < sg b then b else a) x
    | _ => l.foldl (fun a b => (a + b) % 2 ^ (8 * n)) x

/-- The value of a load whose members have all been read. -/
def Load.value (l : Load) (xs : List Nat) : Word :=
  match l.kind with
  | .xrd => match xs with
    | [] => 0
    | x :: r => ((r.foldl (fun c y => c.merge (Cell.of y)) (Cell.of x)).read).zeroExtend 64
  | .combine op => BitVec.ofNat 64 (combine op l.bytes xs)
  | _ => BitVec.ofNat 64 (xs.headD 0)

/-- The later of two line stamps of the current epoch (R147). -/
def laterStamp (s : State) (a b : Option (BitVec 6 × BitVec 48)) : Option (BitVec 6 × BitVec 48) :=
  match a, b with
  | none, b => b
  | a, none => a
  | some x, some y => if x.1 ≠ s.epoch then some y else if y.1 ≠ s.epoch then some x else if stampAfter y.2 x.2 then some y else some x

/-- The line stamp of a place (R157). -/
def State.lineStamp (s : State) : Place → Option (BitVec 6 × BitVec 48)
  | .hbm pa => tabGet s.stamps (pa / 64)
  | _ => none

/-- Whether the datum of a scope has passed a line stamp; core scope asks for nothing (R159). -/
def State.datumPast (s : State) (core : Nat) (sc : Scope) (st : Option (BitVec 6 × BitVec 48)) : Bool :=
  match st with
  | none => true
  | some (e, t) => decide (sc = .core) || decide (e ≠ s.epoch) || stampAfter (s.datum sc core) t

/-- Replaces the source of result n. -/
def State.setSource (s : State) (n : Nat) (r : Result) (x : Source) : State :=
  { s with results := s.results.set n { r with src := x } }

/-- Reads the next member of a load at its home. The line stamp of an aperture is the latest of its members' (log entry 14). -/
def State.performOne (s : State) (n : Nat) (r : Result) (l : Load) (p : Place) (rest : List Place) : State :=
  if (p.lines l.reads).any s.poisonedAt then s.setSource n r (.poison l.ta)
  else
    let xs := l.read ++ [s.natAt p l.reads]
    let st := match l.got with
      | some g => laterStamp s g.2 (s.lineStamp p)
      | none => s.lineStamp p
    match rest with
    | _ :: _ => s.setSource n r (.load { l with places := rest, read := xs, got := some (0, st) })
    | [] => match l.kind with
      | .crd => s.setSource n r (.load { l with places := [], read := xs, got := some (l.value xs, st) })
      | .xrd => s.setSource n r (.load { l with places := [], read := xs, got := some (l.value xs, st) })
      | _ => s.setSource n r (.ready (l.value xs))

/-- LOAD_PERFORMED: the read of result n is performed at its home, member by member; a CRD or XRD that has read waits
for its datum (R159, R161). -/
def execLoadPerformed (n : Nat) (s : State) : Out :=
  match s.results[n]? with
  | none => .next s
  | some r => match r.src with
    | .load l => match l.places with
      | [] => match l.got with
        | some (v, st) => if s.datumPast (r.core % 8192) l.scope st then .next (s.setSource n r (.ready v)) else .next s
        | none => .next s
      | p :: rest =>
        if earlierLoad (s.results.take n) r l || !s.witnessLets (r.core % 8192) l p then .next s
        else .next (s.performOne n r l p rest)
    | _ => .next s

/-- The slot after one of its results has arrived. -/
def Slot.receive (t : Slot) (r : GReg) (x : Word) : Slot := { t.putG r x with owed := t.owed.filter (· ≠ r) }

/-- Writes a result into its register; a key past the endpoints is a saved context's (R272). -/
def State.deliverResult (s : State) (core : Nat) (sel : SlotSel) (r : GReg) (x : Word) : State :=
  if core < 8192 then s.onSlot core sel fun t => t.receive r x
  else { s with saved := s.saved.map fun c => if c.key = core then { c with slot := c.slot.receive r x } else c }

/-- LONG_LATENCY_RESULT: result n is written into its register (R44); poison writes nothing (R327). -/
def execLongLatencyResult (n : Nat) (s : State) : Out :=
  match s.results[n]? with
  | none => .next s
  | some r => match r.src with
    | .ready x => .next (({ s with results := dropAt s.results n }.deliverResult r.core r.sel r.reg x).tidy)
    | _ => .next s

end Sys2Proof.Machine
end

