-- ==== Sys2Proof/Machine/Access.lean ====
section
/-! DEFINITION. What a task's accesses share: checks in the order of R138, R139, R227 and R266, the waits of R144, R182 and
R183, sending a store on a stream (R140, R141), the dirty bit (R260) and early loads (R182). -/

namespace Sys2Proof.Machine

/-! ### Watchpoints (R266, R333, R334) -/

/-- The first byte of an access that a watchpoint of the slot watches. -/
def Slot.watched (t : Slot) (reads writes : Bool) (ta : Word) (n : Nat) : Option Word :=
  if t.skip then none
  else ((List.range n).find? fun i => t.points.any fun p =>
      ((reads && p.kind.getLsbD 0) || (writes && p.kind.getLsbD 1)) && decide (taHandle p.addr = taHandle ta) &&
        decide (taOfs p.addr ≤ taOfs ta + i ∧ taOfs ta + i < taOfs p.addr + p.len)).map
    fun i => mkTa (taHandle ta) (taOfs ta + i)

/-! ### Operands -/

/-- The tree address [gA + d], or the trap of R61. -/
def addressed (a : GReg) (d : Int) (s : State) (k : Word → Out) : Out :=
  match offsetAdd (s.g a) d with
  | none => trap Cause.offsetOverflow (s.g a) s
  | some ta => k ta

/-- An access's checks and translation (R138, R139, R227); it goes on with the caches as the access leaves them. -/
def translated (op : AccOp) (ta : Word) (n : Nat) (s : State) (k : State → Reach → List Place → Out) : Out :=
  match s.reach s.core.id s.slot.ctx op true ta n with
  | .error c => trap c ta s
  | .ok r => match s.locate s.core.id s.slot.ctx (!op.reads) ta r with
    | .fail c => trap c ta s
    | .wait t => stall t
    | .found t ps => k t r ps

/-- A watchpoint comes after every other cause of an access (R266). -/
def watching (reads writes : Bool) (ta : Word) (n : Nat) (s : State) (k : Out) : Out :=
  match s.slot.watched reads writes ta n with
  | some b => trap Cause.watchpoint b s
  | none => k

/-- An access's checks, translation and watchpoint, in that order (R138, R139, R227, R266). -/
def located (op : AccOp) (reads writes : Bool) (ta : Word) (n : Nat) (s : State) (k : State → Reach → List Place → Out) : Out :=
  translated op ta n s fun s r ps => watching reads writes ta n s (k s r ps)

/-! ### Waits -/

/-- The origin of a slot's stores (R140). -/
def originOf : SlotSel → Nat
  | .task => 0
  | .act => 1

/-- Whether a store is one of a slot's. -/
def Store.isOf (x : Store) (core : Nat) (sel : SlotSel) : Bool := decide (x.src = core) && decide (x.origin = originOf sel)

/-- What kind of place it is, and where. -/
def Place.base : Place → Nat × Nat × Nat
  | .sram c _ => (0, c, 0)
  | .hbm _ => (1, 0, 0)
  | .host p _ => (2, p, 0)
  | .peer d k _ => (3, d, k)

/-- The address of a place among its kind. -/
def Place.ofs : Place → Nat
  | .sram _ o => o
  | .hbm pa => pa
  | .host _ a => a
  | .peer _ _ o => o

/-- Whether a line and n bytes from a place meet. -/
def lineMeets (line p : Place) (n : Nat) : Bool :=
  decide (line.base = p.base) && decide (line.ofs < p.ofs + n ∧ p.ofs < line.ofs + 64)

/-- Whether a queued matrix or vector instruction reads memory when it executes. -/
def engineLoads : Instr → Bool
  | .tld _ _ _ _ => true
  | .vld _ _ _ _ _ => true
  | .vlds _ _ _ _ _ => true
  | _ => false

/-- Whether a queued matrix or vector instruction stores when it executes. -/
def engineStores : Instr → Bool
  | .tst _ _ _ _ => true
  | .mepi _ _ _ _ _ _ _ _ _ => true
  | .vst _ _ _ _ _ _ => true
  | .vsts _ _ _ _ _ _ => true
  | _ => false

/-- Whether a queued instruction touches one of these lines, or the core's own SRAM where `own` (R114). -/
def EngOp.touches (o : EngOp) (lines : List Place) (own : Bool) : Bool :=
  o.places.any fun ps => ps.any fun p =>
    lines.any (fun l => lineMeets l p.1 p.2) || (own && decide (p.1.base.1 = 0))

/-- The retired matrix and vector instructions of the executing slot that have not finished. -/
def State.queued (s : State) : List EngOp := (s.core.matrix ++ s.core.vector).filter fun o => o.sel = s.sel

/-- Whether one of these lines is the core's own SRAM. -/
def State.ownLines (s : State) (lines : List Place) : Bool := lines.any fun l => decide (l.base = (0, s.core.id, 0))

/-- Whether an access of the slot to its own SRAM has not taken effect yet; accesses there keep program order (R182, R114). -/
def State.ownBusy (s : State) : Bool :=
  (s.stores.any fun x => x.isOf s.core.id s.sel && decide (x.phase = .issued) && decide (x.place.base = (0, s.core.id, 0))) ||
    s.outstanding.any fun r => match r.src with
      | .load l => s.ownLines l.lines
      | _ => false

/-- Whether dwords of the core's own SRAM that an instruction reads at its issue may still change by what precedes it: an access of the slot
there has not taken effect, or a retired instruction will store there (R114, R182). -/
def State.ownHeld (s : State) : Bool := s.ownBusy || s.queued.any fun o => engineStores o.instr && o.touches [] true

/-- Whether a load of these lines must wait: an unsettled store of the task on a line (R144), a retired instruction
that will store or load there (R114, R182), or program order in the core's own SRAM (R182). -/
def State.loadHeld (s : State) (lines : List Place) (q : List EngOp) : Bool :=
  (s.stores.any fun x => x.isOf s.core.id s.sel && lines.contains x.place.line) ||
    (q.any fun o => (engineStores o.instr || engineLoads o.instr) && o.touches lines (s.ownLines lines)) ||
    (s.ownLines lines && s.ownBusy)

/-- The unsettled stores of a slot's stream, replicas counted once (R140). -/
def State.unsettled (s : State) (src origin : Nat) (str : Stream) : Nat :=
  (((s.stores.filter fun x => decide (x.src = src ∧ x.origin = origin ∧ x.stream = str)).map (·.seq)).eraseDups).length

/-- Whether a store on a stream to these lines must wait: another stream's unsettled store (R144), a load not yet
performed (R183), a retired instruction that will read or store there (R114), or program order in the core's own SRAM. -/
def State.storeHeld (s : State) (str : Stream) (lines : List Place) (q : List EngOp) : Bool :=
  (s.stores.any fun x => x.isOf s.core.id s.sel && decide (x.stream ≠ str) && lines.contains x.place.line) ||
    (s.outstanding.any fun r => match r.src with
      | .load l => meet l.lines lines
      | _ => false) ||
    (q.any fun o => (engineStores o.instr || engineLoads o.instr) && o.touches lines (s.ownLines lines)) ||
    (s.ownLines lines && s.ownBusy)

/-! ### Sending (R140, R141) -/

/-- How many of the addresses at the front lie in one 64-byte line. -/
def lineRun : List Word → Nat
  | [] => 0
  | [_] => 1
  | a :: b :: l => if a.toNat / 64 = b.toNat / 64 then lineRun (b :: l) + 1 else 1

/-- Stores a vst of these lane addresses issues: one for each line, in ascending order (R113). -/
def lineRuns : List Word → Nat
  | [] => 0
  | [_] => 1
  | a :: b :: l => if a.toNat / 64 = b.toNat / 64 then lineRuns (b :: l) else lineRuns (b :: l) + 1

/-- Stores a retired vector store has still to issue on a stream (R108, R113). -/
def EngOp.owes (o : EngOp) (str : Stream) : Nat :=
  match o.instr with
  | .vst _ _ q _ _ _ => if q = str then lineRuns (o.tas.drop o.done) else 0
  | .vsts _ _ q _ _ _ => if q = str then (o.tas.drop o.done).length else 0
  | _ => 0

/-- Stream slots that retired vector stores of a slot hold (R108, R113). -/
def State.heldSlots (s : State) (str : Stream) : Nat :=
  ((s.core.vector.filter fun o => decide (o.sel = s.sel)).map fun o => o.owes str).foldl (· + ·) 0

/-- Whether the slot in focus has room for n more unsettled stores on a stream (R140, R108). -/
def State.streamRoom (s : State) (str : Stream) (n : Nat) : Bool :=
  decide (s.unsettled s.core.id (originOf s.sel) str + s.heldSlots str + n ≤ 64)

/-- The previous unsettled store of a stream to a home, other than replicas of this one (R141). -/
def State.predecessor (s : State) (src origin : Nat) (str : Stream) (home : Nat) (seq : BitVec 24) : Option (BitVec 24) :=
  ((s.stores.filter fun x => decide (x.src = src ∧ x.origin = origin ∧ x.stream = str ∧ x.seq ≠ seq) &&
    decide (s.homeOf x.place = home)).getLast?).map (·.seq)

/-- Puts one store of sequence `seq` on its way, with its replica number. -/
def State.putStore (s : State) (w : Sender) (str : Stream) (seq : BitVec 24) (op : StoreOp) (ta : Word)
    (reply : Option (Nat × SlotSel × GReg)) (unit : Option (EngineRef × BitVec 32 × Nat)) (p : Place) (i : Nat) : State :=
  let r := s.leave w.src p
  let x : Store :=
    { src := w.src, origin := w.origin, stream := str, seq := seq,
      pred := s.predecessor w.src w.origin str (s.homeOf p) seq, stamp := s.vt, covered := w.covered, place := p, op := op,
      phase := .issued, kernel := w.kernel, ctx := w.ctx, reply := reply, unit := unit, sends := 0, sent := s.vt, out := r.2, via := r.1,
      packet := w.packet, hub := w.hub, ta := ta, replica := i }
  { s with stores := s.stores ++ [x] }

/-- Sends a store to each of its places, replicas of one sequence (R151, R189). -/
def State.putStores (s : State) (w : Sender) (str : Stream) (seq : BitVec 24) (op : StoreOp) (ta : Word)
    (reply : Option (Nat × SlotSel × GReg)) (unit : Option (EngineRef × BitVec 32 × Nat)) : List Place → Nat → State
  | [], _ => s
  | p :: l, i => (s.putStore w str seq op ta reply unit p i).putStores w str seq op ta reply unit l (i + 1)

/-- The slot in focus as a source. Dispatch cores have origin 0 like task slots (R140). -/
def State.sender (s : State) : Sender :=
  { src := s.core.id, origin := originOf s.sel, kernel := s.slot.kernel, ctx := s.slot.ctx, covered := true, packet := none, hub := none }

/-- Whether bytes lie in a named region of the core (R221). -/
def Core.inRegion (c : Core) (o n : Nat) : Bool := c.regions.any fun r => decide (o < r.ofs + r.size ∧ r.ofs < o + n)

/-- Whether n bytes at a place lie in a named region of the core in focus (R221). -/
def State.inOwnRegion (s : State) (p : Place) (n : Nat) : Bool :=
  match p with
  | .sram c o => decide (c = s.core.id) && s.core.inRegion o n
  | _ => false

/-- Sets an activation's dirty bit where what it writes, pieces with their lengths, meets a named region of its own core
(R260). -/
def State.soil (s : State) (ps : List (Place × Nat)) : State :=
  if s.sel = .act ∧ ps.any (fun p => s.inOwnRegion p.1 p.2) then s.mapSlot fun t => { t with dirty := true } else s

/-- The next sequence of a stream of the slot in focus (R140). -/
def State.nextSeq (s : State) (str : Stream) : BitVec 24 := s.slot.streams[str] + 1

/-- Sends a store of the slot in focus and moves its stream's sequence (R140). -/
def State.send (s : State) (str : Stream) (op : StoreOp) (ta : Word) (reply : Option (Nat × SlotSel × GReg))
    (ps : List Place) : State :=
  ((s.mapSlot fun t => { t with streams := t.streams.set str (t.streams[str] + 1) }).putStores s.sender str (s.nextSeq str) op ta
    reply none ps 0).soil (ps.map fun p => (p, op.length))

/-- The witness a store returns at issue: of the store, or for an aperture a stamp (R151, R154). -/
def State.issueWitness (s : State) (r : Reach) (str : Stream) (ps : List Place) : Word128 :=
  match r, ps with
  | .aperture _ _ _, _ => s.stampNow
  | _, p :: _ => storeWitness s.epoch s.vt (s.endpoint s.core.id) str.val (s.nextSeq str).toNat (s.homeOf p) (originOf s.sel)
  | _, [] => s.stampNow

/-- Writes a witness result where one is named. -/
def State.setWOpt (s : State) (r : Option WReg) (x : Word128) : State :=
  match r with
  | none => s
  | some w => s.setW w (.val x)

/-- A store or posted atomic of the slot: its checks, its waits, then it is sent and its witness written (R151, R154). -/
def storeAccess (acc : AccOp) (str : Stream) (op : StoreOp) (wres : Option WReg) (ta : Word) (s : State) (k : State → Out) : Out :=
  located acc false true ta op.length s fun s r ps =>
    if !s.streamRoom str 1 || s.storeHeld str (ps.map Place.line) s.queued then stall s
    else k ((s.send str op ta none ps).setWOpt wres (s.issueWitness r str ps))

/-! ### Early loads (R182) -/

/-- Whether an early load stands at the slot's pc. -/
def State.earlyHere (s : State) (e : Early) : Bool := decide (e.core = s.core.id ∧ e.sel = s.sel ∧ e.pc = s.slot.pc)

/-- The value of a load sent early for the instruction that issues, if there is one for its address; whatever was sent early for
the instruction is used up (R182). -/
def State.takeEarly (s : State) (ta : Word) : Option Source × State :=
  ((s.early.find? fun e => s.earlyHere e && decide (e.ta = ta)).map (·.value), { s with early := s.early.filter fun e => !s.earlyHere e })

/-- Whether an instruction keeps a load behind it from being sent early: control and the waits and tree instructions of
R182 and R214. `t` holds the witness registers as they will be pending. -/
def stopsEarly (t : Slot) : Instr → Bool
  | .beq _ _ _ _ => true
  | .bne _ _ _ _ => true
  | .blt _ _ _ _ => true
  | .bge _ _ _ _ => true
  | .bltu _ _ _ _ => true
  | .bgeu _ _ _ _ => true
  | .jal _ _ => true
  | .jalr _ _ _ => true
  | .hbeqz _ _ => true
  | .hbnez _ _ => true
  | .hj _ => true
  | .hjr _ => true
  | .repCount _ _ => true
  | .repRegister _ _ => true
  | .exit => true
  | .endAct => true
  | .trap _ => true
  | .eret => true
  | .bkpt _ => true
  | .csync => true
  | .wfe => true
  | .ovld _ => true
  | .wchk _ _ => true
  | .cwait _ _ _ => true
  | .crd _ _ _ _ => true
  | .xrd _ _ _ _ => true
  | .cpwait _ _ => true
  | .drain _ _ => true
  | .recv _ _ => true
  | .ldAfter _ _ _ _ _ _ => true
  | .wget _ _ a => (t.w[a]).isPending
  | .wmerge _ a b => (t.w[a]).isPending || (t.w[b]).isPending
  | .cpy _ w _ _ _ => w.any fun a => (t.w[a]).isPending
  | .cpys _ w _ _ _ => w.any fun a => (t.w[a]).isPending
  | .gath _ w _ _ _ => w.any fun a => (t.w[a]).isPending
  | .fill _ w _ _ _ => w.any fun a => (t.w[a]).isPending
  | .lay _ w _ _ _ => w.any fun a => (t.w[a]).isPending
  | .deal _ w _ _ _ => w.any fun a => (t.w[a]).isPending
  | .walk _ _ _ => true
  | .openNode _ _ _ _ _ _ _ => true
  | .bind _ _ _ => true
  | .unbind _ _ => true
  | .close _ => true
  | .stat _ _ => true
  | .mkobj _ _ _ _ => true
  | .revoke _ _ => true
  | _ => false

/-! ### Rows and lanes of matrix and vector instructions (R96, R102, R111) -/

/-- Another core and slot put in focus for a calculation, and the focus put back. -/
def State.within (s : State) (core : Nat) (sel : SlotSel) (f : State → State) : State :=
  (f (s.focusOn core sel)).focusOn s.core.id s.sel

/-- n bytes from an offset cut at 64-byte lines: offsets into the run and lengths. -/
def cutLines : Nat → Nat → Nat → Nat → List (Nat × Nat)
  | 0, _, _, _ => []
  | fuel + 1, o, k, n =>
    if n = 0 then []
    else if 64 - o % 64 ≥ n then [(k, n)]
    else (k, 64 - o % 64) :: cutLines fuel (o + (64 - o % 64)) (k + (64 - o % 64)) (n - (64 - o % 64))

/-- A row's checks (R96): as an access without alignment; a source must be the core's own SRAM or a memory object homed
in HBM, and anything else traps 0x26. -/
def State.rowReach (s : State) (op : AccOp) (ta : Word) (n : Nat) : Except Cause Reach :=
  match s.reach s.core.id s.slot.ctx op false ta n with
  | .error c => if op.reads ∧ c = Cause.apertureOutside then .error Cause.kindMismatch else .error c
  | .ok r =>
    if op.reads then
      match r with
      | .own o => .ok (.own o)
      | .object k h v o => match s.node k with
        | some nd => if nd.kind = .mem then .ok (.object k h v o) else .error Cause.kindMismatch
        | none => .error Cause.kindMismatch
      | _ => .error Cause.kindMismatch
    else .ok r

/-- The addresses of rows or lanes, or none where one leaves the offset range (R61). -/
def rowAddresses (ta : Word) (ds : List Int) : Option (List Word) := ds.mapM fun d => offsetAdd ta d

/-- The pieces of a row: its tree address and length cut at lines. -/
def rowPieces (ta : Word) (n : Nat) : List (Word × Nat) :=
  (cutLines (n / 64 + 2) (taOfs ta) 0 n).map fun p => (mkTa (taHandle ta) (taOfs ta + p.1), p.2)

/-- Checks every row of n bytes, and then each of its pieces; answers the pieces' reaches with the rows they are of. -/
def State.checkRows (s : State) (op : AccOp) (n : Nat) : List Word → Except (Cause × Word) (List (Word × Word × Nat × Reach))
  | [] => .ok []
  | ta :: l =>
    match s.rowReach op ta n with
    | .error c => .error (c, ta)
    | .ok _ =>
      match (rowPieces ta n).mapM fun p => (s.rowReach op p.1 p.2).map fun r => (ta, p.1, p.2, r) with
      | .error c => .error (c, ta)
      | .ok ps => match s.checkRows op n l with
        | .error e => .error e
        | .ok qs => .ok (ps ++ qs)

/-- What translating rows comes to: every piece's places with the caches as they are left, a cause with its row, or a wait. -/
inductive RowsLocated where
  | found (s : State) (ps : List (List (Place × Nat)))
  | fail (c : Cause) (row : Word)
  | wait (s : State)

/-- The state in which an instruction waits with these rows translated. -/
def State.holdRows (s : State) (qs : List (List (Place × Nat))) : State := s.mapSlot fun t => { t with rows := qs }

/-- Translates every piece (R93, R108); an instruction that waits keeps what it has translated, and goes on from there. -/
def State.locateRows (s : State) (write : Bool) : List (Word × Word × Nat × Reach) → List (List (Place × Nat)) → RowsLocated
  | [], qs => .found (s.holdRows qs) qs
  | (row, ta, n, r) :: l, qs => match s.locate s.core.id s.slot.ctx write ta r with
    | .fail c => .fail c row
    | .wait t => .wait (t.holdRows qs)
    | .found t ps => t.locateRows write l (qs ++ [ps.map fun p => (p, n)])

/-- Rows of n bytes at tree addresses: every check, every translation, then the watchpoints (R266); continues with the
pieces' places and tree addresses. -/
def rowsLocated (op : AccOp) (tas : List Word) (n : Nat) (s : State) (k : State → List (List (Place × Nat)) → List Word → Out) : Out :=
  match s.checkRows op n tas with
  | .error (c, ta) => trap c ta s
  | .ok rs => match s.locateRows (!op.reads) (rs.drop s.slot.rows.length) s.slot.rows with
    | .fail c ta => trap c ta s
    | .wait t => stall t
    | .found t ps => match tas.findSome? fun ta => s.slot.watched op.reads (!op.reads) ta n with
      | some b => trap Cause.watchpoint b s
      | none => k t ps (rs.map fun r => r.2.1)

/-- Whether an earlier instruction of either engine has yet to touch a piece's line (R114, R182). -/
def State.earlierTouches (s : State) (id : Nat) (lines : List Place) : Bool :=
  s.queued.any fun o => decide (o.id < id) && (engineStores o.instr || engineLoads o.instr) &&
    o.touches lines (s.ownLines lines)

/-- Whether a load of the slot on one of these lines has not been performed (R182, R183). -/
def State.unread (s : State) (lines : List Place) : Bool :=
  s.outstanding.any fun r => match r.src with
    | .load l => meet l.lines lines
    | _ => false

/-- Whether a piece an engine is about to read must wait (R144, R114, R182). -/
def State.pieceReadHeld (s : State) (id : Nat) (lines : List Place) : Bool :=
  s.loadHeld lines [] || s.unread lines || s.earlierTouches id lines

/-- Whether a piece an engine is about to store must wait (R144, R183, R114). -/
def State.pieceStoreHeld (s : State) (id : Nat) (str : Stream) (lines : List Place) : Bool :=
  s.storeHeld str lines [] || s.earlierTouches id lines

end Sys2Proof.Machine
end

