-- ==== Sys2Proof/WellFormed.lean ====
section
/-! DEFINITION. Which instructions the encodings of R32, R34, R37 and R47 admit, beyond what the operands' types
already say. -/

namespace Sys2Proof

/-- COUNT and D of a message form: at most 8 words, ending at or below g31, and D zero when there are none (R47). -/
def wfMsg (n : BitVec 4) (d : GReg) : Bool :=
  n.toNat ≤ 8 && (n.toNat ≠ 0 || d.val = 0) && d.val + n.toNat ≤ 32

/-- An even register number, the first of a pair (R32). -/
def wfPair {n : Nat} (r : Fin n) : Bool :=
  r.val % 2 = 0

/-- The checks of R47 that a term of Instr can break. Every other breach has no term. -/
def Instr.wellFormed : Instr → Bool
  | .mma _ _ _ _ vp _ => wfPair vp
  | .mmar _ _ _ _ vp _ => wfPair vp
  | .vcvt c _ rm _ _ => !c.exact || rm = .ne
  | .walk _ _ b => wfPair b
  | .bind _ _ b => wfPair b
  | .unbind _ b => wfPair b
  | .mkobj _ _ _ b => wfPair b
  | .send _ n _ d => wfMsg n d
  | .sendr _ n _ d => wfMsg n d
  | .sendm _ n _ d => wfMsg n d
  | .recv _ d => d.val ≤ 23
  | .peek _ d => d.val ≤ 23
  | _ => true

end Sys2Proof
end

