-- ==== Sys2Proof/Decode.lean ====
section
/-! DEFINITION. Decoding of instruction words and compact words (R31 to R47), and after it the encoder, written
from the same tables. A word is a number whose bit 0 is the least significant bit of its first halfword; halfwords
lie in memory in ascending order, each little-endian (R31). -/

namespace Sys2Proof

/-- Field of `len` bits from bit `lo` of a word (R5). -/
def fld (w lo len : Nat) : Nat :=
  w / 2 ^ lo % 2 ^ len

/-- SIZE by code (R34). -/
def Size.ofCode : Nat → Size
  | 0 => .b | 1 => .h | 2 => .w | _ => .d
/-- SIZE code (R34). -/
def Size.code : Size → Nat
  | .b => 0 | .h => 1 | .w => 2 | .d => 3
/-- SCOPE by code (R34). -/
def Scope.ofCode : Nat → Scope
  | 0 => .core | 1 => .clu | 2 => .sec | 3 => .die | 4 => .pkg | 5 => .dom | 6 => .host | _ => .sys
/-- WIDTH by code (R34). -/
def Width.ofCode : Nat → Width
  | 0 => .n32 | 1 => .n16 | _ => .n8
/-- WIDTH code (R34). -/
def Width.code : Width → Nat
  | .n32 => 0 | .n16 => 1 | .n8 => 2
/-- RM by code (R34). -/
def Rm.ofCode : Nat → Rm
  | 0 => .ne | 1 => .rz | 2 => .rd | _ => .ru
/-- RM code (R34). -/
def Rm.code : Rm → Nat
  | .ne => 0 | .rz => 1 | .rd => 2 | .ru => 3
/-- OUT by code (R34). -/
def OutFmt.ofCode : Nat → OutFmt
  | 0 => .fp32 | 1 => .bf16 | 2 => .fp8 | _ => .fp8nan
/-- OUT code (R34). -/
def OutFmt.code : OutFmt → Nat
  | .fp32 => 0 | .bf16 => 1 | .fp8 => 2 | .fp8nan => 3
/-- ACT by code (R34). -/
def Act.ofCode : Nat → Act
  | 0 => .none | 1 => .relu | _ => .clamp
/-- ACT code (R34). -/
def Act.code : Act → Nat
  | .none => 0 | .relu => 1 | .clamp => 2
/-- Condition of vcmp by FUNC (R37). -/
def Cmp.ofCode : Nat → Cmp
  | 0 => .feq | 1 => .fne | 2 => .flt | 3 => .fle | 4 => .fun | 5 => .ieq | 6 => .ine | 7 => .ilt | _ => .ile
/-- FUNC of a vcmp condition (R37). -/
def Cmp.code : Cmp → Nat
  | .feq => 0 | .fne => 1 | .flt => 2 | .fle => 3 | .fun => 4 | .ieq => 5 | .ine => 6 | .ilt => 7 | .ile => 8
/-- Conversion of vcvt by FUNC (R37). -/
def Cvt.ofCode : Nat → Cvt
  | 0 => .fp32Bf16 | 1 => .fp32Fp8 | 2 => .fp32Fp8nan | 3 => .bf16Fp32 | 4 => .fp8Fp32 | 5 => .fp32I32
  | 6 => .i32Fp32 | 7 => .fp32I8 | 8 => .i8Fp32 | 9 => .bf16Fp8 | _ => .bf16Fp8nan
/-- FUNC of a vcvt conversion (R37). -/
def Cvt.code : Cvt → Nat
  | .fp32Bf16 => 0 | .fp32Fp8 => 1 | .fp32Fp8nan => 2 | .bf16Fp32 => 3 | .fp8Fp32 => 4 | .fp32I32 => 5
  | .i32Fp32 => 6 | .fp32I8 => 7 | .i8Fp32 => 8 | .bf16Fp8 => 9 | .bf16Fp8nan => 10
/-- Node kind by code (R37, R199). -/
def Kind.ofCode : Nat → Kind
  | 0 => .dir | 1 => .mem | 2 => .queue | 3 => .ctr | 4 => .cell | 5 => .mcast | 6 => .mount | 7 => .epwin
  | _ => .sysnode

/-- A witness result or wait: V 0 requires the register field zero (R34, R47). -/
def wresOk (v r : Nat) : Bool := if v = 1 then r < 16 else r = 0
/-- The register of a witness result or wait, none when V is 0 (R34). -/
def wresOf (v r : Nat) : Option WReg := if v = 1 then some (Fin.ofNat 16 r) else none
/-- V of a witness result. -/
def wvBit : Option WReg → Nat
  | none => 0 | some _ => 1
/-- The register field of a witness result. -/
def wvReg : Option WReg → Nat
  | none => 0 | some r => r.val
/-- MASKEN 0 requires k zero (R34, R47). -/
def maskOk (m k : Nat) : Bool := m = 1 || k = 0
/-- The mask register, none when MASKEN is 0 (R34). -/
def maskOf (m k : Nat) : Option KReg := if m = 1 then some (Fin.ofNat 4 k) else none
/-- MASKEN and k as one field. -/
def maskCode : Option KReg → Nat
  | none => 0 | some k => 4 + k.val

/-- `i` where the condition holds, otherwise no instruction (R47). -/
def legal (c : Bool) (i : Instr) : Option Instr := if c then some i else none

/-- Major 0x01: ADD, SUB, AND, OR, XOR, SLL, SRL, SRA, MUL, MULH, MULHU, DIV, DIVU, REM, REMU, SLT, SLTU, MIN, MAX, MOV, OADD, MKTA, HDL, OFS (R33, R37). -/
def dec32_01 (w : Nat) : Option Instr :=
  match fld w 27 5 with
  | 0 => legal (decide (fld w 23 4 = 0)) (.add (Fin.ofNat 32 (fld w 8 5)) (Fin.ofNat 32 (fld w 13 5)) (Fin.ofNat 32 (fld w 18 5)))
  | 1 => legal (decide (fld w 23 4 = 0)) (.sub (Fin.ofNat 32 (fld w 8 5)) (Fin.ofNat 32 (fld w 13 5)) (Fin.ofNat 32 (fld w 18 5)))
  | 2 => legal (decide (fld w 23 4 = 0)) (.and (Fin.ofNat 32 (fld w 8 5)) (Fin.ofNat 32 (fld w 13 5)) (Fin.ofNat 32 (fld w 18 5)))
  | 3 => legal (decide (fld w 23 4 = 0)) (.or (Fin.ofNat 32 (fld w 8 5)) (Fin.ofNat 32 (fld w 13 5)) (Fin.ofNat 32 (fld w 18 5)))
  | 4 => legal (decide (fld w 23 4 = 0)) (.xor (Fin.ofNat 32 (fld w 8 5)) (Fin.ofNat 32 (fld w 13 5)) (Fin.ofNat 32 (fld w 18 5)))
  | 5 => legal (decide (fld w 23 4 = 0)) (.sll (Fin.ofNat 32 (fld w 8 5)) (Fin.ofNat 32 (fld w 13 5)) (Fin.ofNat 32 (fld w 18 5)))
  | 6 => legal (decide (fld w 23 4 = 0)) (.srl (Fin.ofNat 32 (fld w 8 5)) (Fin.ofNat 32 (fld w 13 5)) (Fin.ofNat 32 (fld w 18 5)))
  | 7 => legal (decide (fld w 23 4 = 0)) (.sra (Fin.ofNat 32 (fld w 8 5)) (Fin.ofNat 32 (fld w 13 5)) (Fin.ofNat 32 (fld w 18 5)))
  | 8 => legal (decide (fld w 23 4 = 0)) (.mul (Fin.ofNat 32 (fld w 8 5)) (Fin.ofNat 32 (fld w 13 5)) (Fin.ofNat 32 (fld w 18 5)))
  | 9 => legal (decide (fld w 23 4 = 0)) (.mulh (Fin.ofNat 32 (fld w 8 5)) (Fin.ofNat 32 (fld w 13 5)) (Fin.ofNat 32 (fld w 18 5)))
  | 10 => legal (decide (fld w 23 4 = 0)) (.mulhu (Fin.ofNat 32 (fld w 8 5)) (Fin.ofNat 32 (fld w 13 5)) (Fin.ofNat 32 (fld w 18 5)))
  | 11 => legal (true) (.div (BitVec.ofNat 4 (fld w 23 4)) (Fin.ofNat 32 (fld w 8 5)) (Fin.ofNat 32 (fld w 13 5)) (Fin.ofNat 32 (fld w 18 5)))
  | 12 => legal (true) (.divu (BitVec.ofNat 4 (fld w 23 4)) (Fin.ofNat 32 (fld w 8 5)) (Fin.ofNat 32 (fld w 13 5)) (Fin.ofNat 32 (fld w 18 5)))
  | 13 => legal (true) (.rem (BitVec.ofNat 4 (fld w 23 4)) (Fin.ofNat 32 (fld w 8 5)) (Fin.ofNat 32 (fld w 13 5)) (Fin.ofNat 32 (fld w 18 5)))
  | 14 => legal (true) (.remu (BitVec.ofNat 4 (fld w 23 4)) (Fin.ofNat 32 (fld w 8 5)) (Fin.ofNat 32 (fld w 13 5)) (Fin.ofNat 32 (fld w 18 5)))
  | 15 => legal (decide (fld w 23 4 = 0)) (.slt (Fin.ofNat 32 (fld w 8 5)) (Fin.ofNat 32 (fld w 13 5)) (Fin.ofNat 32 (fld w 18 5)))
  | 16 => legal (decide (fld w 23 4 = 0)) (.sltu (Fin.ofNat 32 (fld w 8 5)) (Fin.ofNat 32 (fld w 13 5)) (Fin.ofNat 32 (fld w 18 5)))
  | 17 => legal (decide (fld w 23 4 = 0)) (.min (Fin.ofNat 32 (fld w 8 5)) (Fin.ofNat 32 (fld w 13 5)) (Fin.ofNat 32 (fld w 18 5)))
  | 18 => legal (decide (fld w 23 4 = 0)) (.max (Fin.ofNat 32 (fld w 8 5)) (Fin.ofNat 32 (fld w 13 5)) (Fin.ofNat 32 (fld w 18 5)))
  | 19 => legal (decide (fld w 23 4 = 0) && decide (fld w 18 5 = 0)) (.mov (Fin.ofNat 32 (fld w 8 5)) (Fin.ofNat 32 (fld w 13 5)))
  | 20 => legal (decide (fld w 23 4 = 0)) (.oadd (Fin.ofNat 32 (fld w 8 5)) (Fin.ofNat 32 (fld w 13 5)) (Fin.ofNat 32 (fld w 18 5)))
  | 21 => legal (decide (fld w 23 4 = 0)) (.mkta (Fin.ofNat 32 (fld w 8 5)) (Fin.ofNat 32 (fld w 13 5)) (Fin.ofNat 32 (fld w 18 5)))
  | 22 => legal (decide (fld w 23 4 = 0) && decide (fld w 18 5 = 0)) (.hdl (Fin.ofNat 32 (fld w 8 5)) (Fin.ofNat 32 (fld w 13 5)))
  | 23 => legal (decide (fld w 23 4 = 0) && decide (fld w 18 5 = 0)) (.ofs (Fin.ofNat 32 (fld w 8 5)) (Fin.ofNat 32 (fld w 13 5)))
  | _ => none

/-- Major 0x02: ADDI (R33, R37). -/
def dec32_02 (w : Nat) : Option Instr :=
  legal (true) (.addi (Fin.ofNat 32 (fld w 8 5)) (Fin.ofNat 32 (fld w 13 5)) (BitVec.ofNat 14 (fld w 18 14)))

/-- Major 0x03: ANDI (R33, R37). -/
def dec32_03 (w : Nat) : Option Instr :=
  legal (true) (.andi (Fin.ofNat 32 (fld w 8 5)) (Fin.ofNat 32 (fld w 13 5)) (BitVec.ofNat 14 (fld w 18 14)))

/-- Major 0x04: ORI (R33, R37). -/
def dec32_04 (w : Nat) : Option Instr :=
  legal (true) (.ori (Fin.ofNat 32 (fld w 8 5)) (Fin.ofNat 32 (fld w 13 5)) (BitVec.ofNat 14 (fld w 18 14)))

/-- Major 0x05: XORI (R33, R37). -/
def dec32_05 (w : Nat) : Option Instr :=
  legal (true) (.xori (Fin.ofNat 32 (fld w 8 5)) (Fin.ofNat 32 (fld w 13 5)) (BitVec.ofNat 14 (fld w 18 14)))

/-- Major 0x06: SLTI (R33, R37). -/
def dec32_06 (w : Nat) : Option Instr :=
  legal (true) (.slti (Fin.ofNat 32 (fld w 8 5)) (Fin.ofNat 32 (fld w 13 5)) (BitVec.ofNat 14 (fld w 18 14)))

/-- Major 0x07: MULI (R33, R37). -/
def dec32_07 (w : Nat) : Option Instr :=
  legal (true) (.muli (Fin.ofNat 32 (fld w 8 5)) (Fin.ofNat 32 (fld w 13 5)) (BitVec.ofNat 14 (fld w 18 14)))

/-- Major 0x08: SLLI, SRLI, SRAI (R33, R37). -/
def dec32_08 (w : Nat) : Option Instr :=
  match fld w 30 2 with
  | 0 => legal (decide (fld w 24 6 = 0)) (.slli (Fin.ofNat 32 (fld w 8 5)) (Fin.ofNat 32 (fld w 13 5)) (BitVec.ofNat 6 (fld w 18 6)))
  | 1 => legal (decide (fld w 24 6 = 0)) (.srli (Fin.ofNat 32 (fld w 8 5)) (Fin.ofNat 32 (fld w 13 5)) (BitVec.ofNat 6 (fld w 18 6)))
  | 2 => legal (decide (fld w 24 6 = 0)) (.srai (Fin.ofNat 32 (fld w 8 5)) (Fin.ofNat 32 (fld w 13 5)) (BitVec.ofNat 6 (fld w 18 6)))
  | _ => none

/-- Major 0x09: MOVI (R33, R37). -/
def dec32_09 (w : Nat) : Option Instr :=
  legal (true) (.movi (Fin.ofNat 32 (fld w 8 5)) (BitVec.ofNat 19 (fld w 13 19)))

/-- Major 0x0A: MOVSI (R33, R37). -/
def dec32_0A (w : Nat) : Option Instr :=
  legal (true) (.movsi (Fin.ofNat 32 (fld w 8 5)) (BitVec.ofNat 19 (fld w 13 19)))

/-- Major 0x0B: OADDI (R33, R37). -/
def dec32_0B (w : Nat) : Option Instr :=
  legal (true) (.oaddi (Fin.ofNat 32 (fld w 8 5)) (Fin.ofNat 32 (fld w 13 5)) (BitVec.ofNat 14 (fld w 18 14)))

/-- Major 0x0C: EMOV_E_FROM_G, EMOV_G_FROM_E, EMOV_E_FROM_E (R33, R37). -/
def dec32_0C (w : Nat) : Option Instr :=
  match fld w 27 5 with
  | 0 => legal (decide (fld w 23 4 = 0) && decide (fld w 18 5 = 0) && decide (fld w 8 5 < 8)) (.emovEG (Fin.ofNat 8 (fld w 8 5)) (Fin.ofNat 32 (fld w 13 5)))
  | 1 => legal (decide (fld w 23 4 = 0) && decide (fld w 18 5 = 0) && decide (fld w 13 5 < 8)) (.emovGE (Fin.ofNat 32 (fld w 8 5)) (Fin.ofNat 8 (fld w 13 5)))
  | 2 => legal (decide (fld w 23 4 = 0) && decide (fld w 18 5 = 0) && decide (fld w 13 5 < 8) && decide (fld w 8 5 < 8)) (.emovEE (Fin.ofNat 8 (fld w 8 5)) (Fin.ofNat 8 (fld w 13 5)))
  | _ => none

/-- Major 0x0D: CTLR (R33, R37). -/
def dec32_0D (w : Nat) : Option Instr :=
  legal (decide (fld w 13 10 = 0)) (.ctlr (Fin.ofNat 32 (fld w 8 5)) (BitVec.ofNat 9 (fld w 23 9)))

/-- Major 0x0E: CTLW (R33, R37). -/
def dec32_0E (w : Nat) : Option Instr :=
  legal (decide (fld w 18 5 = 0) && decide (fld w 8 5 = 0)) (.ctlw (BitVec.ofNat 9 (fld w 23 9)) (Fin.ofNat 32 (fld w 13 5)))

/-- Major 0x10: BEQ (R33, R37). -/
def dec32_10 (w : Nat) : Option Instr :=
  legal (true) (.beq (Fin.ofNat 32 (fld w 13 5)) (Fin.ofNat 32 (fld w 18 5)) (BitVec.ofNat 9 (fld w 23 9)) (BitVec.ofNat 5 (fld w 8 5)))

/-- Major 0x11: BNE (R33, R37). -/
def dec32_11 (w : Nat) : Option Instr :=
  legal (true) (.bne (Fin.ofNat 32 (fld w 13 5)) (Fin.ofNat 32 (fld w 18 5)) (BitVec.ofNat 9 (fld w 23 9)) (BitVec.ofNat 5 (fld w 8 5)))

/-- Major 0x12: BLT (R33, R37). -/
def dec32_12 (w : Nat) : Option Instr :=
  legal (true) (.blt (Fin.ofNat 32 (fld w 13 5)) (Fin.ofNat 32 (fld w 18 5)) (BitVec.ofNat 9 (fld w 23 9)) (BitVec.ofNat 5 (fld w 8 5)))

/-- Major 0x13: BGE (R33, R37). -/
def dec32_13 (w : Nat) : Option Instr :=
  legal (true) (.bge (Fin.ofNat 32 (fld w 13 5)) (Fin.ofNat 32 (fld w 18 5)) (BitVec.ofNat 9 (fld w 23 9)) (BitVec.ofNat 5 (fld w 8 5)))

/-- Major 0x14: BLTU (R33, R37). -/
def dec32_14 (w : Nat) : Option Instr :=
  legal (true) (.bltu (Fin.ofNat 32 (fld w 13 5)) (Fin.ofNat 32 (fld w 18 5)) (BitVec.ofNat 9 (fld w 23 9)) (BitVec.ofNat 5 (fld w 8 5)))

/-- Major 0x15: BGEU (R33, R37). -/
def dec32_15 (w : Nat) : Option Instr :=
  legal (true) (.bgeu (Fin.ofNat 32 (fld w 13 5)) (Fin.ofNat 32 (fld w 18 5)) (BitVec.ofNat 9 (fld w 23 9)) (BitVec.ofNat 5 (fld w 8 5)))

/-- Major 0x16: JAL (R33, R37). -/
def dec32_16 (w : Nat) : Option Instr :=
  legal (true) (.jal (Fin.ofNat 32 (fld w 8 5)) (BitVec.ofNat 19 (fld w 13 19)))

/-- Major 0x17: JALR (R33, R37). -/
def dec32_17 (w : Nat) : Option Instr :=
  legal (true) (.jalr (Fin.ofNat 32 (fld w 8 5)) (Fin.ofNat 32 (fld w 13 5)) (BitVec.ofNat 14 (fld w 18 14)))

/-- Major 0x18: EXIT, END, VTR, TID (R33, R37). -/
def dec32_18 (w : Nat) : Option Instr :=
  match fld w 27 5 with
  | 0 => legal (decide (fld w 23 4 = 0) && decide (fld w 18 5 = 0) && decide (fld w 13 5 = 0) && decide (fld w 8 5 = 0)) .exit
  | 1 => legal (decide (fld w 23 4 = 0) && decide (fld w 18 5 = 0) && decide (fld w 13 5 = 0) && decide (fld w 8 5 = 0)) .endAct
  | 2 => legal (decide (fld w 23 4 = 0) && decide (fld w 18 5 = 0) && decide (fld w 13 5 = 0)) (.vtr (Fin.ofNat 32 (fld w 8 5)))
  | 3 => legal (decide (fld w 23 4 = 0) && decide (fld w 18 5 = 0) && decide (fld w 13 5 = 0)) (.tid (Fin.ofNat 32 (fld w 8 5)))
  | _ => none

/-- Major 0x19: TRAP, ERET, BKPT, CSYNC, WFE, OVLD (R33, R37). -/
def dec32_19 (w : Nat) : Option Instr :=
  match fld w 27 5 with
  | 0 => legal (decide (fld w 13 5 = 0) && decide (fld w 8 5 = 0)) (.trap (BitVec.ofNat 9 (fld w 18 9)))
  | 1 => legal (decide (fld w 18 9 = 0) && decide (fld w 13 5 = 0) && decide (fld w 8 5 = 0)) .eret
  | 2 => legal (decide (fld w 13 5 = 0) && decide (fld w 8 5 = 0)) (.bkpt (BitVec.ofNat 9 (fld w 18 9)))
  | 3 => legal (decide (fld w 18 9 = 0) && decide (fld w 13 5 = 0) && decide (fld w 8 5 = 0)) .csync
  | 4 => legal (decide (fld w 18 9 = 0) && decide (fld w 13 5 = 0) && decide (fld w 8 5 = 0)) .wfe
  | 5 => legal (decide (fld w 18 9 = 0) && decide (fld w 8 5 = 0)) (.ovld (Fin.ofNat 32 (fld w 13 5)))
  | _ => none

/-- Major 0x20: LD (R33, R37). -/
def dec32_20 (w : Nat) : Option Instr :=
  legal (true) (.ld (BitVec.ofNat 4 (fld w 28 4)) (Scope.ofCode (fld w 25 3)) (Size.ofCode (fld w 23 2)) (BitVec.ofNat 5 (fld w 18 5)) (Fin.ofNat 32 (fld w 13 5)) (Fin.ofNat 32 (fld w 8 5)))

/-- Major 0x21: LD_AFTER (R33, R37). -/
def dec32_21 (w : Nat) : Option Instr :=
  legal (decide (fld w 22 1 = 0)) (.ldAfter (BitVec.ofNat 4 (fld w 28 4)) (Scope.ofCode (fld w 25 3)) (Size.ofCode (fld w 23 2)) (Fin.ofNat 16 (fld w 18 4)) (Fin.ofNat 32 (fld w 13 5)) (Fin.ofNat 32 (fld w 8 5)))

/-- Major 0x22: ST (R33, R37). -/
def dec32_22 (w : Nat) : Option Instr :=
  legal (decide (fld w 28 4 = 0)) (.st (Fin.ofNat 8 (fld w 25 3)) (Size.ofCode (fld w 23 2)) (BitVec.ofNat 5 (fld w 18 5)) (Fin.ofNat 32 (fld w 13 5)) (Fin.ofNat 32 (fld w 8 5)))

/-- Major 0x23: ST_WITNESS (R33, R37). -/
def dec32_23 (w : Nat) : Option Instr :=
  legal (decide (fld w 28 4 = 0) && decide (fld w 22 1 = 0)) (.stWitness (Fin.ofNat 8 (fld w 25 3)) (Size.ofCode (fld w 23 2)) (Fin.ofNat 16 (fld w 18 4)) (Fin.ofNat 32 (fld w 13 5)) (Fin.ofNat 32 (fld w 8 5)))

/-- Major 0x24: POSTED_AADD, POSTED_AAND, POSTED_AOR, POSTED_AXOR, POSTED_AMIN, POSTED_AMAX, POSTED_AFADD, XADD_FP32, XADD_BF16, XADD_FP8, CADD, XCLR (R33, R37). -/
def dec32_24 (w : Nat) : Option Instr :=
  match fld w 8 4 with
  | 0 => legal (wresOk (fld w 31 1) (fld w 27 4) && decide (fld w 23 1 = 0)) (.postedAadd (wresOf (fld w 31 1) (fld w 27 4)) (Fin.ofNat 8 (fld w 24 3)) (fld w 12 1 = 1) (Fin.ofNat 32 (fld w 13 5)) (Fin.ofNat 32 (fld w 18 5)))
  | 1 => legal (wresOk (fld w 31 1) (fld w 27 4) && decide (fld w 23 1 = 0)) (.postedAand (wresOf (fld w 31 1) (fld w 27 4)) (Fin.ofNat 8 (fld w 24 3)) (fld w 12 1 = 1) (Fin.ofNat 32 (fld w 13 5)) (Fin.ofNat 32 (fld w 18 5)))
  | 2 => legal (wresOk (fld w 31 1) (fld w 27 4) && decide (fld w 23 1 = 0)) (.postedAor (wresOf (fld w 31 1) (fld w 27 4)) (Fin.ofNat 8 (fld w 24 3)) (fld w 12 1 = 1) (Fin.ofNat 32 (fld w 13 5)) (Fin.ofNat 32 (fld w 18 5)))
  | 3 => legal (wresOk (fld w 31 1) (fld w 27 4) && decide (fld w 23 1 = 0)) (.postedAxor (wresOf (fld w 31 1) (fld w 27 4)) (Fin.ofNat 8 (fld w 24 3)) (fld w 12 1 = 1) (Fin.ofNat 32 (fld w 13 5)) (Fin.ofNat 32 (fld w 18 5)))
  | 4 => legal (wresOk (fld w 31 1) (fld w 27 4) && decide (fld w 23 1 = 0)) (.postedAmin (wresOf (fld w 31 1) (fld w 27 4)) (Fin.ofNat 8 (fld w 24 3)) (fld w 12 1 = 1) (Fin.ofNat 32 (fld w 13 5)) (Fin.ofNat 32 (fld w 18 5)))
  | 5 => legal (wresOk (fld w 31 1) (fld w 27 4) && decide (fld w 23 1 = 0)) (.postedAmax (wresOf (fld w 31 1) (fld w 27 4)) (Fin.ofNat 8 (fld w 24 3)) (fld w 12 1 = 1) (Fin.ofNat 32 (fld w 13 5)) (Fin.ofNat 32 (fld w 18 5)))
  | 6 => legal (wresOk (fld w 31 1) (fld w 27 4) && decide (fld w 23 1 = 0) && decide (fld w 12 1 = 0)) (.postedAfadd (wresOf (fld w 31 1) (fld w 27 4)) (Fin.ofNat 8 (fld w 24 3)) (Fin.ofNat 32 (fld w 13 5)) (Fin.ofNat 32 (fld w 18 5)))
  | 7 => legal (wresOk (fld w 31 1) (fld w 27 4) && decide (fld w 23 1 = 0) && decide (fld w 12 1 = 0)) (.xaddFp32 (wresOf (fld w 31 1) (fld w 27 4)) (Fin.ofNat 8 (fld w 24 3)) (Fin.ofNat 32 (fld w 13 5)) (Fin.ofNat 32 (fld w 18 5)))
  | 8 => legal (wresOk (fld w 31 1) (fld w 27 4) && decide (fld w 23 1 = 0) && decide (fld w 12 1 = 0)) (.xaddBf16 (wresOf (fld w 31 1) (fld w 27 4)) (Fin.ofNat 8 (fld w 24 3)) (Fin.ofNat 32 (fld w 13 5)) (Fin.ofNat 32 (fld w 18 5)))
  | 9 => legal (wresOk (fld w 31 1) (fld w 27 4) && decide (fld w 23 1 = 0) && decide (fld w 12 1 = 0)) (.xaddFp8 (wresOf (fld w 31 1) (fld w 27 4)) (Fin.ofNat 8 (fld w 24 3)) (Fin.ofNat 32 (fld w 13 5)) (Fin.ofNat 32 (fld w 18 5)))
  | 10 => legal (wresOk (fld w 31 1) (fld w 27 4) && decide (fld w 23 1 = 0) && decide (fld w 12 1 = 1)) (.cadd (wresOf (fld w 31 1) (fld w 27 4)) (Fin.ofNat 8 (fld w 24 3)) (Fin.ofNat 32 (fld w 13 5)) (Fin.ofNat 32 (fld w 18 5)))
  | 11 => legal (wresOk (fld w 31 1) (fld w 27 4) && decide (fld w 23 1 = 0) && decide (fld w 18 5 = 0) && decide (fld w 12 1 = 0)) (.xclr (wresOf (fld w 31 1) (fld w 27 4)) (Fin.ofNat 8 (fld w 24 3)) (Fin.ofNat 32 (fld w 13 5)))
  | _ => none

/-- Major 0x25: CRD, XRD, CWAIT (R33, R37). -/
def dec32_25 (w : Nat) : Option Instr :=
  match fld w 23 2 with
  | 0 => legal (decide (fld w 18 5 = 0)) (.crd (BitVec.ofNat 4 (fld w 28 4)) (Scope.ofCode (fld w 25 3)) (Fin.ofNat 32 (fld w 13 5)) (Fin.ofNat 32 (fld w 8 5)))
  | 1 => legal (decide (fld w 18 5 = 0)) (.xrd (BitVec.ofNat 4 (fld w 28 4)) (Scope.ofCode (fld w 25 3)) (Fin.ofNat 32 (fld w 13 5)) (Fin.ofNat 32 (fld w 8 5)))
  | 2 => legal (decide (fld w 28 4 = 0) && decide (fld w 8 5 = 0)) (.cwait (Scope.ofCode (fld w 25 3)) (Fin.ofNat 32 (fld w 13 5)) (Fin.ofNat 32 (fld w 18 5)))
  | _ => none

/-- Major 0x26: WMERGE, WNULL, WSTAMP, WCHK, WTEST, WGET, WPUT (R33, R37). -/
def dec32_26 (w : Nat) : Option Instr :=
  match fld w 27 5 with
  | 0 => legal (decide (fld w 24 3 = 0) && decide (fld w 23 1 = 0) && decide (fld w 18 5 < 16) && decide (fld w 13 5 < 16) && decide (fld w 8 5 < 16)) (.wmerge (Fin.ofNat 16 (fld w 8 5)) (Fin.ofNat 16 (fld w 13 5)) (Fin.ofNat 16 (fld w 18 5)))
  | 1 => legal (decide (fld w 13 14 = 0) && decide (fld w 8 5 < 16)) (.wnull (Fin.ofNat 16 (fld w 8 5)))
  | 2 => legal (decide (fld w 13 11 = 0) && decide (fld w 8 5 < 16)) (.wstamp (Scope.ofCode (fld w 24 3)) (Fin.ofNat 16 (fld w 8 5)))
  | 3 => legal (decide (fld w 18 6 = 0) && decide (fld w 13 5 < 16) && decide (fld w 8 5 = 0)) (.wchk (Scope.ofCode (fld w 24 3)) (Fin.ofNat 16 (fld w 13 5)))
  | 4 => legal (decide (fld w 18 6 = 0) && decide (fld w 13 5 < 16)) (.wtest (Scope.ofCode (fld w 24 3)) (Fin.ofNat 32 (fld w 8 5)) (Fin.ofNat 16 (fld w 13 5)))
  | 5 => legal (decide (fld w 24 3 = 0) && decide (fld w 18 5 = 0) && decide (fld w 13 5 < 16)) (.wget (fld w 23 1 = 1) (Fin.ofNat 32 (fld w 8 5)) (Fin.ofNat 16 (fld w 13 5)))
  | 6 => legal (decide (fld w 23 4 = 0) && decide (fld w 8 5 < 16)) (.wput (Fin.ofNat 16 (fld w 8 5)) (Fin.ofNat 32 (fld w 13 5)) (Fin.ofNat 32 (fld w 18 5)))
  | _ => none

/-- Major 0x27: DRAIN (R33, R37). -/
def dec32_27 (w : Nat) : Option Instr :=
  legal (wresOk (fld w 23 1) (fld w 8 5) && decide (fld w 13 10 = 0)) (.drain (BitVec.ofNat 8 (fld w 24 8)) (wresOf (fld w 23 1) (fld w 8 5)))

/-- Major 0x28: RETURNING_AADD (R33, R37). -/
def dec32_28 (w : Nat) : Option Instr :=
  legal (decide (2 ≤ fld w 23 2)) (.retAadd (BitVec.ofNat 4 (fld w 28 4)) (Fin.ofNat 8 (fld w 25 3)) (fld w 23 2 = 3) (Fin.ofNat 32 (fld w 13 5)) (Fin.ofNat 32 (fld w 18 5)) (Fin.ofNat 32 (fld w 8 5)))

/-- Major 0x29: RETURNING_AAND (R33, R37). -/
def dec32_29 (w : Nat) : Option Instr :=
  legal (decide (2 ≤ fld w 23 2)) (.retAand (BitVec.ofNat 4 (fld w 28 4)) (Fin.ofNat 8 (fld w 25 3)) (fld w 23 2 = 3) (Fin.ofNat 32 (fld w 13 5)) (Fin.ofNat 32 (fld w 18 5)) (Fin.ofNat 32 (fld w 8 5)))

/-- Major 0x2A: RETURNING_AOR (R33, R37). -/
def dec32_2A (w : Nat) : Option Instr :=
  legal (decide (2 ≤ fld w 23 2)) (.retAor (BitVec.ofNat 4 (fld w 28 4)) (Fin.ofNat 8 (fld w 25 3)) (fld w 23 2 = 3) (Fin.ofNat 32 (fld w 13 5)) (Fin.ofNat 32 (fld w 18 5)) (Fin.ofNat 32 (fld w 8 5)))

/-- Major 0x2B: RETURNING_AXOR (R33, R37). -/
def dec32_2B (w : Nat) : Option Instr :=
  legal (decide (2 ≤ fld w 23 2)) (.retAxor (BitVec.ofNat 4 (fld w 28 4)) (Fin.ofNat 8 (fld w 25 3)) (fld w 23 2 = 3) (Fin.ofNat 32 (fld w 13 5)) (Fin.ofNat 32 (fld w 18 5)) (Fin.ofNat 32 (fld w 8 5)))

/-- Major 0x2C: RETURNING_AMIN (R33, R37). -/
def dec32_2C (w : Nat) : Option Instr :=
  legal (decide (2 ≤ fld w 23 2)) (.retAmin (BitVec.ofNat 4 (fld w 28 4)) (Fin.ofNat 8 (fld w 25 3)) (fld w 23 2 = 3) (Fin.ofNat 32 (fld w 13 5)) (Fin.ofNat 32 (fld w 18 5)) (Fin.ofNat 32 (fld w 8 5)))

/-- Major 0x2D: RETURNING_AMAX (R33, R37). -/
def dec32_2D (w : Nat) : Option Instr :=
  legal (decide (2 ≤ fld w 23 2)) (.retAmax (BitVec.ofNat 4 (fld w 28 4)) (Fin.ofNat 8 (fld w 25 3)) (fld w 23 2 = 3) (Fin.ofNat 32 (fld w 13 5)) (Fin.ofNat 32 (fld w 18 5)) (Fin.ofNat 32 (fld w 8 5)))

/-- Major 0x2E: ASWAP (R33, R37). -/
def dec32_2E (w : Nat) : Option Instr :=
  legal (decide (2 ≤ fld w 23 2)) (.aswap (BitVec.ofNat 4 (fld w 28 4)) (Fin.ofNat 8 (fld w 25 3)) (fld w 23 2 = 3) (Fin.ofNat 32 (fld w 13 5)) (Fin.ofNat 32 (fld w 18 5)) (Fin.ofNat 32 (fld w 8 5)))

/-- Major 0x2F: ACAS (R33, R37). -/
def dec32_2F (w : Nat) : Option Instr :=
  legal (decide (2 ≤ fld w 23 2)) (.acas (BitVec.ofNat 4 (fld w 28 4)) (Fin.ofNat 8 (fld w 25 3)) (fld w 23 2 = 3) (Fin.ofNat 32 (fld w 13 5)) (Fin.ofNat 32 (fld w 18 5)) (Fin.ofNat 32 (fld w 8 5)))

/-- Major 0x30: RETURNING_AFADD (R33, R37). -/
def dec32_30 (w : Nat) : Option Instr :=
  legal (decide (fld w 23 2 = 2)) (.retAfadd (BitVec.ofNat 4 (fld w 28 4)) (Fin.ofNat 8 (fld w 25 3)) (Fin.ofNat 32 (fld w 13 5)) (Fin.ofNat 32 (fld w 18 5)) (Fin.ofNat 32 (fld w 8 5)))

/-- Major 0x38: TSHAPE (R33, R37). -/
def dec32_38 (w : Nat) : Option Instr :=
  legal (decide (fld w 27 5 = 0) && decide (fld w 23 4 = 0) && decide (fld w 18 5 = 0) && decide (fld w 8 5 < 8)) (.tshape (Fin.ofNat 8 (fld w 8 5)) (Fin.ofNat 32 (fld w 13 5)))

/-- Major 0x39: TLD (R33, R37). -/
def dec32_39 (w : Nat) : Option Instr :=
  legal (decide (fld w 23 4 = 0) && decide (fld w 18 5 < 8) && decide (fld w 8 5 < 8)) (.tld (Fin.ofNat 8 (fld w 8 5)) (Fin.ofNat 32 (fld w 13 5)) (BitVec.ofNat 5 (fld w 27 5)) (Fin.ofNat 8 (fld w 18 5)))

/-- Major 0x3A: TST (R33, R37). -/
def dec32_3A (w : Nat) : Option Instr :=
  legal (decide (fld w 23 4 = 0) && decide (fld w 18 5 < 8) && decide (fld w 8 5 < 8)) (.tst (Fin.ofNat 8 (fld w 8 5)) (Fin.ofNat 32 (fld w 13 5)) (BitVec.ofNat 5 (fld w 27 5)) (Fin.ofNat 8 (fld w 18 5)))

/-- Major 0x3B: MMA (R33, R37). -/
def dec32_3B (w : Nat) : Option Instr :=
  legal (decide (fld w 18 5 < 8) && decide (fld w 13 5 < 8) && decide (fld w 12 1 = 0) && decide (fld w 10 1 = 0)) (.mma (fld w 11 1 = 1) (Fin.ofNat 4 (fld w 8 2)) (Fin.ofNat 8 (fld w 13 5)) (Fin.ofNat 8 (fld w 18 5)) (Fin.ofNat 16 (fld w 23 4)) (Fin.ofNat 32 (fld w 27 5)))

/-- Major 0x3C: MMAR (R33, R37). -/
def dec32_3C (w : Nat) : Option Instr :=
  legal (decide (fld w 18 5 < 8) && decide (fld w 13 5 < 8) && decide (fld w 12 1 = 0) && decide (fld w 10 1 = 0)) (.mmar (fld w 11 1 = 1) (Fin.ofNat 4 (fld w 8 2)) (Fin.ofNat 8 (fld w 13 5)) (Fin.ofNat 8 (fld w 18 5)) (Fin.ofNat 16 (fld w 23 4)) (Fin.ofNat 32 (fld w 27 5)))

/-- Major 0x3D: MEPI (R33, R37). -/
def dec32_3D (w : Nat) : Option Instr :=
  legal (decide (fld w 24 2 < 3)) (.mepi (Scope.ofCode (fld w 29 3)) (Fin.ofNat 8 (fld w 26 3)) (Act.ofCode (fld w 24 2)) (fld w 23 1 = 1) (Fin.ofNat 32 (fld w 18 5)) (Fin.ofNat 32 (fld w 13 5)) (fld w 12 1 = 1) (OutFmt.ofCode (fld w 10 2)) (Fin.ofNat 4 (fld w 8 2)))

/-- Major 0x3E: TZERO, MREL, MACZ, MRD (R33, R37). -/
def dec32_3E (w : Nat) : Option Instr :=
  match fld w 27 5 with
  | 0 => legal (decide (fld w 23 4 = 0) && decide (fld w 18 5 = 0) && decide (fld w 13 5 = 0) && decide (fld w 8 5 < 8)) (.tzero (Fin.ofNat 8 (fld w 8 5)))
  | 1 => legal (decide (fld w 23 4 = 0) && decide (fld w 18 5 = 0) && decide (fld w 13 5 = 0) && decide (fld w 8 5 < 4)) (.mrel (Fin.ofNat 4 (fld w 8 5)))
  | 2 => legal (decide (fld w 23 4 = 0) && decide (fld w 18 5 = 0) && decide (fld w 13 5 = 0) && decide (fld w 8 5 < 4)) (.macz (Fin.ofNat 4 (fld w 8 5)))
  | 3 => legal (decide (fld w 13 5 < 4)) (.mrd (BitVec.ofNat 4 (fld w 23 4)) (Fin.ofNat 32 (fld w 8 5)) (Fin.ofNat 4 (fld w 13 5)) (Fin.ofNat 32 (fld w 18 5)))
  | _ => none

/-- Major 0x40: VLD (R33, R37). -/
def dec32_40 (w : Nat) : Option Instr :=
  legal (maskOk (fld w 31 1) (fld w 29 2) && decide (fld w 27 2 < 3) && decide (fld w 24 3 = 0) && decide (fld w 23 1 = 0) && decide (fld w 8 5 < 16)) (.vld (maskOf (fld w 31 1) (fld w 29 2)) (Width.ofCode (fld w 27 2)) (BitVec.ofNat 5 (fld w 18 5)) (Fin.ofNat 32 (fld w 13 5)) (Fin.ofNat 16 (fld w 8 5)))

/-- Major 0x41: VST (R33, R37). -/
def dec32_41 (w : Nat) : Option Instr :=
  legal (maskOk (fld w 31 1) (fld w 29 2) && decide (fld w 27 2 < 3) && decide (fld w 23 1 = 0) && decide (fld w 8 5 < 16)) (.vst (maskOf (fld w 31 1) (fld w 29 2)) (Width.ofCode (fld w 27 2)) (Fin.ofNat 8 (fld w 24 3)) (BitVec.ofNat 5 (fld w 18 5)) (Fin.ofNat 32 (fld w 13 5)) (Fin.ofNat 16 (fld w 8 5)))

/-- Major 0x42: VLDS (R33, R37). -/
def dec32_42 (w : Nat) : Option Instr :=
  legal (maskOk (fld w 31 1) (fld w 29 2) && decide (fld w 27 2 < 3) && decide (fld w 24 3 = 0) && decide (fld w 23 1 = 0) && decide (fld w 18 5 < 8) && decide (fld w 8 5 < 16)) (.vlds (maskOf (fld w 31 1) (fld w 29 2)) (Width.ofCode (fld w 27 2)) (Fin.ofNat 8 (fld w 18 5)) (Fin.ofNat 32 (fld w 13 5)) (Fin.ofNat 16 (fld w 8 5)))

/-- Major 0x43: VSTS (R33, R37). -/
def dec32_43 (w : Nat) : Option Instr :=
  legal (maskOk (fld w 31 1) (fld w 29 2) && decide (fld w 27 2 < 3) && decide (fld w 23 1 = 0) && decide (fld w 18 5 < 8) && decide (fld w 8 5 < 16)) (.vsts (maskOf (fld w 31 1) (fld w 29 2)) (Width.ofCode (fld w 27 2)) (Fin.ofNat 8 (fld w 24 3)) (Fin.ofNat 8 (fld w 18 5)) (Fin.ofNat 32 (fld w 13 5)) (Fin.ofNat 16 (fld w 8 5)))

/-- Major 0x44: VFADD, VFSUB, VFMUL, VFMA, VFMS, VFNMA, VFMIN, VFMAX, VFABS, VFNEG (R33, R37). -/
def dec32_44 (w : Nat) : Option Instr :=
  match fld w 27 5 with
  | 0 => legal (maskOk (fld w 26 1) (fld w 24 2) && decide (fld w 23 1 = 0) && decide (fld w 18 5 < 16) && decide (fld w 13 5 < 16) && decide (fld w 8 5 < 16)) (.vfadd (maskOf (fld w 26 1) (fld w 24 2)) (Fin.ofNat 16 (fld w 8 5)) (Fin.ofNat 16 (fld w 13 5)) (Fin.ofNat 16 (fld w 18 5)))
  | 1 => legal (maskOk (fld w 26 1) (fld w 24 2) && decide (fld w 23 1 = 0) && decide (fld w 18 5 < 16) && decide (fld w 13 5 < 16) && decide (fld w 8 5 < 16)) (.vfsub (maskOf (fld w 26 1) (fld w 24 2)) (Fin.ofNat 16 (fld w 8 5)) (Fin.ofNat 16 (fld w 13 5)) (Fin.ofNat 16 (fld w 18 5)))
  | 2 => legal (maskOk (fld w 26 1) (fld w 24 2) && decide (fld w 23 1 = 0) && decide (fld w 18 5 < 16) && decide (fld w 13 5 < 16) && decide (fld w 8 5 < 16)) (.vfmul (maskOf (fld w 26 1) (fld w 24 2)) (Fin.ofNat 16 (fld w 8 5)) (Fin.ofNat 16 (fld w 13 5)) (Fin.ofNat 16 (fld w 18 5)))
  | 3 => legal (maskOk (fld w 26 1) (fld w 24 2) && decide (fld w 23 1 = 0) && decide (fld w 18 5 < 16) && decide (fld w 13 5 < 16) && decide (fld w 8 5 < 16)) (.vfma (maskOf (fld w 26 1) (fld w 24 2)) (Fin.ofNat 16 (fld w 8 5)) (Fin.ofNat 16 (fld w 13 5)) (Fin.ofNat 16 (fld w 18 5)))
  | 4 => legal (maskOk (fld w 26 1) (fld w 24 2) && decide (fld w 23 1 = 0) && decide (fld w 18 5 < 16) && decide (fld w 13 5 < 16) && decide (fld w 8 5 < 16)) (.vfms (maskOf (fld w 26 1) (fld w 24 2)) (Fin.ofNat 16 (fld w 8 5)) (Fin.ofNat 16 (fld w 13 5)) (Fin.ofNat 16 (fld w 18 5)))
  | 5 => legal (maskOk (fld w 26 1) (fld w 24 2) && decide (fld w 23 1 = 0) && decide (fld w 18 5 < 16) && decide (fld w 13 5 < 16) && decide (fld w 8 5 < 16)) (.vfnma (maskOf (fld w 26 1) (fld w 24 2)) (Fin.ofNat 16 (fld w 8 5)) (Fin.ofNat 16 (fld w 13 5)) (Fin.ofNat 16 (fld w 18 5)))
  | 6 => legal (maskOk (fld w 26 1) (fld w 24 2) && decide (fld w 23 1 = 0) && decide (fld w 18 5 < 16) && decide (fld w 13 5 < 16) && decide (fld w 8 5 < 16)) (.vfmin (maskOf (fld w 26 1) (fld w 24 2)) (Fin.ofNat 16 (fld w 8 5)) (Fin.ofNat 16 (fld w 13 5)) (Fin.ofNat 16 (fld w 18 5)))
  | 7 => legal (maskOk (fld w 26 1) (fld w 24 2) && decide (fld w 23 1 = 0) && decide (fld w 18 5 < 16) && decide (fld w 13 5 < 16) && decide (fld w 8 5 < 16)) (.vfmax (maskOf (fld w 26 1) (fld w 24 2)) (Fin.ofNat 16 (fld w 8 5)) (Fin.ofNat 16 (fld w 13 5)) (Fin.ofNat 16 (fld w 18 5)))
  | 8 => legal (maskOk (fld w 26 1) (fld w 24 2) && decide (fld w 23 1 = 0) && decide (fld w 18 5 = 0) && decide (fld w 13 5 < 16) && decide (fld w 8 5 < 16)) (.vfabs (maskOf (fld w 26 1) (fld w 24 2)) (Fin.ofNat 16 (fld w 8 5)) (Fin.ofNat 16 (fld w 13 5)))
  | 9 => legal (maskOk (fld w 26 1) (fld w 24 2) && decide (fld w 23 1 = 0) && decide (fld w 18 5 = 0) && decide (fld w 13 5 < 16) && decide (fld w 8 5 < 16)) (.vfneg (maskOf (fld w 26 1) (fld w 24 2)) (Fin.ofNat 16 (fld w 8 5)) (Fin.ofNat 16 (fld w 13 5)))
  | _ => none

/-- Major 0x45: VADD, VSUB, VMUL, VAND, VOR, VXOR, VSLL, VSRL, VSRA, VMIN, VMAX (R33, R37). -/
def dec32_45 (w : Nat) : Option Instr :=
  match fld w 27 5 with
  | 0 => legal (maskOk (fld w 26 1) (fld w 24 2) && decide (fld w 23 1 = 0) && decide (fld w 18 5 < 16) && decide (fld w 13 5 < 16) && decide (fld w 8 5 < 16)) (.vadd (maskOf (fld w 26 1) (fld w 24 2)) (Fin.ofNat 16 (fld w 8 5)) (Fin.ofNat 16 (fld w 13 5)) (Fin.ofNat 16 (fld w 18 5)))
  | 1 => legal (maskOk (fld w 26 1) (fld w 24 2) && decide (fld w 23 1 = 0) && decide (fld w 18 5 < 16) && decide (fld w 13 5 < 16) && decide (fld w 8 5 < 16)) (.vsub (maskOf (fld w 26 1) (fld w 24 2)) (Fin.ofNat 16 (fld w 8 5)) (Fin.ofNat 16 (fld w 13 5)) (Fin.ofNat 16 (fld w 18 5)))
  | 2 => legal (maskOk (fld w 26 1) (fld w 24 2) && decide (fld w 23 1 = 0) && decide (fld w 18 5 < 16) && decide (fld w 13 5 < 16) && decide (fld w 8 5 < 16)) (.vmul (maskOf (fld w 26 1) (fld w 24 2)) (Fin.ofNat 16 (fld w 8 5)) (Fin.ofNat 16 (fld w 13 5)) (Fin.ofNat 16 (fld w 18 5)))
  | 3 => legal (maskOk (fld w 26 1) (fld w 24 2) && decide (fld w 23 1 = 0) && decide (fld w 18 5 < 16) && decide (fld w 13 5 < 16) && decide (fld w 8 5 < 16)) (.vand (maskOf (fld w 26 1) (fld w 24 2)) (Fin.ofNat 16 (fld w 8 5)) (Fin.ofNat 16 (fld w 13 5)) (Fin.ofNat 16 (fld w 18 5)))
  | 4 => legal (maskOk (fld w 26 1) (fld w 24 2) && decide (fld w 23 1 = 0) && decide (fld w 18 5 < 16) && decide (fld w 13 5 < 16) && decide (fld w 8 5 < 16)) (.vor (maskOf (fld w 26 1) (fld w 24 2)) (Fin.ofNat 16 (fld w 8 5)) (Fin.ofNat 16 (fld w 13 5)) (Fin.ofNat 16 (fld w 18 5)))
  | 5 => legal (maskOk (fld w 26 1) (fld w 24 2) && decide (fld w 23 1 = 0) && decide (fld w 18 5 < 16) && decide (fld w 13 5 < 16) && decide (fld w 8 5 < 16)) (.vxor (maskOf (fld w 26 1) (fld w 24 2)) (Fin.ofNat 16 (fld w 8 5)) (Fin.ofNat 16 (fld w 13 5)) (Fin.ofNat 16 (fld w 18 5)))
  | 6 => legal (maskOk (fld w 26 1) (fld w 24 2) && decide (fld w 23 1 = 0) && decide (fld w 18 5 < 16) && decide (fld w 13 5 < 16) && decide (fld w 8 5 < 16)) (.vsll (maskOf (fld w 26 1) (fld w 24 2)) (Fin.ofNat 16 (fld w 8 5)) (Fin.ofNat 16 (fld w 13 5)) (Fin.ofNat 16 (fld w 18 5)))
  | 7 => legal (maskOk (fld w 26 1) (fld w 24 2) && decide (fld w 23 1 = 0) && decide (fld w 18 5 < 16) && decide (fld w 13 5 < 16) && decide (fld w 8 5 < 16)) (.vsrl (maskOf (fld w 26 1) (fld w 24 2)) (Fin.ofNat 16 (fld w 8 5)) (Fin.ofNat 16 (fld w 13 5)) (Fin.ofNat 16 (fld w 18 5)))
  | 8 => legal (maskOk (fld w 26 1) (fld w 24 2) && decide (fld w 23 1 = 0) && decide (fld w 18 5 < 16) && decide (fld w 13 5 < 16) && decide (fld w 8 5 < 16)) (.vsra (maskOf (fld w 26 1) (fld w 24 2)) (Fin.ofNat 16 (fld w 8 5)) (Fin.ofNat 16 (fld w 13 5)) (Fin.ofNat 16 (fld w 18 5)))
  | 9 => legal (maskOk (fld w 26 1) (fld w 24 2) && decide (fld w 23 1 = 0) && decide (fld w 18 5 < 16) && decide (fld w 13 5 < 16) && decide (fld w 8 5 < 16)) (.vmin (maskOf (fld w 26 1) (fld w 24 2)) (Fin.ofNat 16 (fld w 8 5)) (Fin.ofNat 16 (fld w 13 5)) (Fin.ofNat 16 (fld w 18 5)))
  | 10 => legal (maskOk (fld w 26 1) (fld w 24 2) && decide (fld w 23 1 = 0) && decide (fld w 18 5 < 16) && decide (fld w 13 5 < 16) && decide (fld w 8 5 < 16)) (.vmax (maskOf (fld w 26 1) (fld w 24 2)) (Fin.ofNat 16 (fld w 8 5)) (Fin.ofNat 16 (fld w 13 5)) (Fin.ofNat 16 (fld w 18 5)))
  | _ => none

/-- Major 0x46: VCMP (R33, R37). -/
def dec32_46 (w : Nat) : Option Instr :=
  legal (decide (fld w 27 5 < 9) && maskOk (fld w 26 1) (fld w 24 2) && decide (fld w 23 1 = 0) && decide (fld w 18 5 < 16) && decide (fld w 13 5 < 16) && decide (fld w 8 5 < 4)) (.vcmp (Cmp.ofCode (fld w 27 5)) (maskOf (fld w 26 1) (fld w 24 2)) (Fin.ofNat 4 (fld w 8 5)) (Fin.ofNat 16 (fld w 13 5)) (Fin.ofNat 16 (fld w 18 5)))

/-- Major 0x47: VSEL (R33, R37). -/
def dec32_47 (w : Nat) : Option Instr :=
  legal (decide (fld w 27 5 = 0) && decide (fld w 26 1 = 1) && decide (fld w 23 1 = 0) && decide (fld w 18 5 < 16) && decide (fld w 13 5 < 16) && decide (fld w 8 5 < 16)) (.vsel (Fin.ofNat 4 (fld w 24 2)) (Fin.ofNat 16 (fld w 8 5)) (Fin.ofNat 16 (fld w 13 5)) (Fin.ofNat 16 (fld w 18 5)))

/-- Major 0x48: VCVT (R33, R37). -/
def dec32_48 (w : Nat) : Option Instr :=
  legal (decide (fld w 27 5 < 11) && maskOk (fld w 26 1) (fld w 24 2) && decide (fld w 23 1 = 0) && decide (fld w 20 3 = 0) && decide (fld w 13 5 < 16) && decide (fld w 8 5 < 16)) (.vcvt (Cvt.ofCode (fld w 27 5)) (maskOf (fld w 26 1) (fld w 24 2)) (Rm.ofCode (fld w 18 2)) (Fin.ofNat 16 (fld w 8 5)) (Fin.ofNat 16 (fld w 13 5)))

/-- Major 0x49: VRFADD, VRFMAX, VRFMIN, VRADD, VRMAX, VRMIN (R33, R37). -/
def dec32_49 (w : Nat) : Option Instr :=
  match fld w 27 5 with
  | 0 => legal (maskOk (fld w 26 1) (fld w 24 2) && decide (fld w 23 1 = 0) && decide (fld w 18 5 = 0) && decide (fld w 13 5 < 16) && decide (fld w 8 5 < 16)) (.vrfadd (maskOf (fld w 26 1) (fld w 24 2)) (Fin.ofNat 16 (fld w 8 5)) (Fin.ofNat 16 (fld w 13 5)))
  | 1 => legal (maskOk (fld w 26 1) (fld w 24 2) && decide (fld w 23 1 = 0) && decide (fld w 18 5 = 0) && decide (fld w 13 5 < 16) && decide (fld w 8 5 < 16)) (.vrfmax (maskOf (fld w 26 1) (fld w 24 2)) (Fin.ofNat 16 (fld w 8 5)) (Fin.ofNat 16 (fld w 13 5)))
  | 2 => legal (maskOk (fld w 26 1) (fld w 24 2) && decide (fld w 23 1 = 0) && decide (fld w 18 5 = 0) && decide (fld w 13 5 < 16) && decide (fld w 8 5 < 16)) (.vrfmin (maskOf (fld w 26 1) (fld w 24 2)) (Fin.ofNat 16 (fld w 8 5)) (Fin.ofNat 16 (fld w 13 5)))
  | 3 => legal (maskOk (fld w 26 1) (fld w 24 2) && decide (fld w 23 1 = 0) && decide (fld w 18 5 = 0) && decide (fld w 13 5 < 16) && decide (fld w 8 5 < 16)) (.vradd (maskOf (fld w 26 1) (fld w 24 2)) (Fin.ofNat 16 (fld w 8 5)) (Fin.ofNat 16 (fld w 13 5)))
  | 4 => legal (maskOk (fld w 26 1) (fld w 24 2) && decide (fld w 23 1 = 0) && decide (fld w 18 5 = 0) && decide (fld w 13 5 < 16) && decide (fld w 8 5 < 16)) (.vrmax (maskOf (fld w 26 1) (fld w 24 2)) (Fin.ofNat 16 (fld w 8 5)) (Fin.ofNat 16 (fld w 13 5)))
  | 5 => legal (maskOk (fld w 26 1) (fld w 24 2) && decide (fld w 23 1 = 0) && decide (fld w 18 5 = 0) && decide (fld w 13 5 < 16) && decide (fld w 8 5 < 16)) (.vrmin (maskOf (fld w 26 1) (fld w 24 2)) (Fin.ofNat 16 (fld w 8 5)) (Fin.ofNat 16 (fld w 13 5)))
  | _ => none

/-- Major 0x4A: VRCP, VRSQRT, VSQRT, VEXP2, VLOG2, VEXP, VTANH (R33, R37). -/
def dec32_4A (w : Nat) : Option Instr :=
  match fld w 27 5 with
  | 0 => legal (maskOk (fld w 26 1) (fld w 24 2) && decide (fld w 23 1 = 0) && decide (fld w 18 5 = 0) && decide (fld w 13 5 < 16) && decide (fld w 8 5 < 16)) (.vrcp (maskOf (fld w 26 1) (fld w 24 2)) (Fin.ofNat 16 (fld w 8 5)) (Fin.ofNat 16 (fld w 13 5)))
  | 1 => legal (maskOk (fld w 26 1) (fld w 24 2) && decide (fld w 23 1 = 0) && decide (fld w 18 5 = 0) && decide (fld w 13 5 < 16) && decide (fld w 8 5 < 16)) (.vrsqrt (maskOf (fld w 26 1) (fld w 24 2)) (Fin.ofNat 16 (fld w 8 5)) (Fin.ofNat 16 (fld w 13 5)))
  | 2 => legal (maskOk (fld w 26 1) (fld w 24 2) && decide (fld w 23 1 = 0) && decide (fld w 18 5 = 0) && decide (fld w 13 5 < 16) && decide (fld w 8 5 < 16)) (.vsqrt (maskOf (fld w 26 1) (fld w 24 2)) (Fin.ofNat 16 (fld w 8 5)) (Fin.ofNat 16 (fld w 13 5)))
  | 3 => legal (maskOk (fld w 26 1) (fld w 24 2) && decide (fld w 23 1 = 0) && decide (fld w 18 5 = 0) && decide (fld w 13 5 < 16) && decide (fld w 8 5 < 16)) (.vexp2 (maskOf (fld w 26 1) (fld w 24 2)) (Fin.ofNat 16 (fld w 8 5)) (Fin.ofNat 16 (fld w 13 5)))
  | 4 => legal (maskOk (fld w 26 1) (fld w 24 2) && decide (fld w 23 1 = 0) && decide (fld w 18 5 = 0) && decide (fld w 13 5 < 16) && decide (fld w 8 5 < 16)) (.vlog2 (maskOf (fld w 26 1) (fld w 24 2)) (Fin.ofNat 16 (fld w 8 5)) (Fin.ofNat 16 (fld w 13 5)))
  | 5 => legal (maskOk (fld w 26 1) (fld w 24 2) && decide (fld w 23 1 = 0) && decide (fld w 18 5 = 0) && decide (fld w 13 5 < 16) && decide (fld w 8 5 < 16)) (.vexp (maskOf (fld w 26 1) (fld w 24 2)) (Fin.ofNat 16 (fld w 8 5)) (Fin.ofNat 16 (fld w 13 5)))
  | 6 => legal (maskOk (fld w 26 1) (fld w 24 2) && decide (fld w 23 1 = 0) && decide (fld w 18 5 = 0) && decide (fld w 13 5 < 16) && decide (fld w 8 5 < 16)) (.vtanh (maskOf (fld w 26 1) (fld w 24 2)) (Fin.ofNat 16 (fld w 8 5)) (Fin.ofNat 16 (fld w 13 5)))
  | _ => none

/-- Major 0x4B: VPERM, VROT, VSPLAT, VINS, VREV (R33, R37). -/
def dec32_4B (w : Nat) : Option Instr :=
  match fld w 27 5 with
  | 0 => legal (maskOk (fld w 26 1) (fld w 24 2) && decide (fld w 23 1 = 0) && decide (fld w 18 5 < 16) && decide (fld w 13 5 < 16) && decide (fld w 8 5 < 16)) (.vperm (maskOf (fld w 26 1) (fld w 24 2)) (Fin.ofNat 16 (fld w 8 5)) (Fin.ofNat 16 (fld w 13 5)) (Fin.ofNat 16 (fld w 18 5)))
  | 1 => legal (maskOk (fld w 26 1) (fld w 24 2) && decide (fld w 23 1 = 0) && decide (fld w 13 5 < 16) && decide (fld w 8 5 < 16)) (.vrot (maskOf (fld w 26 1) (fld w 24 2)) (Fin.ofNat 16 (fld w 8 5)) (Fin.ofNat 16 (fld w 13 5)) (Fin.ofNat 32 (fld w 18 5)))
  | 2 => legal (maskOk (fld w 26 1) (fld w 24 2) && decide (fld w 23 1 = 0) && decide (fld w 18 5 = 0) && decide (fld w 8 5 < 16)) (.vsplat (maskOf (fld w 26 1) (fld w 24 2)) (Fin.ofNat 16 (fld w 8 5)) (Fin.ofNat 32 (fld w 13 5)))
  | 3 => legal (maskOk (fld w 26 1) (fld w 24 2) && decide (fld w 23 1 = 0) && decide (fld w 8 5 < 16)) (.vins (maskOf (fld w 26 1) (fld w 24 2)) (Fin.ofNat 16 (fld w 8 5)) (Fin.ofNat 32 (fld w 13 5)) (Fin.ofNat 32 (fld w 18 5)))
  | 4 => legal (maskOk (fld w 26 1) (fld w 24 2) && decide (fld w 23 1 = 0) && decide (fld w 18 5 = 0) && decide (fld w 13 5 < 16) && decide (fld w 8 5 < 16)) (.vrev (maskOf (fld w 26 1) (fld w 24 2)) (Fin.ofNat 16 (fld w 8 5)) (Fin.ofNat 16 (fld w 13 5)))
  | _ => none

/-- Major 0x4C: KAND, KOR, KXOR, KNOT, KMOV, KSET, KCLR, KFROMG (R33, R37). -/
def dec32_4C (w : Nat) : Option Instr :=
  match fld w 27 5 with
  | 0 => legal (decide (fld w 23 4 = 0) && decide (fld w 18 5 < 4) && decide (fld w 13 5 < 4) && decide (fld w 8 5 < 4)) (.kand (Fin.ofNat 4 (fld w 8 5)) (Fin.ofNat 4 (fld w 13 5)) (Fin.ofNat 4 (fld w 18 5)))
  | 1 => legal (decide (fld w 23 4 = 0) && decide (fld w 18 5 < 4) && decide (fld w 13 5 < 4) && decide (fld w 8 5 < 4)) (.kor (Fin.ofNat 4 (fld w 8 5)) (Fin.ofNat 4 (fld w 13 5)) (Fin.ofNat 4 (fld w 18 5)))
  | 2 => legal (decide (fld w 23 4 = 0) && decide (fld w 18 5 < 4) && decide (fld w 13 5 < 4) && decide (fld w 8 5 < 4)) (.kxor (Fin.ofNat 4 (fld w 8 5)) (Fin.ofNat 4 (fld w 13 5)) (Fin.ofNat 4 (fld w 18 5)))
  | 3 => legal (decide (fld w 18 9 = 0) && decide (fld w 13 5 < 4) && decide (fld w 8 5 < 4)) (.knot (Fin.ofNat 4 (fld w 8 5)) (Fin.ofNat 4 (fld w 13 5)))
  | 4 => legal (decide (fld w 18 9 = 0) && decide (fld w 13 5 < 4) && decide (fld w 8 5 < 4)) (.kmov (Fin.ofNat 4 (fld w 8 5)) (Fin.ofNat 4 (fld w 13 5)))
  | 5 => legal (decide (fld w 13 14 = 0) && decide (fld w 8 5 < 4)) (.kset (Fin.ofNat 4 (fld w 8 5)))
  | 6 => legal (decide (fld w 13 14 = 0) && decide (fld w 8 5 < 4)) (.kclr (Fin.ofNat 4 (fld w 8 5)))
  | 7 => legal (decide (fld w 18 9 = 0) && decide (fld w 8 5 < 4)) (.kfromg (Fin.ofNat 4 (fld w 8 5)) (Fin.ofNat 32 (fld w 13 5)))
  | _ => none

/-- Major 0x4D: VSCL, VSCLS (R33, R37). -/
def dec32_4D (w : Nat) : Option Instr :=
  match fld w 27 5 with
  | 0 => legal (maskOk (fld w 26 1) (fld w 24 2) && decide (fld w 23 1 = 0) && decide (fld w 18 5 < 16) && decide (fld w 13 5 < 16) && decide (fld w 8 5 < 16)) (.vscl (maskOf (fld w 26 1) (fld w 24 2)) (Fin.ofNat 16 (fld w 8 5)) (Fin.ofNat 16 (fld w 13 5)) (Fin.ofNat 16 (fld w 18 5)))
  | 1 => legal (maskOk (fld w 26 1) (fld w 24 2) && decide (fld w 23 1 = 0) && decide (fld w 13 5 < 16) && decide (fld w 8 5 < 16)) (.vscls (maskOf (fld w 26 1) (fld w 24 2)) (Fin.ofNat 16 (fld w 8 5)) (Fin.ofNat 16 (fld w 13 5)) (Fin.ofNat 32 (fld w 18 5)))
  | _ => none

/-- Major 0x4E: VMOVG, KMOVG (R33, R37). -/
def dec32_4E (w : Nat) : Option Instr :=
  match fld w 27 1 with
  | 0 => legal (decide (fld w 24 3 = 0) && decide (fld w 13 5 < 16)) (.vmovg (BitVec.ofNat 4 (fld w 28 4)) (Fin.ofNat 32 (fld w 8 5)) (Fin.ofNat 16 (fld w 13 5)) (Fin.ofNat 64 (fld w 18 6)))
  | 1 => legal (decide (fld w 24 3 = 0) && decide (fld w 18 6 = 0) && decide (fld w 13 5 < 4)) (.kmovg (BitVec.ofNat 4 (fld w 28 4)) (Fin.ofNat 32 (fld w 8 5)) (Fin.ofNat 4 (fld w 13 5)))
  | _ => none

/-- Major 0x50: CPY (R33, R37). -/
def dec32_50 (w : Nat) : Option Instr :=
  legal (wresOk (fld w 28 1) (fld w 24 4) && decide (fld w 23 1 = 0) && decide (fld w 8 5 < 16)) (.cpy (Fin.ofNat 8 (fld w 29 3)) (wresOf (fld w 28 1) (fld w 24 4)) (Fin.ofNat 16 (fld w 8 5)) (Fin.ofNat 32 (fld w 13 5)) (Fin.ofNat 32 (fld w 18 5)))

/-- Major 0x51: CPYS (R33, R37). -/
def dec32_51 (w : Nat) : Option Instr :=
  legal (wresOk (fld w 28 1) (fld w 24 4) && decide (fld w 23 1 = 0) && decide (fld w 8 5 < 16)) (.cpys (Fin.ofNat 8 (fld w 29 3)) (wresOf (fld w 28 1) (fld w 24 4)) (Fin.ofNat 16 (fld w 8 5)) (Fin.ofNat 32 (fld w 13 5)) (Fin.ofNat 32 (fld w 18 5)))

/-- Major 0x52: GATH (R33, R37). -/
def dec32_52 (w : Nat) : Option Instr :=
  legal (wresOk (fld w 28 1) (fld w 24 4) && decide (fld w 23 1 = 0) && decide (fld w 8 5 < 16)) (.gath (Fin.ofNat 8 (fld w 29 3)) (wresOf (fld w 28 1) (fld w 24 4)) (Fin.ofNat 16 (fld w 8 5)) (Fin.ofNat 32 (fld w 13 5)) (Fin.ofNat 32 (fld w 18 5)))

/-- Major 0x53: FILL (R33, R37). -/
def dec32_53 (w : Nat) : Option Instr :=
  legal (wresOk (fld w 28 1) (fld w 24 4) && decide (fld w 23 1 = 0) && decide (fld w 8 5 < 16)) (.fill (Fin.ofNat 8 (fld w 29 3)) (wresOf (fld w 28 1) (fld w 24 4)) (Fin.ofNat 16 (fld w 8 5)) (Fin.ofNat 32 (fld w 13 5)) (Fin.ofNat 32 (fld w 18 5)))

/-- Major 0x54: LAY (R33, R37). -/
def dec32_54 (w : Nat) : Option Instr :=
  legal (wresOk (fld w 28 1) (fld w 24 4) && decide (fld w 23 1 = 0) && decide (fld w 8 5 < 16)) (.lay (Fin.ofNat 8 (fld w 29 3)) (wresOf (fld w 28 1) (fld w 24 4)) (Fin.ofNat 16 (fld w 8 5)) (Fin.ofNat 32 (fld w 13 5)) (Fin.ofNat 32 (fld w 18 5)))

/-- Major 0x55: DEAL (R33, R37). -/
def dec32_55 (w : Nat) : Option Instr :=
  legal (wresOk (fld w 28 1) (fld w 24 4) && decide (fld w 23 1 = 0) && decide (fld w 8 5 < 16)) (.deal (Fin.ofNat 8 (fld w 29 3)) (wresOf (fld w 28 1) (fld w 24 4)) (Fin.ofNat 16 (fld w 8 5)) (Fin.ofNat 32 (fld w 13 5)) (Fin.ofNat 32 (fld w 18 5)))

/-- Major 0x56: TIDSET (R33, R37). -/
def dec32_56 (w : Nat) : Option Instr :=
  legal (decide (fld w 24 8 = 0) && decide (fld w 8 5 = 0)) (.tidset (Fin.ofNat 64 (fld w 18 6)) (Fin.ofNat 32 (fld w 13 5)))

/-- Major 0x57: CPWAIT (R33, R37). -/
def dec32_57 (w : Nat) : Option Instr :=
  legal (decide (fld w 27 5 = 0) && decide (fld w 23 4 = 0) && decide (fld w 8 5 = 0)) (.cpwait (Fin.ofNat 32 (fld w 13 5)) (Fin.ofNat 32 (fld w 18 5)))

/-- Major 0x58: PUB (R33, R37). -/
def dec32_58 (w : Nat) : Option Instr :=
  legal (decide (fld w 24 8 = 0) && decide (fld w 18 5 = 0) && decide (fld w 8 5 < 16)) (.pub (fld w 23 1 = 1) (Fin.ofNat 16 (fld w 8 5)) (Fin.ofNat 32 (fld w 13 5)))

/-- Major 0x59: WALK, OPEN, BIND, UNBIND, CLOSE, STAT, MKOBJ, REVOKE (R33, R37). -/
def dec32_59 (w : Nat) : Option Instr :=
  match fld w 29 3 with
  | 0 => legal (decide (fld w 23 6 = 0)) (.walk (Fin.ofNat 32 (fld w 8 5)) (Fin.ofNat 32 (fld w 13 5)) (Fin.ofNat 32 (fld w 18 5)))
  | 1 => legal (decide (fld w 28 1 = 0) && decide (fld w 18 5 = 0)) (.openNode (fld w 23 1 = 1) (fld w 24 1 = 1) (fld w 25 1 = 1) (fld w 26 1 = 1) (fld w 27 1 = 1) (Fin.ofNat 32 (fld w 8 5)) (Fin.ofNat 32 (fld w 13 5)))
  | 2 => legal (decide (fld w 23 6 = 0)) (.bind (Fin.ofNat 32 (fld w 8 5)) (Fin.ofNat 32 (fld w 13 5)) (Fin.ofNat 32 (fld w 18 5)))
  | 3 => legal (decide (fld w 23 6 = 0) && decide (fld w 8 5 = 0)) (.unbind (Fin.ofNat 32 (fld w 13 5)) (Fin.ofNat 32 (fld w 18 5)))
  | 4 => legal (decide (fld w 23 6 = 0) && decide (fld w 18 5 = 0) && decide (fld w 8 5 = 0)) (.close (Fin.ofNat 32 (fld w 13 5)))
  | 5 => legal (decide (fld w 23 6 = 0) && decide (fld w 18 5 = 0)) (.stat (Fin.ofNat 32 (fld w 8 5)) (Fin.ofNat 32 (fld w 13 5)))
  | 6 => legal (decide (fld w 27 2 = 0) && decide (fld w 23 4 < 9)) (.mkobj (Kind.ofCode (fld w 23 4)) (Fin.ofNat 32 (fld w 8 5)) (Fin.ofNat 32 (fld w 13 5)) (Fin.ofNat 32 (fld w 18 5)))
  | 7 => legal (decide (fld w 23 6 = 0) && decide (fld w 18 5 = 0) && decide (fld w 8 5 < 16)) (.revoke (Fin.ofNat 16 (fld w 8 5)) (Fin.ofNat 32 (fld w 13 5)))
  | _ => none

/-- Major 0x60: SEND (R33, R37). -/
def dec32_60 (w : Nat) : Option Instr :=
  legal (decide (fld w 23 1 = 0) && decide (fld w 18 5 = 0)) (.send (Fin.ofNat 16 (fld w 28 4)) (BitVec.ofNat 4 (fld w 24 4)) (Fin.ofNat 32 (fld w 13 5)) (Fin.ofNat 32 (fld w 8 5)))

/-- Major 0x61: SENDR (R33, R37). -/
def dec32_61 (w : Nat) : Option Instr :=
  legal (decide (fld w 23 1 = 0) && decide (fld w 18 5 = 0)) (.sendr (Fin.ofNat 16 (fld w 28 4)) (BitVec.ofNat 4 (fld w 24 4)) (Fin.ofNat 32 (fld w 13 5)) (Fin.ofNat 32 (fld w 8 5)))

/-- Major 0x62: SENDM (R33, R37). -/
def dec32_62 (w : Nat) : Option Instr :=
  legal (decide (fld w 23 1 = 0) && decide (fld w 18 5 = 0)) (.sendm (Fin.ofNat 16 (fld w 28 4)) (BitVec.ofNat 4 (fld w 24 4)) (Fin.ofNat 32 (fld w 13 5)) (Fin.ofNat 32 (fld w 8 5)))

/-- Major 0x63: RECV (R33, R37). -/
def dec32_63 (w : Nat) : Option Instr :=
  legal (decide (fld w 23 5 = 0) && decide (fld w 18 5 = 0) && decide (fld w 13 5 = 0)) (.recv (Fin.ofNat 16 (fld w 28 4)) (Fin.ofNat 32 (fld w 8 5)))

/-- Major 0x64: PEEK (R33, R37). -/
def dec32_64 (w : Nat) : Option Instr :=
  legal (decide (fld w 23 5 = 0) && decide (fld w 18 5 = 0) && decide (fld w 13 5 = 0)) (.peek (Fin.ofNat 16 (fld w 28 4)) (Fin.ofNat 32 (fld w 8 5)))

/-- Major 0x65: CHB (R33, R37). -/
def dec32_65 (w : Nat) : Option Instr :=
  legal (decide (fld w 23 4 = 0) && decide (fld w 18 5 = 0) && decide (fld w 8 5 = 0)) (.chb (Fin.ofNat 16 (fld w 28 4)) (fld w 27 1 = 1) (Fin.ofNat 32 (fld w 13 5)))

/-- Major 0x66: CHHOLD (R33, R37). -/
def dec32_66 (w : Nat) : Option Instr :=
  legal (decide (fld w 23 4 = 0) && decide (fld w 18 5 = 0) && decide (fld w 8 5 = 0)) (.chhold (Fin.ofNat 16 (fld w 28 4)) (fld w 27 1 = 1) (Fin.ofNat 32 (fld w 13 5)))

/-- Major 0x67: CHREADY (R33, R37). -/
def dec32_67 (w : Nat) : Option Instr :=
  legal (decide (fld w 23 4 = 0) && decide (fld w 18 5 = 0) && decide (fld w 8 5 = 0)) (.chready (Fin.ofNat 16 (fld w 28 4)) (fld w 27 1 = 1) (Fin.ofNat 32 (fld w 13 5)))

/-- Major 0x68: SPAWN, JOIN, LEAVE, GBAR, GIDX, MIGR (R33, R37). -/
def dec32_68 (w : Nat) : Option Instr :=
  match fld w 27 5 with
  | 0 => legal (decide (fld w 23 4 = 0)) (.spawn (Fin.ofNat 32 (fld w 8 5)) (Fin.ofNat 32 (fld w 13 5)) (Fin.ofNat 32 (fld w 18 5)))
  | 1 => legal (decide (fld w 23 4 = 0)) (.join (Fin.ofNat 32 (fld w 8 5)) (Fin.ofNat 32 (fld w 13 5)) (Fin.ofNat 32 (fld w 18 5)))
  | 2 => legal (decide (fld w 23 4 = 0) && decide (fld w 18 5 = 0) && decide (fld w 8 5 = 0)) (.leave (Fin.ofNat 32 (fld w 13 5)))
  | 3 => legal (decide (fld w 23 4 = 0) && decide (fld w 18 5 = 0) && decide (fld w 8 5 = 0)) (.gbar (Fin.ofNat 32 (fld w 13 5)))
  | 4 => legal (decide (fld w 23 4 = 0) && decide (fld w 18 5 = 0)) (.gidx (Fin.ofNat 32 (fld w 8 5)) (Fin.ofNat 32 (fld w 13 5)))
  | 5 => legal (decide (fld w 23 4 = 0) && decide (fld w 18 5 = 0) && decide (fld w 8 5 = 0)) (.migr (Fin.ofNat 32 (fld w 13 5)))
  | _ => none

/-- The instruction a 32-bit word stands for before the checks of WellFormed, by its major opcode (R36). -/
def decodeMajor (w : Nat) : Option Instr :=
  match fld w 1 7 with
  | 0x01 => dec32_01 w
  | 0x02 => dec32_02 w
  | 0x03 => dec32_03 w
  | 0x04 => dec32_04 w
  | 0x05 => dec32_05 w
  | 0x06 => dec32_06 w
  | 0x07 => dec32_07 w
  | 0x08 => dec32_08 w
  | 0x09 => dec32_09 w
  | 0x0A => dec32_0A w
  | 0x0B => dec32_0B w
  | 0x0C => dec32_0C w
  | 0x0D => dec32_0D w
  | 0x0E => dec32_0E w
  | 0x10 => dec32_10 w
  | 0x11 => dec32_11 w
  | 0x12 => dec32_12 w
  | 0x13 => dec32_13 w
  | 0x14 => dec32_14 w
  | 0x15 => dec32_15 w
  | 0x16 => dec32_16 w
  | 0x17 => dec32_17 w
  | 0x18 => dec32_18 w
  | 0x19 => dec32_19 w
  | 0x20 => dec32_20 w
  | 0x21 => dec32_21 w
  | 0x22 => dec32_22 w
  | 0x23 => dec32_23 w
  | 0x24 => dec32_24 w
  | 0x25 => dec32_25 w
  | 0x26 => dec32_26 w
  | 0x27 => dec32_27 w
  | 0x28 => dec32_28 w
  | 0x29 => dec32_29 w
  | 0x2A => dec32_2A w
  | 0x2B => dec32_2B w
  | 0x2C => dec32_2C w
  | 0x2D => dec32_2D w
  | 0x2E => dec32_2E w
  | 0x2F => dec32_2F w
  | 0x30 => dec32_30 w
  | 0x38 => dec32_38 w
  | 0x39 => dec32_39 w
  | 0x3A => dec32_3A w
  | 0x3B => dec32_3B w
  | 0x3C => dec32_3C w
  | 0x3D => dec32_3D w
  | 0x3E => dec32_3E w
  | 0x40 => dec32_40 w
  | 0x41 => dec32_41 w
  | 0x42 => dec32_42 w
  | 0x43 => dec32_43 w
  | 0x44 => dec32_44 w
  | 0x45 => dec32_45 w
  | 0x46 => dec32_46 w
  | 0x47 => dec32_47 w
  | 0x48 => dec32_48 w
  | 0x49 => dec32_49 w
  | 0x4A => dec32_4A w
  | 0x4B => dec32_4B w
  | 0x4C => dec32_4C w
  | 0x4D => dec32_4D w
  | 0x4E => dec32_4E w
  | 0x50 => dec32_50 w
  | 0x51 => dec32_51 w
  | 0x52 => dec32_52 w
  | 0x53 => dec32_53 w
  | 0x54 => dec32_54 w
  | 0x55 => dec32_55 w
  | 0x56 => dec32_56 w
  | 0x57 => dec32_57 w
  | 0x58 => dec32_58 w
  | 0x59 => dec32_59 w
  | 0x60 => dec32_60 w
  | 0x61 => dec32_61 w
  | 0x62 => dec32_62 w
  | 0x63 => dec32_63 w
  | 0x64 => dec32_64 w
  | 0x65 => dec32_65 w
  | 0x66 => dec32_66 w
  | 0x67 => dec32_67 w
  | 0x68 => dec32_68 w
  | _ => none

/-- The instruction a compact word stands for (R39). -/
def decodeCompact (w : Nat) : Option Instr :=
  match fld w 1 5 with
  | 1 => legal (decide (fld w 11 5 = 0) && decide (fld w 6 5 = 0)) .hnop
  | 2 => legal (decide (fld w 15 1 = 0) && decide (fld w 10 1 = 0)) (.repCount (BitVec.ofNat 4 (fld w 11 4)) (BitVec.ofNat 4 (fld w 6 4)))
  | 3 => legal (decide (fld w 15 1 = 0)) (.repRegister (BitVec.ofNat 4 (fld w 11 4)) (Fin.ofNat 32 (fld w 6 5)))
  | 4 => legal (true) (.hmov (Fin.ofNat 32 (fld w 6 5)) (Fin.ofNat 32 (fld w 11 5)))
  | 5 => legal (true) (.hadd (Fin.ofNat 32 (fld w 6 5)) (Fin.ofNat 32 (fld w 11 5)))
  | 6 => legal (true) (.hsub (Fin.ofNat 32 (fld w 6 5)) (Fin.ofNat 32 (fld w 11 5)))
  | 7 => legal (true) (.hand (Fin.ofNat 32 (fld w 6 5)) (Fin.ofNat 32 (fld w 11 5)))
  | 8 => legal (true) (.hor (Fin.ofNat 32 (fld w 6 5)) (Fin.ofNat 32 (fld w 11 5)))
  | 9 => legal (true) (.hxor (Fin.ofNat 32 (fld w 6 5)) (Fin.ofNat 32 (fld w 11 5)))
  | 10 => legal (true) (.hli (Fin.ofNat 32 (fld w 6 5)) (BitVec.ofNat 5 (fld w 11 5)))
  | 11 => legal (true) (.haddi (Fin.ofNat 32 (fld w 6 5)) (BitVec.ofNat 5 (fld w 11 5)))
  | 12 => legal (true) (.hslli (Fin.ofNat 32 (fld w 6 5)) (BitVec.ofNat 5 (fld w 11 5)))
  | 13 => legal (true) (.hsrli (Fin.ofNat 32 (fld w 6 5)) (BitVec.ofNat 5 (fld w 11 5)))
  | 14 => legal (true) (.hsrai (Fin.ofNat 32 (fld w 6 5)) (BitVec.ofNat 5 (fld w 11 5)))
  | 15 => legal (true) (.hbeqz (Fin.ofNat 32 (fld w 6 5)) (BitVec.ofNat 5 (fld w 11 5)))
  | 16 => legal (true) (.hbnez (Fin.ofNat 32 (fld w 6 5)) (BitVec.ofNat 5 (fld w 11 5)))
  | 17 => legal (true) (.hj (BitVec.ofNat 10 (fld w 6 10)))
  | 18 => legal (decide (fld w 11 5 = 0)) (.hjr (Fin.ofNat 32 (fld w 6 5)))
  | 19 => legal (decide (fld w 11 5 = 0) && decide (fld w 6 5 < 16)) (.hwnull (Fin.ofNat 16 (fld w 6 5)))
  | _ => none

/-- What the decoder refuses, by name. -/
inductive DecodeError where
  /-- Fewer bytes than the instruction needs. -/
  | truncated
  /-- A 32-bit word that is no listed instruction (R47). -/
  | illegalWord (w : Nat)
  /-- A compact word that is no listed instruction (R47). -/
  | illegalCompact (w : Nat)
  deriving DecidableEq, Repr

/-- Keeps an instruction that passes the checks of WellFormed (R47). -/
def checked (i : Option Instr) : Option Instr :=
  i.bind fun i => if i.wellFormed then some i else none

/-- Decode a 32-bit word (R31, R36, R47). -/
def decode32 (w : Nat) : Option Instr := checked (decodeMajor w)

/-- Decode a compact word (R31, R39, R47). -/
def decode16 (w : Nat) : Option Instr := checked (decodeCompact w)

/-- Bit 0 of the first halfword tells the two lengths apart (R31): the length in bytes. -/
def lengthOf (h : Nat) : Nat := if h % 2 = 0 then 2 else 4

/-- A halfword of two bytes, the lower address first (R5). -/
def half (b0 b1 : Byte) : Nat := b0.toNat + 256 * b1.toNat

/-- Decode the instruction at the head of a list of bytes: the instruction and its length, or a refusal. -/
def decode : List Byte → Except DecodeError (Instr × Nat)
  | b0 :: b1 :: rest =>
    if lengthOf (half b0 b1) = 2 then
      match decode16 (half b0 b1) with
      | some i => .ok (i, 2)
      | none => .error (.illegalCompact (half b0 b1))
    else
      match rest with
      | b2 :: b3 :: _ =>
        match decode32 (half b0 b1 + 65536 * half b2 b3) with
        | some i => .ok (i, 4)
        | none => .error (.illegalWord (half b0 b1 + 65536 * half b2 b3))
      | _ => .error .truncated
  | _ => .error .truncated

/-- The little-endian bytes of a number (R5). -/
def leBytes : Nat → Nat → List Byte
  | 0, _ => []
  | n + 1, w => BitVec.ofNat 8 w :: leBytes n (w / 256)

/-- The bytes of an instruction whose bits are `w`, as they lie in memory. -/
def tableBytes (w : Nat) : List Byte :=
  leBytes (lengthOf w) w

/-- The instruction the decoder reads from a table word. -/
def decodeTableWord (_nbits w : Nat) : Option Instr :=
  match decode (tableBytes w) with
  | .ok (i, _) => some i
  | .error _ => none

/-- An encoded instruction: a compact word or a 32-bit word (R31). -/
inductive Enc where
  | compact (w : Nat)
  | word (w : Nat)
  deriving DecidableEq, Repr

/-- The bytes of an encoded instruction. -/
def Enc.bytes : Enc → List Byte
  | .compact w => leBytes 2 w
  | .word w => leBytes 4 w

/-- The word of a well-formed instruction (R33 to R39); none for the steps that have no encoding. -/
def encode : Instr → Option Enc
  | .add d a b => some (.word (0x3 + d.val * 256 + a.val * 8192 + b.val * 262144))
  | .sub d a b => some (.word (0x3 + d.val * 256 + a.val * 8192 + b.val * 262144 + 0x8000000))
  | .and d a b => some (.word (0x3 + d.val * 256 + a.val * 8192 + b.val * 262144 + 0x10000000))
  | .or d a b => some (.word (0x3 + d.val * 256 + a.val * 8192 + b.val * 262144 + 0x18000000))
  | .xor d a b => some (.word (0x3 + d.val * 256 + a.val * 8192 + b.val * 262144 + 0x20000000))
  | .sll d a b => some (.word (0x3 + d.val * 256 + a.val * 8192 + b.val * 262144 + 0x28000000))
  | .srl d a b => some (.word (0x3 + d.val * 256 + a.val * 8192 + b.val * 262144 + 0x30000000))
  | .sra d a b => some (.word (0x3 + d.val * 256 + a.val * 8192 + b.val * 262144 + 0x38000000))
  | .mul d a b => some (.word (0x3 + d.val * 256 + a.val * 8192 + b.val * 262144 + 0x40000000))
  | .mulh d a b => some (.word (0x3 + d.val * 256 + a.val * 8192 + b.val * 262144 + 0x48000000))
  | .mulhu d a b => some (.word (0x3 + d.val * 256 + a.val * 8192 + b.val * 262144 + 0x50000000))
  | .div la d a b => some (.word (0x3 + d.val * 256 + a.val * 8192 + b.val * 262144 + la.toNat * 8388608 + 0x58000000))
  | .divu la d a b => some (.word (0x3 + d.val * 256 + a.val * 8192 + b.val * 262144 + la.toNat * 8388608 + 0x60000000))
  | .rem la d a b => some (.word (0x3 + d.val * 256 + a.val * 8192 + b.val * 262144 + la.toNat * 8388608 + 0x68000000))
  | .remu la d a b => some (.word (0x3 + d.val * 256 + a.val * 8192 + b.val * 262144 + la.toNat * 8388608 + 0x70000000))
  | .slt d a b => some (.word (0x3 + d.val * 256 + a.val * 8192 + b.val * 262144 + 0x78000000))
  | .sltu d a b => some (.word (0x3 + d.val * 256 + a.val * 8192 + b.val * 262144 + 0x80000000))
  | .min d a b => some (.word (0x3 + d.val * 256 + a.val * 8192 + b.val * 262144 + 0x88000000))
  | .max d a b => some (.word (0x3 + d.val * 256 + a.val * 8192 + b.val * 262144 + 0x90000000))
  | .mov d a => some (.word (0x3 + d.val * 256 + a.val * 8192 + 0x98000000))
  | .oadd d a b => some (.word (0x3 + d.val * 256 + a.val * 8192 + b.val * 262144 + 0xa0000000))
  | .mkta d a b => some (.word (0x3 + d.val * 256 + a.val * 8192 + b.val * 262144 + 0xa8000000))
  | .hdl d a => some (.word (0x3 + d.val * 256 + a.val * 8192 + 0xb0000000))
  | .ofs d a => some (.word (0x3 + d.val * 256 + a.val * 8192 + 0xb8000000))
  | .addi d a imm => some (.word (0x5 + d.val * 256 + a.val * 8192 + imm.toNat * 262144))
  | .andi d a imm => some (.word (0x7 + d.val * 256 + a.val * 8192 + imm.toNat * 262144))
  | .ori d a imm => some (.word (0x9 + d.val * 256 + a.val * 8192 + imm.toNat * 262144))
  | .xori d a imm => some (.word (0xb + d.val * 256 + a.val * 8192 + imm.toNat * 262144))
  | .slti d a imm => some (.word (0xd + d.val * 256 + a.val * 8192 + imm.toNat * 262144))
  | .muli d a imm => some (.word (0xf + d.val * 256 + a.val * 8192 + imm.toNat * 262144))
  | .slli d a sh => some (.word (0x11 + d.val * 256 + a.val * 8192 + sh.toNat * 262144))
  | .srli d a sh => some (.word (0x11 + d.val * 256 + a.val * 8192 + sh.toNat * 262144 + 0x40000000))
  | .srai d a sh => some (.word (0x11 + d.val * 256 + a.val * 8192 + sh.toNat * 262144 + 0x80000000))
  | .movi d imm => some (.word (0x13 + d.val * 256 + imm.toNat * 8192))
  | .movsi d imm => some (.word (0x15 + d.val * 256 + imm.toNat * 8192))
  | .oaddi d a imm => some (.word (0x17 + d.val * 256 + a.val * 8192 + imm.toNat * 262144))
  | .emovEG d a => some (.word (0x19 + d.val * 256 + a.val * 8192))
  | .emovGE d a => some (.word (0x19 + d.val * 256 + a.val * 8192 + 0x8000000))
  | .emovEE d a => some (.word (0x19 + d.val * 256 + a.val * 8192 + 0x10000000))
  | .ctlr d cnum => some (.word (0x1b + d.val * 256 + cnum.toNat * 8388608))
  | .ctlw cnum a => some (.word (0x1d + a.val * 8192 + cnum.toNat * 8388608))
  | .beq a b offHi offLo => some (.word (0x21 + offLo.toNat * 256 + a.val * 8192 + b.val * 262144 + offHi.toNat * 8388608))
  | .bne a b offHi offLo => some (.word (0x23 + offLo.toNat * 256 + a.val * 8192 + b.val * 262144 + offHi.toNat * 8388608))
  | .blt a b offHi offLo => some (.word (0x25 + offLo.toNat * 256 + a.val * 8192 + b.val * 262144 + offHi.toNat * 8388608))
  | .bge a b offHi offLo => some (.word (0x27 + offLo.toNat * 256 + a.val * 8192 + b.val * 262144 + offHi.toNat * 8388608))
  | .bltu a b offHi offLo => some (.word (0x29 + offLo.toNat * 256 + a.val * 8192 + b.val * 262144 + offHi.toNat * 8388608))
  | .bgeu a b offHi offLo => some (.word (0x2b + offLo.toNat * 256 + a.val * 8192 + b.val * 262144 + offHi.toNat * 8388608))
  | .jal d off => some (.word (0x2d + d.val * 256 + off.toNat * 8192))
  | .jalr d a imm => some (.word (0x2f + d.val * 256 + a.val * 8192 + imm.toNat * 262144))
  | .exit => some (.word (0x31))
  | .endAct => some (.word (0x31 + 0x8000000))
  | .vtr d => some (.word (0x31 + d.val * 256 + 0x10000000))
  | .tid d => some (.word (0x31 + d.val * 256 + 0x18000000))
  | .trap imm => some (.word (0x33 + imm.toNat * 262144))
  | .eret => some (.word (0x33 + 0x8000000))
  | .bkpt imm => some (.word (0x33 + imm.toNat * 262144 + 0x10000000))
  | .csync => some (.word (0x33 + 0x18000000))
  | .wfe => some (.word (0x33 + 0x20000000))
  | .ovld a => some (.word (0x33 + a.val * 8192 + 0x28000000))
  | .ld la scope size disp a d => some (.word (0x41 + d.val * 256 + a.val * 8192 + disp.toNat * 262144 + size.code * 8388608 + scope.code * 33554432 + la.toNat * 268435456))
  | .ldAfter la scope size w a d => some (.word (0x43 + d.val * 256 + a.val * 8192 + w.val * 262144 + size.code * 8388608 + scope.code * 33554432 + la.toNat * 268435456))
  | .st s size disp a d => some (.word (0x45 + d.val * 256 + a.val * 8192 + disp.toNat * 262144 + size.code * 8388608 + s.val * 33554432))
  | .stWitness s size w a d => some (.word (0x47 + d.val * 256 + a.val * 8192 + w.val * 262144 + size.code * 8388608 + s.val * 33554432))
  | .postedAadd wres s wide a b => some (.word (0x49 + wide.toNat * 4096 + a.val * 8192 + b.val * 262144 + s.val * 16777216 + (wvBit wres * 16 + wvReg wres) * 134217728))
  | .postedAand wres s wide a b => some (.word (0x49 + 0x100 + wide.toNat * 4096 + a.val * 8192 + b.val * 262144 + s.val * 16777216 + (wvBit wres * 16 + wvReg wres) * 134217728))
  | .postedAor wres s wide a b => some (.word (0x49 + 0x200 + wide.toNat * 4096 + a.val * 8192 + b.val * 262144 + s.val * 16777216 + (wvBit wres * 16 + wvReg wres) * 134217728))
  | .postedAxor wres s wide a b => some (.word (0x49 + 0x300 + wide.toNat * 4096 + a.val * 8192 + b.val * 262144 + s.val * 16777216 + (wvBit wres * 16 + wvReg wres) * 134217728))
  | .postedAmin wres s wide a b => some (.word (0x49 + 0x400 + wide.toNat * 4096 + a.val * 8192 + b.val * 262144 + s.val * 16777216 + (wvBit wres * 16 + wvReg wres) * 134217728))
  | .postedAmax wres s wide a b => some (.word (0x49 + 0x500 + wide.toNat * 4096 + a.val * 8192 + b.val * 262144 + s.val * 16777216 + (wvBit wres * 16 + wvReg wres) * 134217728))
  | .postedAfadd wres s a b => some (.word (0x49 + 0x600 + a.val * 8192 + b.val * 262144 + s.val * 16777216 + (wvBit wres * 16 + wvReg wres) * 134217728))
  | .xaddFp32 wres s a b => some (.word (0x49 + 0x700 + a.val * 8192 + b.val * 262144 + s.val * 16777216 + (wvBit wres * 16 + wvReg wres) * 134217728))
  | .xaddBf16 wres s a b => some (.word (0x49 + 0x800 + a.val * 8192 + b.val * 262144 + s.val * 16777216 + (wvBit wres * 16 + wvReg wres) * 134217728))
  | .xaddFp8 wres s a b => some (.word (0x49 + 0x900 + a.val * 8192 + b.val * 262144 + s.val * 16777216 + (wvBit wres * 16 + wvReg wres) * 134217728))
  | .cadd wres s a b => some (.word (0x49 + 0xa00 + 0x1000 + a.val * 8192 + b.val * 262144 + s.val * 16777216 + (wvBit wres * 16 + wvReg wres) * 134217728))
  | .xclr wres s a => some (.word (0x49 + 0xb00 + a.val * 8192 + s.val * 16777216 + (wvBit wres * 16 + wvReg wres) * 134217728))
  | .crd la scope a d => some (.word (0x4b + d.val * 256 + a.val * 8192 + scope.code * 33554432 + la.toNat * 268435456))
  | .xrd la scope a d => some (.word (0x4b + d.val * 256 + a.val * 8192 + 0x800000 + scope.code * 33554432 + la.toNat * 268435456))
  | .cwait scope a b => some (.word (0x4b + a.val * 8192 + b.val * 262144 + 0x1000000 + scope.code * 33554432))
  | .wmerge d a b => some (.word (0x4d + d.val * 256 + a.val * 8192 + b.val * 262144))
  | .wnull d => some (.word (0x4d + d.val * 256 + 0x8000000))
  | .wstamp scope d => some (.word (0x4d + d.val * 256 + scope.code * 16777216 + 0x10000000))
  | .wchk scope a => some (.word (0x4d + a.val * 8192 + scope.code * 16777216 + 0x18000000))
  | .wtest scope d a => some (.word (0x4d + d.val * 256 + a.val * 8192 + scope.code * 16777216 + 0x20000000))
  | .wget hi d a => some (.word (0x4d + d.val * 256 + a.val * 8192 + hi.toNat * 8388608 + 0x28000000))
  | .wput d a b => some (.word (0x4d + d.val * 256 + a.val * 8192 + b.val * 262144 + 0x30000000))
  | .drain mask wres => some (.word (0x4f + wvBit wres * 8388608 + wvReg wres * 256 + mask.toNat * 16777216))
  | .retAadd la s wide a b d => some (.word (0x51 + d.val * 256 + a.val * 8192 + b.val * 262144 + (2 + wide.toNat) * 8388608 + s.val * 33554432 + la.toNat * 268435456))
  | .retAand la s wide a b d => some (.word (0x53 + d.val * 256 + a.val * 8192 + b.val * 262144 + (2 + wide.toNat) * 8388608 + s.val * 33554432 + la.toNat * 268435456))
  | .retAor la s wide a b d => some (.word (0x55 + d.val * 256 + a.val * 8192 + b.val * 262144 + (2 + wide.toNat) * 8388608 + s.val * 33554432 + la.toNat * 268435456))
  | .retAxor la s wide a b d => some (.word (0x57 + d.val * 256 + a.val * 8192 + b.val * 262144 + (2 + wide.toNat) * 8388608 + s.val * 33554432 + la.toNat * 268435456))
  | .retAmin la s wide a b d => some (.word (0x59 + d.val * 256 + a.val * 8192 + b.val * 262144 + (2 + wide.toNat) * 8388608 + s.val * 33554432 + la.toNat * 268435456))
  | .retAmax la s wide a b d => some (.word (0x5b + d.val * 256 + a.val * 8192 + b.val * 262144 + (2 + wide.toNat) * 8388608 + s.val * 33554432 + la.toNat * 268435456))
  | .aswap la s wide a b d => some (.word (0x5d + d.val * 256 + a.val * 8192 + b.val * 262144 + (2 + wide.toNat) * 8388608 + s.val * 33554432 + la.toNat * 268435456))
  | .acas la s wide a b d => some (.word (0x5f + d.val * 256 + a.val * 8192 + b.val * 262144 + (2 + wide.toNat) * 8388608 + s.val * 33554432 + la.toNat * 268435456))
  | .retAfadd la s a b d => some (.word (0x61 + d.val * 256 + a.val * 8192 + b.val * 262144 + 0x1000000 + s.val * 33554432 + la.toNat * 268435456))
  | .tshape d a => some (.word (0x71 + d.val * 256 + a.val * 8192))
  | .tld d a disp b => some (.word (0x73 + d.val * 256 + a.val * 8192 + b.val * 262144 + disp.toNat * 134217728))
  | .tst d a disp b => some (.word (0x75 + d.val * 256 + a.val * 8192 + b.val * 262144 + disp.toNat * 134217728))
  | .mma zf acc a b vp gs => some (.word (0x77 + acc.val * 256 + zf.toNat * 2048 + a.val * 8192 + b.val * 262144 + vp.val * 8388608 + gs.val * 134217728))
  | .mmar zf acc a b vp gs => some (.word (0x79 + acc.val * 256 + zf.toNat * 2048 + a.val * 8192 + b.val * 262144 + vp.val * 8388608 + gs.val * 134217728))
  | .mepi scope s act wv b a rel out acc => some (.word (0x7b + acc.val * 256 + out.code * 1024 + rel.toNat * 4096 + a.val * 8192 + b.val * 262144 + wv.toNat * 8388608 + act.code * 16777216 + s.val * 67108864 + scope.code * 536870912))
  | .tzero d => some (.word (0x7d + d.val * 256))
  | .mrel d => some (.word (0x7d + d.val * 256 + 0x8000000))
  | .macz d => some (.word (0x7d + d.val * 256 + 0x10000000))
  | .mrd la d a b => some (.word (0x7d + d.val * 256 + a.val * 8192 + b.val * 262144 + la.toNat * 8388608 + 0x18000000))
  | .vld mask width disp a d => some (.word (0x81 + d.val * 256 + a.val * 8192 + disp.toNat * 262144 + width.code * 134217728 + maskCode mask * 536870912))
  | .vst mask width s disp a d => some (.word (0x83 + d.val * 256 + a.val * 8192 + disp.toNat * 262144 + s.val * 16777216 + width.code * 134217728 + maskCode mask * 536870912))
  | .vlds mask width b a d => some (.word (0x85 + d.val * 256 + a.val * 8192 + b.val * 262144 + width.code * 134217728 + maskCode mask * 536870912))
  | .vsts mask width s b a d => some (.word (0x87 + d.val * 256 + a.val * 8192 + b.val * 262144 + s.val * 16777216 + width.code * 134217728 + maskCode mask * 536870912))
  | .vfadd mask d a b => some (.word (0x89 + d.val * 256 + a.val * 8192 + b.val * 262144 + maskCode mask * 16777216))
  | .vfsub mask d a b => some (.word (0x89 + d.val * 256 + a.val * 8192 + b.val * 262144 + maskCode mask * 16777216 + 0x8000000))
  | .vfmul mask d a b => some (.word (0x89 + d.val * 256 + a.val * 8192 + b.val * 262144 + maskCode mask * 16777216 + 0x10000000))
  | .vfma mask d a b => some (.word (0x89 + d.val * 256 + a.val * 8192 + b.val * 262144 + maskCode mask * 16777216 + 0x18000000))
  | .vfms mask d a b => some (.word (0x89 + d.val * 256 + a.val * 8192 + b.val * 262144 + maskCode mask * 16777216 + 0x20000000))
  | .vfnma mask d a b => some (.word (0x89 + d.val * 256 + a.val * 8192 + b.val * 262144 + maskCode mask * 16777216 + 0x28000000))
  | .vfmin mask d a b => some (.word (0x89 + d.val * 256 + a.val * 8192 + b.val * 262144 + maskCode mask * 16777216 + 0x30000000))
  | .vfmax mask d a b => some (.word (0x89 + d.val * 256 + a.val * 8192 + b.val * 262144 + maskCode mask * 16777216 + 0x38000000))
  | .vfabs mask d a => some (.word (0x89 + d.val * 256 + a.val * 8192 + maskCode mask * 16777216 + 0x40000000))
  | .vfneg mask d a => some (.word (0x89 + d.val * 256 + a.val * 8192 + maskCode mask * 16777216 + 0x48000000))
  | .vadd mask d a b => some (.word (0x8b + d.val * 256 + a.val * 8192 + b.val * 262144 + maskCode mask * 16777216))
  | .vsub mask d a b => some (.word (0x8b + d.val * 256 + a.val * 8192 + b.val * 262144 + maskCode mask * 16777216 + 0x8000000))
  | .vmul mask d a b => some (.word (0x8b + d.val * 256 + a.val * 8192 + b.val * 262144 + maskCode mask * 16777216 + 0x10000000))
  | .vand mask d a b => some (.word (0x8b + d.val * 256 + a.val * 8192 + b.val * 262144 + maskCode mask * 16777216 + 0x18000000))
  | .vor mask d a b => some (.word (0x8b + d.val * 256 + a.val * 8192 + b.val * 262144 + maskCode mask * 16777216 + 0x20000000))
  | .vxor mask d a b => some (.word (0x8b + d.val * 256 + a.val * 8192 + b.val * 262144 + maskCode mask * 16777216 + 0x28000000))
  | .vsll mask d a b => some (.word (0x8b + d.val * 256 + a.val * 8192 + b.val * 262144 + maskCode mask * 16777216 + 0x30000000))
  | .vsrl mask d a b => some (.word (0x8b + d.val * 256 + a.val * 8192 + b.val * 262144 + maskCode mask * 16777216 + 0x38000000))
  | .vsra mask d a b => some (.word (0x8b + d.val * 256 + a.val * 8192 + b.val * 262144 + maskCode mask * 16777216 + 0x40000000))
  | .vmin mask d a b => some (.word (0x8b + d.val * 256 + a.val * 8192 + b.val * 262144 + maskCode mask * 16777216 + 0x48000000))
  | .vmax mask d a b => some (.word (0x8b + d.val * 256 + a.val * 8192 + b.val * 262144 + maskCode mask * 16777216 + 0x50000000))
  | .vcmp c mask d a b => some (.word (0x8d + d.val * 256 + a.val * 8192 + b.val * 262144 + maskCode mask * 16777216 + c.code * 134217728))
  | .vsel k d a b => some (.word (0x8f + d.val * 256 + a.val * 8192 + b.val * 262144 + k.val * 16777216 + 0x4000000))
  | .vcvt c mask rm d a => some (.word (0x91 + d.val * 256 + a.val * 8192 + rm.code * 262144 + maskCode mask * 16777216 + c.code * 134217728))
  | .vrfadd mask d a => some (.word (0x93 + d.val * 256 + a.val * 8192 + maskCode mask * 16777216))
  | .vrfmax mask d a => some (.word (0x93 + d.val * 256 + a.val * 8192 + maskCode mask * 16777216 + 0x8000000))
  | .vrfmin mask d a => some (.word (0x93 + d.val * 256 + a.val * 8192 + maskCode mask * 16777216 + 0x10000000))
  | .vradd mask d a => some (.word (0x93 + d.val * 256 + a.val * 8192 + maskCode mask * 16777216 + 0x18000000))
  | .vrmax mask d a => some (.word (0x93 + d.val * 256 + a.val * 8192 + maskCode mask * 16777216 + 0x20000000))
  | .vrmin mask d a => some (.word (0x93 + d.val * 256 + a.val * 8192 + maskCode mask * 16777216 + 0x28000000))
  | .vrcp mask d a => some (.word (0x95 + d.val * 256 + a.val * 8192 + maskCode mask * 16777216))
  | .vrsqrt mask d a => some (.word (0x95 + d.val * 256 + a.val * 8192 + maskCode mask * 16777216 + 0x8000000))
  | .vsqrt mask d a => some (.word (0x95 + d.val * 256 + a.val * 8192 + maskCode mask * 16777216 + 0x10000000))
  | .vexp2 mask d a => some (.word (0x95 + d.val * 256 + a.val * 8192 + maskCode mask * 16777216 + 0x18000000))
  | .vlog2 mask d a => some (.word (0x95 + d.val * 256 + a.val * 8192 + maskCode mask * 16777216 + 0x20000000))
  | .vexp mask d a => some (.word (0x95 + d.val * 256 + a.val * 8192 + maskCode mask * 16777216 + 0x28000000))
  | .vtanh mask d a => some (.word (0x95 + d.val * 256 + a.val * 8192 + maskCode mask * 16777216 + 0x30000000))
  | .vperm mask d a b => some (.word (0x97 + d.val * 256 + a.val * 8192 + b.val * 262144 + maskCode mask * 16777216))
  | .vrot mask d a b => some (.word (0x97 + d.val * 256 + a.val * 8192 + b.val * 262144 + maskCode mask * 16777216 + 0x8000000))
  | .vsplat mask d a => some (.word (0x97 + d.val * 256 + a.val * 8192 + maskCode mask * 16777216 + 0x10000000))
  | .vins mask d a b => some (.word (0x97 + d.val * 256 + a.val * 8192 + b.val * 262144 + maskCode mask * 16777216 + 0x18000000))
  | .vrev mask d a => some (.word (0x97 + d.val * 256 + a.val * 8192 + maskCode mask * 16777216 + 0x20000000))
  | .kand d a b => some (.word (0x99 + d.val * 256 + a.val * 8192 + b.val * 262144))
  | .kor d a b => some (.word (0x99 + d.val * 256 + a.val * 8192 + b.val * 262144 + 0x8000000))
  | .kxor d a b => some (.word (0x99 + d.val * 256 + a.val * 8192 + b.val * 262144 + 0x10000000))
  | .knot d a => some (.word (0x99 + d.val * 256 + a.val * 8192 + 0x18000000))
  | .kmov d a => some (.word (0x99 + d.val * 256 + a.val * 8192 + 0x20000000))
  | .kset d => some (.word (0x99 + d.val * 256 + 0x28000000))
  | .kclr d => some (.word (0x99 + d.val * 256 + 0x30000000))
  | .kfromg d a => some (.word (0x99 + d.val * 256 + a.val * 8192 + 0x38000000))
  | .vscl mask d a b => some (.word (0x9b + d.val * 256 + a.val * 8192 + b.val * 262144 + maskCode mask * 16777216))
  | .vscls mask d a b => some (.word (0x9b + d.val * 256 + a.val * 8192 + b.val * 262144 + maskCode mask * 16777216 + 0x8000000))
  | .vmovg la d a lane => some (.word (0x9d + d.val * 256 + a.val * 8192 + lane.val * 262144 + la.toNat * 268435456))
  | .kmovg la d a => some (.word (0x9d + d.val * 256 + a.val * 8192 + 0x8000000 + la.toNat * 268435456))
  | .cpy s after d a b => some (.word (0xa1 + d.val * 256 + a.val * 8192 + b.val * 262144 + (wvBit after * 16 + wvReg after) * 16777216 + s.val * 536870912))
  | .cpys s after d a b => some (.word (0xa3 + d.val * 256 + a.val * 8192 + b.val * 262144 + (wvBit after * 16 + wvReg after) * 16777216 + s.val * 536870912))
  | .gath s after d a b => some (.word (0xa5 + d.val * 256 + a.val * 8192 + b.val * 262144 + (wvBit after * 16 + wvReg after) * 16777216 + s.val * 536870912))
  | .fill s after d a b => some (.word (0xa7 + d.val * 256 + a.val * 8192 + b.val * 262144 + (wvBit after * 16 + wvReg after) * 16777216 + s.val * 536870912))
  | .lay s after d a b => some (.word (0xa9 + d.val * 256 + a.val * 8192 + b.val * 262144 + (wvBit after * 16 + wvReg after) * 16777216 + s.val * 536870912))
  | .deal s after d a b => some (.word (0xab + d.val * 256 + a.val * 8192 + b.val * 262144 + (wvBit after * 16 + wvReg after) * 16777216 + s.val * 536870912))
  | .tidset t a => some (.word (0xad + a.val * 8192 + t.val * 262144))
  | .cpwait a b => some (.word (0xaf + a.val * 8192 + b.val * 262144))
  | .pub conf d a => some (.word (0xb1 + d.val * 256 + a.val * 8192 + conf.toNat * 8388608))
  | .walk d a b => some (.word (0xb3 + d.val * 256 + a.val * 8192 + b.val * 262144))
  | .openNode read write shadow follow pinned d a => some (.word (0xb3 + d.val * 256 + a.val * 8192 + read.toNat * 8388608 + write.toNat * 16777216 + shadow.toNat * 33554432 + follow.toNat * 67108864 + pinned.toNat * 134217728 + 0x20000000))
  | .bind d a b => some (.word (0xb3 + d.val * 256 + a.val * 8192 + b.val * 262144 + 0x40000000))
  | .unbind a b => some (.word (0xb3 + a.val * 8192 + b.val * 262144 + 0x60000000))
  | .close a => some (.word (0xb3 + a.val * 8192 + 0x80000000))
  | .stat d a => some (.word (0xb3 + d.val * 256 + a.val * 8192 + 0xa0000000))
  | .mkobj kind d a b => some (.word (0xb3 + d.val * 256 + a.val * 8192 + b.val * 262144 + kind.code * 8388608 + 0xc0000000))
  | .revoke d a => some (.word (0xb3 + d.val * 256 + a.val * 8192 + 0xe0000000))
  | .send ch n a d => some (.word (0xc1 + d.val * 256 + a.val * 8192 + n.toNat * 16777216 + ch.val * 268435456))
  | .sendr ch n a d => some (.word (0xc3 + d.val * 256 + a.val * 8192 + n.toNat * 16777216 + ch.val * 268435456))
  | .sendm ch n a d => some (.word (0xc5 + d.val * 256 + a.val * 8192 + n.toNat * 16777216 + ch.val * 268435456))
  | .recv ch d => some (.word (0xc7 + d.val * 256 + ch.val * 268435456))
  | .peek ch d => some (.word (0xc9 + d.val * 256 + ch.val * 268435456))
  | .chb ch v a => some (.word (0xcb + a.val * 8192 + v.toNat * 134217728 + ch.val * 268435456))
  | .chhold ch v a => some (.word (0xcd + a.val * 8192 + v.toNat * 134217728 + ch.val * 268435456))
  | .chready ch v a => some (.word (0xcf + a.val * 8192 + v.toNat * 134217728 + ch.val * 268435456))
  | .spawn d a b => some (.word (0xd1 + d.val * 256 + a.val * 8192 + b.val * 262144))
  | .join d a b => some (.word (0xd1 + d.val * 256 + a.val * 8192 + b.val * 262144 + 0x8000000))
  | .leave a => some (.word (0xd1 + a.val * 8192 + 0x10000000))
  | .gbar a => some (.word (0xd1 + a.val * 8192 + 0x18000000))
  | .gidx d a => some (.word (0xd1 + d.val * 256 + a.val * 8192 + 0x20000000))
  | .migr a => some (.word (0xd1 + a.val * 8192 + 0x28000000))
  | .hnop => some (.compact (0x2))
  | .repCount step cnt => some (.compact (0x4 + cnt.toNat * 64 + step.toNat * 2048))
  | .repRegister step x => some (.compact (0x6 + x.val * 64 + step.toNat * 2048))
  | .hmov x y => some (.compact (0x8 + x.val * 64 + y.val * 2048))
  | .hadd x y => some (.compact (0xa + x.val * 64 + y.val * 2048))
  | .hsub x y => some (.compact (0xc + x.val * 64 + y.val * 2048))
  | .hand x y => some (.compact (0xe + x.val * 64 + y.val * 2048))
  | .hor x y => some (.compact (0x10 + x.val * 64 + y.val * 2048))
  | .hxor x y => some (.compact (0x12 + x.val * 64 + y.val * 2048))
  | .hli x imm => some (.compact (0x14 + x.val * 64 + imm.toNat * 2048))
  | .haddi x imm => some (.compact (0x16 + x.val * 64 + imm.toNat * 2048))
  | .hslli x imm => some (.compact (0x18 + x.val * 64 + imm.toNat * 2048))
  | .hsrli x imm => some (.compact (0x1a + x.val * 64 + imm.toNat * 2048))
  | .hsrai x imm => some (.compact (0x1c + x.val * 64 + imm.toNat * 2048))
  | .hbeqz x off => some (.compact (0x1e + x.val * 64 + off.toNat * 2048))
  | .hbnez x off => some (.compact (0x20 + x.val * 64 + off.toNat * 2048))
  | .hj off => some (.compact (0x22 + off.toNat * 64))
  | .hjr x => some (.compact (0x24 + x.val * 64))
  | .hwnull x => some (.compact (0x26 + x.val * 64))
  | .longLatencyResult _ => none
  | .earlyLoadSend _ => none
  | .loadPerformed _ => none
  | .storeCommit _ => none
  | .storeSettle _ => none
  | .streamTimeout _ => none
  | .receiveMarkRelease _ => none
  | .datumSample _ _ => none
  | .datumPublish _ => none
  | .datumBeacon => none
  | .beaconReceive _ _ _ _ => none
  | .tileLanding _ => none
  | .matrixEngineExecute _ => none
  | .vectorEngineExecute _ => none
  | .engineCommandBegin _ => none
  | .layoutSteal _ => none
  | .engineRefusalReturn _ => none
  | .transferComplete _ => none
  | .messagePlace _ => none
  | .waitingMessageEnter _ => none
  | .channelOperationApply _ => none
  | .activationStart _ => none
  | .spawnStart _ => none
  | .stageDelivery _ _ => none
  | .stageRebind _ => none
  | .stageSteal _ => none
  | .shootdownArrival _ _ => none
  | .revokeComplete _ => none
  | .pubComplete _ => none
  | .pageWalk _ => none
  | .firmwareTrapService _ _ => none
  | .featureAbsentMove _ _ => none
  | .preemptionRequest _ _ => none
  | .haltReported _ => none
  | .contextSave _ => none
  | .contextRestore _ _ => none
  | .timeSliceExpiry => none
  | .kernelComplete _ => none
  | .kernelKill _ _ => none
  | .kernelConfirmed _ => none
  | .rankEvent => none
  | .pifoDispatch => none
  | .seqRecheck _ => none
  | .write _ => none
  | .signal _ => none
  | .wait _ => none
  | .launch _ _ => none
  | .prepare _ => none
  | .copy _ => none
  | .layout _ => none
  | .tree _ => none
  | .readback _ => none
  | .queueUpdateCommand _ => none
  | .rankProgramReload _ => none
  | .tokenAccrual _ => none
  | .firmwareWatchdog _ => none
  | .dispatchSelfCheck _ _ => none
  | .scanCommand _ => none
  | .patternRunComplete _ => none
  | .scanAbort _ _ _ => none
  | .faultDoorbellService => none
  | .featUpdate _ => none
  | .uncorrectableError _ _ => none
  | .activationRollback _ => none
  | .codeBlockRefetch _ _ => none
  | .laneFailure _ _ => none
  | .linkTrainingComplete _ _ => none
  | .linkRetrainRequest _ => none
  | .flitReceive _ _ _ => none
  | .flitReplay _ _ => none
  | .bankRetire _ _ => none
  | .packetLifetimeExpiry _ => none
  | .messageResend _ => none
  | .gatewayAcknowledge _ => none
  | .routeEntryUpdate _ _ => none
  | .rmaWrite _ _ _ _ _ _ => none
  | .uetAtomic _ _ _ _ _ _ _ _ _ _ => none
  | .rmaRead _ => none
  | .jobTableUpdate _ _ => none
  | .hostWriteAcknowledge _ => none
  | .uetRetransmit _ => none
  | .ewetalWalk _ _ => none
  | .ewetalOpen _ _ => none
  | .ewetalBind _ _ => none
  | .ewetalUnbind _ _ => none
  | .ewetalClose _ _ => none
  | .ewetalStat _ _ => none
  | .ewetalMkobj _ _ => none
  | .ewetalRevoke _ _ => none
  | .ewetalRead _ _ => none
  | .ewetalPublish _ _ => none
  | .ewetalPublishOnConfirmation _ _ => none
  | .pointsUpdate _ => none
  | .halt _ => none
  | .continueTask _ => none
  | .stepTask _ => none
  | .haltAll _ => none
  | .continueAll _ => none
  | .debugStop _ => none
  | .linkSnapshot => none
  | .vfEnable _ => none
  | .vfDisable _ => none
  | .attestationRequest => none
  | .thermalThrottle _ => none
  | .powerOnReset => none
  | .bringUpStep _ => none
  | .illegalEncoding _ => none
  | .overlayMiss _ => none
  | .matrixInstructionComplete _ => none
  | .shadowPageCopyComplete _ => none
  | .treeOperationComplete _ => none
  | .migrationMoveComplete _ => none
  | .overlayWindowLanded _ => none
  | .thermalThrottleEnd _ => none

end Sys2Proof
end

