-- ==== Sys2Proof/Machine/Fetch.lean ====
section
/-! DEFINITION. Fetching through the code window (R223) and reading an instruction with its follower (R31, R41). -/

namespace Sys2Proof.Machine

/-- The image offset at the start of the window a slot is fetched with (R52, R223). -/
def Core.base (c : Core) (sel : SlotSel) : Nat := (c.slot sel).fetchbase.toNat

/-- The SRAM offset image offset pc of a slot is fetched from; none outside the window: an overlay miss (R223). -/
def fetchOfs (c : Core) (sel : SlotSel) (pc : Word) : Option Nat :=
  if c.base sel ≤ pc.toNat ∧ pc.toNat - c.base sel + 2 ≤ c.exb.toNat then some (pc.toNat - c.base sel) else none

/-- The halfword at an image offset. -/
def fetchHalf (c : Core) (sel : SlotSel) (pc : Word) : Option Nat :=
  (fetchOfs c sel pc).map fun o => half (memRead c.sram o) (memRead c.sram (o + 1))

/-- What fetching an instruction finds (R266 items 3 and 4). -/
inductive Fetched where
  /-- an overlay miss at this image offset -/
  | miss (ofs : Word)
  /-- no instruction: the word, or the halfword (R47) -/
  | illegal (w : Word32)
  | instr (i : Instr) (w : Word32) (len : Nat)
  deriving DecidableEq, Repr

/-- Fetches and decodes the instruction at an image offset (R31, R47). -/
def fetch (c : Core) (sel : SlotSel) (pc : Word) : Fetched :=
  match fetchOfs c sel pc with
  | none => .miss pc
  | some o =>
    let b0 := memRead c.sram o
    let b1 := memRead c.sram (o + 1)
    if lengthOf (half b0 b1) = 2 then
      match decode [b0, b1] with
      | .ok (i, n) => .instr i (BitVec.ofNat 32 (half b0 b1)) n
      | .error _ => .illegal (BitVec.ofNat 32 (half b0 b1))
    else
      match fetchOfs c sel (pc + 2) with
      | none => .miss (pc + 2)
      | some p =>
        let b2 := memRead c.sram p
        let b3 := memRead c.sram (p + 1)
        match decode [b0, b1, b2, b3] with
        | .ok (i, n) => .instr i (BitVec.ofNat 32 (half b0 b1 + 65536 * half b2 b3)) n
        | .error _ => .illegal (BitVec.ofNat 32 (half b0 b1 + 65536 * half b2 b3))

/-! ### Returning to a program (R66, R273) -/

/-- Whether a halfword is a REP (R40). -/
def isRep (h : Nat) : Bool :=
  match decode (leBytes 2 h) with
  | .ok (.repCount _ _, _) => true
  | .ok (.repRegister _ _, _) => true
  | _ => false

/-- Whether the word at an image offset can be a REP: one whose fetch misses is not known yet (R66; log entry 68). -/
def mayBeRep (c : Core) (sel : SlotSel) (pc : Word) : Bool :=
  match fetchHalf c sel pc with
  | some h => isRep h
  | none => true

/-- A slot goes on: fetch is synchronised as by CSYNC (R274), and a pair resumes only at a REP word (R66, R273). -/
def Core.reenter (c : Core) (sel : SlotSel) (t : Slot) : Core :=
  let u := { t with fetchbase := c.codebase }
  { c.setSlot sel { u with resume := if mayBeRep (c.setSlot sel u) sel u.pc then u.resume else none } with fetchbase := c.codebase }

/-- Return from a trap by ERET (R273). -/
def returnFromTrap (s : State) : State := { s with core := s.core.reenter s.sel s.slot.resumed }

end Sys2Proof.Machine
end

