-- ==== Sys2Proof/Machine/Memory.lean ====
section
/-! DEFINITION. Loads, stores, atomics, counters, cells, witness operations and DRAIN (R151 to R161 of
spec/09_streams_witnesses_and_atomics.md, R132 and R135 of spec/08), and sending loads early (R182 of spec/11). -/

namespace Sys2Proof.Machine

/-! ### Loads -/

/-- A long-latency read: its checks, the check of its scope (0x1D), the watchpoint and its waits, then its result is left to be
performed (R151, R159, R161, R266). -/
def loadAccess (acc : AccOp) (ta : Word) (n : Nat) (kind : Reach → LoadKind) (sc : Scope) (scopeOk : Bool) (wit : Option Word128)
    (la : BitVec 4) (d : GReg) (s : State) : Out :=
  translated acc ta n s fun s r ps =>
    if !scopeOk then trap Cause.witnessScope s.word s
    else watching true false ta n s
      (if s.loadHeld (ps.flatMap fun p => p.lines n) s.queued then stall s
      else
        let l : Load := { places := ps, bytes := n, kind := kind r, scope := sc, wit := wit, ta := ta, read := [], got := none }
        retireOpen 4 d la (s.addResult d (.load l)))

/-- How an LD reads what it reached: an aperture combines its members (R162). -/
def ldKind : Reach → LoadKind
  | .aperture op _ _ => .combine op
  | _ => .plain

/-- LD gD, [gA + d] (R151); the value of a load sent early is taken at its own issue (R182). -/
def execLd (la : BitVec 4) (scope : Scope) (size : Size) (disp : BitVec 5) (a d : GReg) (s : State) : Out :=
  issue (.ld la scope size disp a d) s fun s =>
    addressed a (s.disp disp size.bytes) s fun ta =>
      let e := s.takeEarly ta
      match e.1 with
      | some v => watching true false ta size.bytes s (retireOpen 4 d la (e.2.addResult d v))
      | none => loadAccess .load ta size.bytes ldKind scope true none la d e.2

/-- LD gD, [gA] after wN (R151): waits for a pending wN before issue, checks its scope, and reads once the witness
lets it. -/
def execLdAfter (la : BitVec 4) (scope : Scope) (size : Size) (w : WReg) (a d : GReg) (s : State) : Out :=
  issue (.ldAfter la scope size w a d) s fun s =>
    readW w s fun x =>
      addressed a 0 s fun ta =>
        loadAccess .load ta size.bytes ldKind scope (s.scopeOk x scope s.core.id) (some x) la d s

/-- CRD gD, [gA] (R159). -/
def execCrd (la : BitVec 4) (scope : Scope) (a d : GReg) (s : State) : Out :=
  issue (.crd la scope a d) s fun s =>
    addressed a 0 s fun ta => loadAccess .crd ta 8 (fun _ => .crd) scope (decide (scope.code ≤ 4)) none la d s

/-- XRD gD, [gA] (R161). -/
def execXrd (la : BitVec 4) (scope : Scope) (a d : GReg) (s : State) : Out :=
  issue (.xrd la scope a d) s fun s =>
    addressed a 0 s fun ta => loadAccess .xrd ta 64 (fun _ => .xrd) scope (decide (scope.code ≤ 4)) none la d s

/-- CWAIT's read of its counter: once it has reached gB, what is left is the datum's wait for the line stamp read with it (R159). -/
def counterRead (scope : Scope) (ta : Word) (goal : Nat) (p : Place) (s : State) : Out :=
  if s.loadHeld [p.line] s.queued then stall s
  else if s.poisonedAt p then trap Cause.errorConsumed ta s
  else if s.natAt p 8 < goal then stall s
  else if s.datumPast s.core.id scope (s.lineStamp p) then retire 4 s
  else stall (s.mapSlot fun t => { t with cwait := some (s.lineStamp p) })

/-- CWAIT [gA], gB (R159): 0x06 in an activation; waits for the counter, then for the datum to pass the line stamp. -/
def execCwait (scope : Scope) (a b : GReg) (s : State) : Out :=
  issue (.cwait scope a b) s fun s =>
    if s.sel = .act then trap Cause.blockingInActivation s.word s
    else match s.slot.cwait with
      | some st => if s.datumPast s.core.id scope st then retire 4 s else stall s
      | none => addressed a 0 s fun ta =>
        translated .crd ta 8 s fun s _ ps =>
          if scope.code > 4 then trap Cause.witnessScope s.word s
          else watching true false ta 8 s (match ps with
            | [] => stall s
            | p :: _ => counterRead scope ta (s.g b).toNat p s)

/-! ### Stores -/

/-- The low n bytes of a word, every byte enabled. -/
def lowBytes (n : Nat) (x : Word) : List (Option Byte) := (natBytes n x.toNat).map some

/-- ST [gA + d], gD (R151). -/
def execSt (str : Stream) (size : Size) (disp : BitVec 5) (a d : GReg) (s : State) : Out :=
  issue (.st str size disp a d) s fun s =>
    addressed a (s.disp disp size.bytes) s fun ta =>
      storeAccess .store str (.bytes (lowBytes size.bytes (s.g d))) none ta s (retire 4)

/-- ST [gA], gD -> wN (R151). -/
def execStWitness (str : Stream) (size : Size) (w : WReg) (a d : GReg) (s : State) : Out :=
  issue (.stWitness str size w a d) s fun s =>
    addressed a 0 s fun ta =>
      storeAccess .store str (.bytes (lowBytes size.bytes (s.g d))) (some w) ta s (retire 4)

/-- A posted atomic at [gA] (R154). -/
def postedAccess (i : Instr) (acc : AccOp) (wres : Option WReg) (str : Stream) (a : GReg) (op : State → StoreOp) (s : State) : Out :=
  issue i s fun s => addressed a 0 s fun ta => storeAccess acc str (op s) wres ta s (retire 4)

/-- AADD, posted (R154). -/
def execPostedAadd (wres : Option WReg) (str : Stream) (wide : Bool) (a b : GReg) (s : State) : Out :=
  postedAccess (.postedAadd wres str wide a b) .posted wres str a (fun s => .atomic .add wide (s.g b) 0) s

/-- AAND, posted (R154). -/
def execPostedAand (wres : Option WReg) (str : Stream) (wide : Bool) (a b : GReg) (s : State) : Out :=
  postedAccess (.postedAand wres str wide a b) .posted wres str a (fun s => .atomic .and wide (s.g b) 0) s

/-- AOR, posted (R154). -/
def execPostedAor (wres : Option WReg) (str : Stream) (wide : Bool) (a b : GReg) (s : State) : Out :=
  postedAccess (.postedAor wres str wide a b) .posted wres str a (fun s => .atomic .or wide (s.g b) 0) s

/-- AXOR, posted (R154). -/
def execPostedAxor (wres : Option WReg) (str : Stream) (wide : Bool) (a b : GReg) (s : State) : Out :=
  postedAccess (.postedAxor wres str wide a b) .posted wres str a (fun s => .atomic .xor wide (s.g b) 0) s

/-- AMIN, posted (R154). -/
def execPostedAmin (wres : Option WReg) (str : Stream) (wide : Bool) (a b : GReg) (s : State) : Out :=
  postedAccess (.postedAmin wres str wide a b) .posted wres str a (fun s => .atomic .min wide (s.g b) 0) s

/-- AMAX, posted (R154). -/
def execPostedAmax (wres : Option WReg) (str : Stream) (wide : Bool) (a b : GReg) (s : State) : Out :=
  postedAccess (.postedAmax wres str wide a b) .posted wres str a (fun s => .atomic .max wide (s.g b) 0) s

/-- AFADD, posted, size w only (R154, R156). -/
def execPostedAfadd (wres : Option WReg) (str : Stream) (a b : GReg) (s : State) : Out :=
  postedAccess (.postedAfadd wres str a b) .posted wres str a (fun s => .fadd ((s.g b).truncate 32)) s

/-- XADD.fp32 (R160). -/
def execXaddFp32 (wres : Option WReg) (str : Stream) (a b : GReg) (s : State) : Out :=
  postedAccess (.xaddFp32 wres str a b) .xadd wres str a (fun s => .xadd ((s.g b).truncate 32)) s

/-- XADD.bf16 (R160): the value travels as FP32 bits, which hold it exactly. -/
def execXaddBf16 (wres : Option WReg) (str : Stream) (a b : GReg) (s : State) : Out :=
  postedAccess (.xaddBf16 wres str a b) .xadd wres str a (fun s => .xadd (roundFp32 (bf16 ((s.g b).truncate 32)))) s

/-- XADD.fp8 (R160): as for bf16. -/
def execXaddFp8 (wres : Option WReg) (str : Stream) (a b : GReg) (s : State) : Out :=
  postedAccess (.xaddFp8 wres str a b) .xadd wres str a (fun s => .xadd (roundFp32 (fp8 ((s.g b).truncate 32)))) s

/-- CADD (R158). -/
def execCadd (wres : Option WReg) (str : Stream) (a b : GReg) (s : State) : Out :=
  postedAccess (.cadd wres str a b) .cadd wres str a (fun s => .cadd (s.g b)) s

/-- XCLR (R160). -/
def execXclr (wres : Option WReg) (str : Stream) (a : GReg) (s : State) : Out :=
  postedAccess (.xclr wres str a) .xadd wres str a (fun _ => .xclr) s

/-! ### Returning atomics (R154) -/

/-- A returning atomic at [gA]: sent as a store; its old word comes back into gD. -/
def returningAccess (i : Instr) (la : BitVec 4) (str : Stream) (a d : GReg) (op : State → StoreOp) (s : State) : Out :=
  issue i s fun s =>
    addressed a 0 s fun ta =>
      located .returning true true ta (op s).length s fun s _ ps =>
        if !s.streamRoom str 1 || s.storeHeld str (ps.map Place.line) s.queued then stall s
        else retireOpen 4 d la ((s.send str (op s) ta (some (s.core.id, s.sel, d)) ps).addResult d .reply)

/-- AADD, returning (R154). -/
def execRetAadd (la : BitVec 4) (str : Stream) (wide : Bool) (a b d : GReg) (s : State) : Out :=
  returningAccess (.retAadd la str wide a b d) la str a d (fun s => .atomic .add wide (s.g b) 0) s

/-- AAND, returning (R154). -/
def execRetAand (la : BitVec 4) (str : Stream) (wide : Bool) (a b d : GReg) (s : State) : Out :=
  returningAccess (.retAand la str wide a b d) la str a d (fun s => .atomic .and wide (s.g b) 0) s

/-- AOR, returning (R154). -/
def execRetAor (la : BitVec 4) (str : Stream) (wide : Bool) (a b d : GReg) (s : State) : Out :=
  returningAccess (.retAor la str wide a b d) la str a d (fun s => .atomic .or wide (s.g b) 0) s

/-- AXOR, returning (R154). -/
def execRetAxor (la : BitVec 4) (str : Stream) (wide : Bool) (a b d : GReg) (s : State) : Out :=
  returningAccess (.retAxor la str wide a b d) la str a d (fun s => .atomic .xor wide (s.g b) 0) s

/-- AMIN, returning (R154). -/
def execRetAmin (la : BitVec 4) (str : Stream) (wide : Bool) (a b d : GReg) (s : State) : Out :=
  returningAccess (.retAmin la str wide a b d) la str a d (fun s => .atomic .min wide (s.g b) 0) s

/-- AMAX, returning (R154). -/
def execRetAmax (la : BitVec 4) (str : Stream) (wide : Bool) (a b d : GReg) (s : State) : Out :=
  returningAccess (.retAmax la str wide a b d) la str a d (fun s => .atomic .max wide (s.g b) 0) s

/-- ASWAP (R154). -/
def execAswap (la : BitVec 4) (str : Stream) (wide : Bool) (a b d : GReg) (s : State) : Out :=
  returningAccess (.aswap la str wide a b d) la str a d (fun s => .atomic .swap wide (s.g b) 0) s

/-- ACAS: compares with gD (R154). -/
def execAcas (la : BitVec 4) (str : Stream) (wide : Bool) (a b d : GReg) (s : State) : Out :=
  returningAccess (.acas la str wide a b d) la str a d (fun s => .atomic .cas wide (s.g b) (s.g d)) s

/-- AFADD, returning, size w only (R154). -/
def execRetAfadd (la : BitVec 4) (str : Stream) (a b d : GReg) (s : State) : Out :=
  returningAccess (.retAfadd la str a b d) la str a d (fun s => .fadd ((s.g b).truncate 32)) s

/-! ### Witness operations (R132, R135, R152) -/

/-- The stamp an operand of WMERGE enters with, once refinement 3 lets it (R152). -/
def State.mergeStamp (s : State) (x : Word128) : BitVec 48 :=
  if witKind x = 0 ∨ s.expired x ∨ witDevice x ≠ s.device.toNat then 0 else witStamp x

/-- Whether an operand of WMERGE enters as the witness itself: a store of this device that has not expired (R152). -/
def State.mergesAsStore (s : State) (x : Word128) : Bool :=
  decide (witKind x = 1) && !s.expired x && decide (witDevice x = s.device.toNat)

/-- The merged witness (R135): the store of the higher sequence where both name one source, origin, stream and home, else
a stamp; "larger" means after (R147). -/
def State.merged (s : State) (a b : Word128) : Word128 :=
  if s.mergesAsStore a && s.mergesAsStore b && decide (wbits a 48 24 = wbits b 48 24 ∧ wbits a 0 24 = wbits b 0 24) then
    if atOrBehind (BitVec.ofNat 24 (wbits b 24 24)) (BitVec.ofNat 24 (wbits a 24 24)) then a else b
  else
    stampWitness s.epoch
      (if stampAfter (s.mergeStamp b) (s.mergeStamp a) then s.mergeStamp b else s.mergeStamp a) s.device.toNat

/-- Refinement 3 of WMERGE: an operand of another device waits until satisfied at domain scope (R152). -/
def State.mergeReady (s : State) (x : Word128) (k : Out) : Out :=
  if witKind x = 0 ∨ s.expired x ∨ witDevice x = s.device.toNat then k
  else if s.triviallySatisfied x then k
  else if !s.scopeOk x .dom s.core.id then trap Cause.witnessScope s.word s
  else if s.satisfied x .dom s.core.id then k
  else stall s

/-- WMERGE wD, wA, wB (R135, R152). -/
def execWmerge (d a b : WReg) (s : State) : Out :=
  issue (.wmerge d a b) s fun s =>
    readW a s fun x => readW b s fun y =>
      s.mergeReady x (s.mergeReady y (retire 4 (s.setW d (.val (s.merged x y)))))

/-- WNULL wD (R152). -/
def execWnull (d : WReg) (s : State) : Out := issue (.wnull d) s fun s => retire 4 (s.setW d .null)

/-- WSTAMP wD (R152). -/
def execWstamp (scope : Scope) (d : WReg) (s : State) : Out :=
  issue (.wstamp scope d) s fun s =>
    if scope.code ≥ 6 then trap Cause.witnessScope s.word s else retire 4 (s.setW d (.val s.stampNow))

/-- WCHK wA (R152): waits until satisfied; in an activation 0x06 when it is not. -/
def execWchk (scope : Scope) (a : WReg) (s : State) : Out :=
  issue (.wchk scope a) s fun s =>
    readW a s fun x =>
      if s.triviallySatisfied x then retire 4 s
      else if !s.scopeOk x scope s.core.id then trap Cause.witnessScope s.word s
      else if s.satisfied x scope s.core.id then retire 4 s
      else if s.sel = .act then trap Cause.blockingInActivation s.word s
      else stall s

/-- WTEST gD, wA (R152): never waits; in an activation a register left pending by `pub.conf` traps 0x06 (R177). -/
def execWtest (scope : Scope) (d : GReg) (a : WReg) (s : State) : Out :=
  issue (.wtest scope d a) s fun s =>
    match s.w a with
    | .pending .confirmation _ =>
      if s.sel = .act then trap Cause.blockingInActivation s.word s else retire 4 (s.setG d 0)
    | .pending _ _ => retire 4 (s.setG d 0)
    | .val x =>
      if s.triviallySatisfied x then retire 4 (s.setG d 1)
      else if !s.scopeOk x scope s.core.id then trap Cause.witnessScope s.word s
      else retire 4 (s.setG d (if s.satisfied x scope s.core.id then 1 else 0))

/-- WGET.lo and WGET.hi gD, wA (R132). -/
def execWget (hi : Bool) (d : GReg) (a : WReg) (s : State) : Out :=
  issue (.wget hi d a) s fun s =>
    readW a s fun x => retire 4 (s.setG d (BitVec.ofNat 64 (wbits x (if hi then 64 else 0) 64)))

/-- WPUT wD, gA, gB (R132, R146): 0x1E with TVAL gA where a zero field of the kind is not zero. -/
def execWput (d : WReg) (a b : GReg) (s : State) : Out :=
  issue (.wput d a b) s fun s =>
    if witMalformed (s.g a ++ s.g b) then trap Cause.witnessMalformed (s.g a) s
    else retire 4 (s.setW d (.val (s.g a ++ s.g b)))

/-! ### DRAIN (R153) -/

/-- The stream a queued instruction stores on. -/
def engineStream : Instr → Option Stream
  | .tst _ _ _ _ => some 0
  | .mepi _ str _ _ _ _ _ _ _ => some str
  | .vst _ _ str _ _ _ => some str
  | .vsts _ _ str _ _ _ => some str
  | _ => none

/-- Whether every store of the slot on the streams of a mask has settled, those of retired instructions included. -/
def State.drained (s : State) (mask : BitVec 8) : Bool :=
  !(s.stores.any fun x => x.isOf s.core.id s.sel && mask.getLsbD x.stream.val) &&
    !(s.queued.any fun o => match engineStream o.instr with
      | some str => mask.getLsbD str.val
      | none => false)

/-- DRAIN MASK -> wD (R153): the witness carries the VT at which the DRAIN issued. -/
def execDrain (mask : BitVec 8) (wres : Option WReg) (s : State) : Out :=
  issue (.drain mask wres) s fun s =>
    let vt := s.slot.drainVt.getD s.vt
    if s.drained mask then retire 4 (s.setWOpt wres (stampWitness s.epoch vt s.device.toNat))
    else stall (s.mapSlot fun t => { t with drainVt := some vt })

end Sys2Proof.Machine
end

