-- ==== Sys2Proof/Machine/Matrix.lean ====
section
/-! DEFINITION. Tiles, accumulators, matrix instructions, the matrix engine and the rotation network (R9 to R16 of
spec/01_rectangle_product.md, R86 to R88 of spec/05, R91 to R106 of spec/06_matrix_instructions.md). -/

namespace Sys2Proof.Machine

/-! ### Shapes and descriptors (R10, R11, R91) -/

/-- COLS of a tile shape. -/
def shCols (x : Word) : Nat := bits x 16 8
/-- ROWS of a tile shape. -/
def shRows (x : Word) : Nat := bits x 8 8
/-- TYPE of a tile shape: 0 FP8, 1 INT8, 2 BF16, 3 FP32. -/
def shType (x : Word) : Nat := bits x 5 3
/-- BASE of a tile shape. -/
def shBase (x : Word) : Nat := bits x 0 5

/-- Bytes of an element of a tile type. -/
def elemSize (t : Nat) : Nat :=
  match t with
  | 0 => 1
  | 1 => 1
  | 2 => 2
  | _ => 4

/-- Bytes of a tile. -/
def shBytes (x : Word) : Nat := shRows x * shCols x * elemSize (shType x)

/-- Whether a tile has rows and columns. -/
def shNonempty (x : Word) : Bool := decide (shRows x ≠ 0 ∧ shCols x ≠ 0)

/-- ROWS of an accumulator descriptor. -/
def accRows (x : Word) : Nat := bits x 0 8
/-- COLS of an accumulator descriptor. -/
def accCols (x : Word) : Nat := bits x 8 8
/-- First byte of a region within the accumulator area. -/
def accOfs (x : Word) : Nat := bits x 16 16 * 64
/-- Bytes of a region. -/
def accBytes (x : Word) : Nat := accRows x * accCols x * 4

/-- Tile granules of PARTW (R218). -/
def tileGranules (partw : Word) : Nat := bits partw 0 6
/-- Accumulator granules of PARTW (R218). -/
def accGranules (partw : Word) : Nat := bits partw 8 6

/-- SRAM offset of the accumulator area (R218). -/
def Core.accBase (c : Core) : Nat := c.scratch
/-- SRAM offset of the tile area (R218). -/
def Core.tileBase (c : Core) : Nat := c.scratch + accGranules c.partw * 16384

/-- SRAM offset of a tile of a shape (R91). -/
def Core.tileOfs (c : Core) (sh : Word) : Nat := c.tileBase + shBase sh * 16384

/-- Why a value is no shape for a register (R10): 0x17 or 0x18. -/
def shapeFault (partw : Word) (shapes : Vector Word 8) (d : MReg) (x : Word) : Option Cause :=
  if bits x 24 40 ≠ 0 ∨ shType x > 3 ∨ shRows x > 128 ∨ shCols x > 128 ∨ shBytes x > 16384 then some Cause.tileShape
  else if !shNonempty x then none
  else if shBase x ≥ tileGranules partw then some Cause.tileOverlap
  else if (List.finRange 8).any fun i => decide (i ≠ d) && shNonempty shapes[i] && decide (shBase shapes[i] = shBase x) then
    some Cause.tileOverlap
  else none

/-- Why a value is no descriptor for a register (R11): 0x19. -/
def descriptorFault (partw : Word) (descs : Vector Word 4) (d : AReg) (x : Word) : Option Cause :=
  if bits x 32 32 ≠ 0 ∨ accRows x > 128 ∨ accCols x > 128 then some Cause.accRegion
  else if accBytes x = 0 then none
  else if accOfs x + accBytes x > accGranules partw * 16384 then some Cause.accRegion
  else if (List.finRange 4).any fun i => decide (i ≠ d) && decide (accBytes descs[i] ≠ 0) &&
      decide (accOfs x < accOfs descs[i] + accBytes descs[i] ∧ accOfs descs[i] < accOfs x + accBytes x) then some Cause.accRegion
  else none

/-! ### Rotation: who sends to whom (R9, R13, R14) -/

/-- VALID of RECT. -/
def rectValid (r : Word) : Bool := r.getLsbD 16
/-- Width, from RECT. -/
def rectW (r : Word) : Nat := 2 ^ bits r 8 4
/-- Height, from RECT. -/
def rectH (r : Word) : Nat := 2 ^ bits r 12 4
/-- Column of the member. -/
def rectCol (r : Word) : Nat := bits r 0 4
/-- Row of the member. -/
def rectRow (r : Word) : Nat := bits r 4 4

/-- The core at row i, column j of the rectangle of a member at `core`. -/
def rectMember (core : Nat) (r : Word) (i j : Nat) : Nat := core - (rectRow r * 32 + rectCol r) + i * 32 + j

/-- West neighbour, which receives A. -/
def westOf (core : Nat) (r : Word) : Nat := rectMember core r (rectRow r) ((rectCol r + rectW r - 1) % rectW r)
/-- North neighbour, which receives B. -/
def northOf (core : Nat) (r : Word) : Nat := rectMember core r ((rectRow r + rectH r - 1) % rectH r) (rectCol r)
/-- East neighbour, which sends A. -/
def eastOf (core : Nat) (r : Word) : Nat := rectMember core r (rectRow r) ((rectCol r + 1) % rectW r)
/-- South neighbour, which sends B. -/
def southOf (core : Nat) (r : Word) : Nat := rectMember core r ((rectRow r + 1) % rectH r) (rectCol r)

/-- The rectangle of which a core's resident task is a member: a saved task keeps its own (R105, R284). -/
def State.rectOf (s : State) (core : Nat) : Option Group :=
  s.groups.find? fun g => g.rect.isSome && g.members.any fun m => decide (m.2.2.1 = (s.coreOf core).task.gtid)

/-- The rectangle of a kernel with a member at a core, resident there or saved from it. -/
def State.rectAt (s : State) (kernel core : Nat) : Option Group :=
  s.groups.find? fun g => decide (g.kernel = kernel) && g.rect.isSome && g.members.any fun m => decide (m.1 = core)

/-- Whether an instruction naming tile n has to wait for a landing (R14): one is due, or a queued MMAR will make one due. A
sender's or the receiver's end or LEAVE cancels one that is due. -/
def State.landingDue (s : State) (n : MReg) : Bool :=
  (s.core.net[n].due).isSome ||
    s.core.matrix.any fun o => match o.instr with
      | .mmar _ _ a b _ _ => decide (o.done = 0 ∧ o.buf = [] ∧ (a = n ∨ b = n))
      | _ => false

/-- Clears the refused mark of a register. -/
def State.clearRefused (s : State) (n : MReg) : State :=
  { s with core := { s.core with net := s.core.net.set n { s.core.net[n] with refused := false } } }

/-- Every tile an instruction names is free of landings and of refusals (R14, R100). -/
def tilesReady : List MReg → State → (State → Out) → Out
  | [], s, k => k s
  | n :: l, s, k =>
    if s.landingDue n then stall s
    else if s.core.net[n].refused then trapWith (fun s => s.clearRefused n) Cause.tileShape (BitVec.ofNat 64 (256 + n.val)) s
    else tilesReady l s k

/-- Whether a queued instruction will empty the descriptor of a region (R15, R53). -/
def releases (i : Instr) (a : AReg) : Bool :=
  match i with
  | .mrel d => decide (d = a)
  | .mepi _ _ _ _ _ _ rel _ acc => rel && decide (acc = a)
  | _ => false

/-- Whether ACCD of a region is still to be emptied by an earlier instruction. -/
def State.releasePending (s : State) (a : AReg) : Bool := s.core.matrix.any fun o => releases o.instr a

/-! ### Retirement (R93, R94) -/

/-- The preamble of a matrix instruction: 0x05 in an activation beside a resident task (R94), then its tiles. -/
def matrixIssue (i : Instr) (tiles : List MReg) (s : State) (k : State → Out) : Out :=
  issue i s fun s =>
    if s.actBesideTask then trap Cause.engineInActivation s.word s else tilesReady tiles s k

/-- A fresh instruction for a queue. -/
def State.op (s : State) (i : Instr) (xs : List Word) (lanes : List Word32) (ps : List (List (Place × Nat))) (tas : List Word) : EngOp :=
  { instr := i, sel := s.sel, xs := xs, lanes := lanes, places := ps, tas := tas, done := 0, id := s.tick, buf := [], vt := s.vt }

/-- Places an instruction in the matrix queue: two besides the one in execution (R93). -/
def pushMatrix (o : EngOp) (s : State) (k : State → Out) : Out :=
  if s.core.matrix.length ≥ 3 then stall s else k { s with core := { s.core with matrix := s.core.matrix ++ [o] } }

/-- Writes MSHAPE (R95): TVAL is the value. TSHAPE and CTLW of MSHAPE act alike (R50). -/
def setShape (d : MReg) (x : Word) (s : State) : Out :=
  match shapeFault s.core.partw s.core.mshape d x with
  | some c => trap c x s
  | none => retire 4 { s with core := { s.core with mshape := s.core.mshape.set d x } }

/-- TSHAPE mD, gA (R95). -/
def execTshape (d : MReg) (a : GReg) (s : State) : Out :=
  matrixIssue (.tshape d a) [d] s fun s => setShape d (s.g a) s

/-- The row addresses' displacements of a tile transfer (R96): d + r × s(eB), d in 64-byte units stepped by stepo. -/
def tileRows (s : State) (rows : Nat) (disp : BitVec 5) (stride : Word) : List Int :=
  (List.range rows).map fun (r : Nat) => s.disp disp 64 + (r : Int) * stride.toInt

/-- TLD and TST (R96): rows are checked, translated and placed in the queue; an empty tile moves nothing. -/
def tileTransfer (i : Instr) (op : AccOp) (d : MReg) (a : GReg) (disp : BitVec 5) (b : EReg) (s : State) : Out :=
  matrixIssue i [d] s fun s =>
    let sh := s.core.mshape[d]
    if !shNonempty sh then retire 4 s
    else match rowAddresses (s.g a) (tileRows s (shRows sh) disp (s.e b)) with
      | none => trap Cause.offsetOverflow (s.g a) s
      | some tas =>
        rowsLocated op tas (shCols sh * elemSize (shType sh)) s fun s ps ts =>
          pushMatrix (s.op i [sh] [] ps ts) s fun s => retire 4 (if op.reads then s else s.soil ps.flatten)

/-- TLD mD, [gA + d], eB (R96). -/
def execTld (d : MReg) (a : GReg) (disp : BitVec 5) (b : EReg) (s : State) : Out :=
  tileTransfer (.tld d a disp b) .load d a disp b s

/-- TST mD, [gA + d], eB (R96). -/
def execTst (d : MReg) (a : GReg) (disp : BitVec 5) (b : EReg) (s : State) : Out :=
  tileTransfer (.tst d a disp b) .store d a disp b s

/-- TZERO mD (R97). -/
def execTzero (d : MReg) (s : State) : Out :=
  matrixIssue (.tzero d) [d] s fun s => pushMatrix (s.op (.tzero d) [s.core.mshape[d]] [] [] []) s (retire 4)

/-- MREL accD (R97). -/
def execMrel (d : AReg) (s : State) : Out :=
  matrixIssue (.mrel d) [] s fun s => pushMatrix (s.op (.mrel d) [] [] [] []) s (retire 4)

/-- MACZ accD (R97). -/
def execMacz (d : AReg) (s : State) : Out :=
  matrixIssue (.macz d) [] s fun s =>
    if s.releasePending d then stall s
    else pushMatrix (s.op (.macz d) [s.core.accd[d]] [] [] []) s (retire 4)

/-- MRD gD, accA, gB (R97): 0x19 for a word outside the region; long-latency. -/
def execMrd (la : BitVec 4) (d : GReg) (a : AReg) (b : GReg) (s : State) : Out :=
  matrixIssue (.mrd la d a b) [] s fun s =>
    if s.releasePending a then stall s
    else
      let x := s.core.accd[a]
      if bits (s.g b) 16 48 ≠ 0 ∨ bits (s.g b) 0 8 ≥ accRows x ∨ bits (s.g b) 8 8 ≥ accCols x then trap Cause.accRegion s.word s
      else pushMatrix (s.op (.mrd la d a b) [x, s.g b] [] [] []) s fun s =>
        retireOpen 4 d la (s.addResult d (.engine s.tick))

/-- Whether a queued vector instruction has yet to write one of these registers (R15). -/
def vectorWrites (i : Instr) (v : VReg) : Bool :=
  match i with
  | .vld _ _ _ _ d => decide (d = v)
  | .vlds _ _ _ _ d => decide (d = v)
  | .vfadd _ d _ _ => decide (d = v)
  | .vfsub _ d _ _ => decide (d = v)
  | .vfmul _ d _ _ => decide (d = v)
  | .vfma _ d _ _ => decide (d = v)
  | .vfms _ d _ _ => decide (d = v)
  | .vfnma _ d _ _ => decide (d = v)
  | .vfmin _ d _ _ => decide (d = v)
  | .vfmax _ d _ _ => decide (d = v)
  | .vfabs _ d _ => decide (d = v)
  | .vfneg _ d _ => decide (d = v)
  | .vadd _ d _ _ => decide (d = v)
  | .vsub _ d _ _ => decide (d = v)
  | .vmul _ d _ _ => decide (d = v)
  | .vand _ d _ _ => decide (d = v)
  | .vor _ d _ _ => decide (d = v)
  | .vxor _ d _ _ => decide (d = v)
  | .vsll _ d _ _ => decide (d = v)
  | .vsrl _ d _ _ => decide (d = v)
  | .vsra _ d _ _ => decide (d = v)
  | .vmin _ d _ _ => decide (d = v)
  | .vmax _ d _ _ => decide (d = v)
  | .vsel _ d _ _ => decide (d = v)
  | .vcvt _ _ _ d _ => decide (d = v)
  | .vrfadd _ d _ => decide (d = v)
  | .vrfmax _ d _ => decide (d = v)
  | .vrfmin _ d _ => decide (d = v)
  | .vradd _ d _ => decide (d = v)
  | .vrmax _ d _ => decide (d = v)
  | .vrmin _ d _ => decide (d = v)
  | .vrcp _ d _ => decide (d = v)
  | .vrsqrt _ d _ => decide (d = v)
  | .vsqrt _ d _ => decide (d = v)
  | .vexp2 _ d _ => decide (d = v)
  | .vlog2 _ d _ => decide (d = v)
  | .vexp _ d _ => decide (d = v)
  | .vtanh _ d _ => decide (d = v)
  | .vperm _ d _ _ => decide (d = v)
  | .vrot _ d _ _ => decide (d = v)
  | .vsplat _ d _ => decide (d = v)
  | .vins _ d _ _ => decide (d = v)
  | .vrev _ d _ => decide (d = v)
  | .vscl _ d _ _ => decide (d = v)
  | .vscls _ d _ _ => decide (d = v)
  | _ => false

/-- The register above an even one, the second of a vP pair (R13). -/
def pairOf (v : VReg) : VReg := ⟨(v.val + 1) % 16, Nat.mod_lt _ (by decide)⟩

/-- An uncorrectable error an engine meets in what it reads waits for the next instruction of the slot, TVAL 0 (R327). -/
def Core.detect (c : Core) (sel : SlotSel) : Core :=
  if c.detected.contains (sel, 0) then c else { c with detected := c.detected ++ [(sel, 0)] }

/-- An engine reads vector or mask registers for the slot in focus (R327). -/
def State.noteFlaws (s : State) (l : List RegName) : State :=
  if l.any s.core.flaws.contains then { s with core := s.core.detect s.sel } else s

/-- The shape checks of MMA and MMAR (R98). -/
def mmaFault (sa sb acc : Word) : Option Cause :=
  if shType sa ≠ shType sb ∨ shType sa = 3 ∨ shCols sa ≠ shRows sb then some Cause.tileShape
  else if accRows acc ≠ shRows sa ∨ accCols acc ≠ shCols sb then some Cause.accRegion
  else none

/-- Shape checks, capture and retirement of MMA and MMAR (R93, R98). -/
def multiply (i : Instr) (acc : AReg) (a b : MReg) (vp : VReg) (gs : GReg) (s : State) : Out :=
  if s.releasePending acc then stall s
  else
    let sa := s.core.mshape[a]
    let sb := s.core.mshape[b]
    let x := s.core.accd[acc]
    match mmaFault sa sb x with
    | some c => trap c s.word s
    | none =>
      if s.core.vector.any fun o => vectorWrites o.instr vp || vectorWrites o.instr (pairOf vp) then stall s
      else pushMatrix (s.op i [sa, sb, x, s.g gs, s.slot.rect] (s.core.v[vp].toList ++ s.core.v[pairOf vp].toList) [] []) s fun s =>
        retire 4 (s.noteFlaws [.v vp, .v (pairOf vp)])

/-- MMA accD, mA, mB, vP, gS (R98). -/
def execMma (zf : Bool) (acc : AReg) (a b : MReg) (vp : VReg) (gs : GReg) (s : State) : Out :=
  matrixIssue (.mma zf acc a b vp gs) [a, b] s (multiply (.mma zf acc a b vp gs) acc a b vp gs)

/-- Whether a rectangle has all its W × H members and has lost none (R13, R284). -/
def Group.whole (g : Group) : Bool :=
  !g.broken && match g.rect with
    | some (_, lw, lh) => decide (g.members.length = 2 ^ lw * 2 ^ lh)
    | none => false

/-- MMAR accD, mA, mB, vP, gS (R13, R99): 0x05, 0x22, 0x23 and 0x17 for one register twice, then as MMA; it waits for its
previous copies to land. -/
def execMmar (zf : Bool) (acc : AReg) (a b : MReg) (vp : VReg) (gs : GReg) (s : State) : Out :=
  matrixIssue (.mmar zf acc a b vp gs) [] s fun s =>
    if !rectValid s.slot.rect then trap Cause.notMember s.word s
    else if (match s.rectOf s.core.id with | some g => !g.whole | none => true) then trap Cause.rectIncomplete s.word s
    else tilesReady [a, b] s fun s =>
      if s.copies.any fun c => decide (c.kernel = s.slot.kernel ∧ c.src = s.core.id ∧ (c.reg = a ∨ c.reg = b)) then stall s
      else if a = b then trap Cause.tileShape s.word s
      else multiply (.mmar zf acc a b vp gs) acc a b vp gs s

/-- MEPI [gA + 0], accD, gB (R102): rows checked and translated at retirement; w15 is left pending where WV is 1, or
written at once when nothing is stored. -/
def execMepi (scope : Scope) (str : Stream) (act : Act) (wv : Bool) (b a : GReg) (rel : Bool) (out : OutFmt) (acc : AReg) (s : State) : Out :=
  let i : Instr := .mepi scope str act wv b a rel out acc
  matrixIssue i [] s fun s =>
    if wv ∧ scope.code > 5 then trap Cause.witnessScope s.word s
    else if s.releasePending acc then stall s
    else
      let x := s.core.accd[acc]
      let rows := if accCols x = 0 then 0 else accRows x
      match rowAddresses (s.g a) ((List.range rows).map fun (r : Nat) => (r : Int) * (s.e 0).toInt) with
      | none => trap Cause.offsetOverflow (s.g a) s
      | some tas =>
        rowsLocated .store tas (accCols x * out.bytes) s fun s ps ts =>
          pushMatrix (s.op i [x, s.g b, s.e 1] [] ps ts) s fun s =>
            retire 4 (if wv then (s.soil ps.flatten).setW 15 (.pending .epilogue s.tick) else s.soil ps.flatten)

/-! ### Arithmetic of the engine (R13, R86 to R88, R98) -/

/-- Element n of a tile's bytes as a number. -/
def elemNat (size : Nat) (l : List Byte) (n : Nat) : Nat := leNat ((l.drop (n * size)).take size)

/-- The value of a tile element. -/
def elemValue (t : Nat) (n : Nat) : FVal :=
  match t with
  | 0 => fp8 (BitVec.ofNat 32 n)
  | 1 => intValue (BitVec.ofNat 8 n).toInt
  | _ => bf16 (BitVec.ofNat 32 n)

/-- The products of row r of A and column c of B for k from `lo`, `n` of them. -/
def products (t : Nat) (ab bb : List Byte) (kk nn r c lo n : Nat) : List FVal :=
  (List.range n).map fun i =>
    (elemValue t (elemNat (elemSize t) ab (r * kk + (lo + i)))).mul (elemValue t (elemNat (elemSize t) bb ((lo + i) * nn + c)))

/-- Row lane r of the captured vP pair (R13). -/
def rowLane (lanes : List Word32) (r : Nat) : Word32 := lanes.getD r 0

/-- The integer a value stands for; every INT8 sum is one. -/
def valueInt : FVal → Int
  | .fin n m e => units n m e 0
  | _ => 0

/-- The groups of 8 of a BF16 contraction, ascending (R87). -/
def bf16Groups (t : Nat) (ab bb : List Byte) (kk nn r c : Nat) : Nat → Nat → Word32 → Word32
  | 0, _, x => x
  | fuel + 1, g, x =>
    if 8 * g ≥ kk then x
    else bf16Groups t ab bb kk nn r c fuel (g + 1)
      (fadd x (roundFp32 (exactSum (products t ab bb kk nn r c (8 * g) (min 8 (kk - 8 * g))))))

/-- One accumulator element after a multiplication (R86, R87, R98). -/
def mmaElement (t : Nat) (ab bb : List Byte) (kk nn r c : Nat) (lane sb old : Word32) : Word32 :=
  if kk = 0 then old
  else match t with
    | 0 =>
      let p := roundFp32 (exactSum (products t ab bb kk nn r c 0 kk))
      fadd old (fmul p (fmul lane sb))
    | 1 => old + BitVec.ofInt 32 (valueInt (exactSum (products t ab bb kk nn r c 0 kk)))
    | _ => bf16Groups t ab bb kk nn r c 17 0 old

/-- Word (r, c) of a region. -/
def accWord (m : Mem) (base : Nat) (x : Word) (r c : Nat) : Word32 :=
  BitVec.ofNat 32 (leNat (memBytes m (base + accOfs x + (r * accCols x + c) * 4) 4))

/-- Writes word (r, c) of a region. -/
def putAccWord (m : Mem) (base : Nat) (x : Word) (r c : Nat) (v : Word32) : Mem :=
  memPut m (base + accOfs x + (r * accCols x + c) * 4) (natBytes 4 v.toNat)

/-- The pairs (r, c) of rows lo to lo + n − 1. -/
def gridOf (lo n cols : Nat) : List (Nat × Nat) := (List.range n).flatMap fun i => (List.range cols).map fun c => (lo + i, c)

/-- One strip of eight rows (R98). -/
def runStrip (c : Core) (zf : Bool) (o : EngOp) (sa x gs : Word) (strip : Nat) : Core :=
  let ab := o.buf.getD 0 []
  let bb := o.buf.getD 1 []
  let n := min 8 (shRows sa - 8 * strip)
  { c with sram := (gridOf (8 * strip) n (accCols x)).foldl (fun m rc =>
      let old := if zf then 0 else accWord m c.accBase x rc.1 rc.2
      putAccWord m c.accBase x rc.1 rc.2
        (mmaElement (shType sa) ab bb (shCols sa) (accCols x) rc.1 rc.2 (rowLane o.lanes rc.1) (gs.truncate 32) old)) c.sram }

/-- relu and clamp (R88). -/
def activate (act : Act) (e1 : Word) (y : Word32) : Word32 :=
  if (fp32 y).isNan then 0x7FC00000
  else match act with
    | .none => y
    | .relu => if y.getLsbD 31 then 0 else y
    | .clamp => fmin (fmax y (e1.truncate 32)) ((e1 >>> 32).truncate 32)

/-- One output element of MEPI, as bytes (R88). -/
def epilogue (out : OutFmt) (act : Act) (scale e1 : Word) (w : Word32) : List Byte :=
  let y := activate act e1 (fmul w (scale.truncate 32))
  match out with
  | .fp32 => natBytes 4 y.toNat
  | .bf16 => natBytes 2 (toBf16 .ne (fp32 y)).toNat
  | .fp8 => natBytes 1 (toFp8 true .ne (fp32 y)).toNat
  | .fp8nan => natBytes 1 (toFp8 false .ne (fp32 y)).toNat

/-! ### The engine (R93, R104) -/

/-- Whether a tile in the engine's hands waits for a landing. -/
def State.dueNow (s : State) (n : MReg) : Bool := (s.core.net[n].due).isSome

/-- Whether the resident task of a core and a task of another core are members of one rectangle now. -/
def State.rectMates (s : State) (a b : Nat) : Bool :=
  match s.rectOf a with
  | some g => g.members.any fun m => decide (m.1 = b)
  | none => false

/-- Puts a copy into the rotation network, and makes the landing in return due; with one member in the direction the
copy stays (R14, R99). Copies to or from a member that has left, or of an MMAR that its own member's LEAVE has overtaken, are
cancelled (R285). -/
def State.rotate (s : State) (n : MReg) (sh : Word) (l : List Byte) (dst src : Nat) : State :=
  if dst = s.core.id then s
  else
    { s with
      copies := if s.rectMates s.core.id dst then s.copies ++ [{ kernel := s.slot.kernel, src := s.core.id, dst := dst, reg := n, shape := sh, bytes := l }]
        else s.copies
      core := { s.core with net := s.core.net.set n { s.core.net[n] with
        read := true, due := if s.rectMates s.core.id src then some src else none } } }

/-- The matrix instruction at the head of the queue, replaced. -/
def State.setHead (s : State) (o : EngOp) : State :=
  { s with core := { s.core with matrix := o :: s.core.matrix.drop 1 } }

/-- Begins a multiplication: both tiles are read whole, and MMAR's copies are taken (R98, R99). -/
def beginMultiply (o : EngOp) (a b : MReg) (sends : Bool) (s : State) : State :=
  let sa := o.xs.getD 0 0
  let sb := o.xs.getD 1 0
  let r := o.xs.getD 4 0
  let ab := memBytes s.core.sram (s.core.tileOfs sa) (shBytes sa)
  let bb := memBytes s.core.sram (s.core.tileOfs sb) (shBytes sb)
  let s := s.setHead { o with buf := [ab, bb] }
  if sends then
    (s.rotate a sa ab (westOf s.core.id r) (eastOf s.core.id r)).rotate b sb bb (northOf s.core.id r) (southOf s.core.id r)
  else s

/-- The tiles an instruction reads or fills in the engine. -/
def engineTiles : Instr → List MReg
  | .tld d _ _ _ => [d]
  | .tst d _ _ _ => [d]
  | .tzero d => [d]
  | .mma _ _ a b _ _ => [a, b]
  | .mmar _ _ a b _ _ => [a, b]
  | _ => []

/-- Steps an instruction takes in the engine: strips, pieces, or one. -/
def engineSteps (o : EngOp) : Nat :=
  match o.instr with
  | .mma _ _ _ _ _ _ => if accCols (o.xs.getD 2 0) = 0 then 0 else (shRows (o.xs.getD 0 0) + 7) / 8
  | .mmar _ _ _ _ _ _ => if accCols (o.xs.getD 2 0) = 0 then 0 else (shRows (o.xs.getD 0 0) + 7) / 8
  | .tld _ _ _ _ => o.places.length
  | .tst _ _ _ _ => o.places.length
  | .mepi _ _ _ _ _ _ _ _ _ => o.places.length
  | .mrel _ => 0
  | _ => 1

/-- Bytes of the pieces before piece n. -/
def bytesBefore (ps : List (List (Place × Nat))) (n : Nat) : Nat :=
  ((ps.take n).map fun p => match p with
    | q :: _ => q.2
    | [] => 0).foldl (· + ·) 0

/-- The bytes MEPI stores, in order: row, then column (R102). -/
def mepiBytes (c : Core) (o : EngOp) (act : Act) (out : OutFmt) : List Byte :=
  let x := o.xs.getD 0 0
  (gridOf 0 (accRows x) (accCols x)).flatMap fun rc =>
    epilogue out act (o.xs.getD 1 0) (o.xs.getD 2 0) (accWord c.sram c.accBase x rc.1 rc.2)

/-- The bytes piece `done` of a storing instruction carries. -/
def pieceData (c : Core) (o : EngOp) (n : Nat) : List Byte :=
  match o.instr with
  | .tst _ _ _ _ => memBytes c.sram (c.tileOfs (o.xs.getD 0 0) + bytesBefore o.places o.done) n
  | .mepi _ _ act _ _ _ _ out _ => ((mepiBytes c o act out).drop (bytesBefore o.places o.done)).take n
  | _ => []

/-- Sends one piece of TST or MEPI, when its stream has room and the line is free. The state is focused on the slot. -/
def storePiece (o : EngOp) (str : Stream) (s : State) : State :=
  match o.places[o.done]? with
  | some ps =>
    let n := (ps.map (·.2)).headD 0
    if !s.streamRoom str 1 || s.pieceStoreHeld o.id str (ps.map fun p => p.1.line) then s
    else
      (s.send str (.bytes ((pieceData s.core o n).map some)) (o.tas.getD o.done 0) none (ps.map (·.1))).setHead
        { o with done := o.done + 1, vt := s.vt }
  | none => s

/-- The tree address of the first poisoned byte of a piece. -/
def firstPoison (s : State) (ta : Word) (p : Place) (n : Nat) : Option Word :=
  ((List.range n).find? fun i => s.poisonedAt (p.add i)).map fun i => ta + BitVec.ofNat 64 i

/-- The first byte, within the tile, of the row a piece belongs to: a row with poison keeps its old bytes whole (R327). -/
def rowStart (len n : Nat) : Nat := if len = 0 then n else n / len * len

/-- Reads one piece of TLD into its tile. A poisoned piece ends the instruction: its row and every later one keep their
old bytes, and the error waits for the task's next instruction (R327). -/
def loadPiece (o : EngOp) (s : State) : State :=
  match o.places[o.done]? with
  | some (p :: _) =>
    let sh := o.xs.getD 0 0
    let k := bytesBefore o.places o.done
    if s.pieceReadHeld o.id ((p.1.lines p.2)) then s
    else match firstPoison s (o.tas.getD o.done 0) p.1 p.2 with
      | some ta =>
        let s := s.setHead { o with done := o.places.length }
        { s with core := { s.core with detected := s.core.detected ++ [(s.sel, ta)] } }
      | none =>
        -- a row is written when its last piece has been read, so that a poisoned row keeps its bytes
        let row := shCols sh * elemSize (shType sh)
        let got := (o.buf.getD 0 []) ++ s.bytesAt p.1 p.2
        let s' := s.setHead { o with done := o.done + 1, buf := [if got.length ≥ row then [] else got] }
        if got.length ≥ row then
          { s' with core := { s'.core with sram := memPut s'.core.sram (s'.core.tileOfs sh + rowStart row k) got } }
        else s'
  | _ => s

/-- SRAM ranges a step of the head instruction reads: accumulator words of a strip, the tile's or the accumulator's bytes behind a
piece (R98, R102). The tiles of a multiplication are read as it begins. -/
def stepReads (c : Core) (o : EngOp) : List (Nat × Nat) :=
  let strip := fun (x : Word) => [(c.accBase + accOfs x + 8 * o.done * accCols x * 4, min 8 (shRows (o.xs.getD 0 0) - 8 * o.done) * accCols x * 4)]
  let piece := bytesBefore o.places o.done
  let len := bytesBefore o.places (o.done + 1) - piece
  match o.instr with
  | .mma zf _ _ _ _ _ => if zf then [] else strip (o.xs.getD 2 0)
  | .mmar zf _ _ _ _ _ => if zf then [] else strip (o.xs.getD 2 0)
  | .tst _ _ _ _ => [(c.tileOfs (o.xs.getD 0 0) + piece, len)]
  | .mepi _ _ _ _ _ _ _ out _ =>
    let lo := piece / out.bytes
    [(c.accBase + accOfs (o.xs.getD 0 0) + 4 * lo, 4 * ((piece + len + out.bytes - 1) / out.bytes - lo))]
  | _ => []

/-- SRAM ranges the engine reads as an instruction begins: the tiles of a multiplication (R98). -/
def beginReads (c : Core) (o : EngOp) : List (Nat × Nat) :=
  let tile := fun (n : Nat) => (c.tileOfs (o.xs.getD n 0), shBytes (o.xs.getD n 0))
  match o.instr with
  | .mma _ _ _ _ _ _ => if o.buf = [] then [tile 0, tile 1] else []
  | .mmar _ _ _ _ _ _ => if o.buf = [] then [tile 0, tile 1] else []
  | _ => []

/-- An uncorrectable error in what the engine reads is reported at the task's next instruction, TVAL 0 (R327). -/
def Core.noteReads (c : Core) (sel : SlotSel) (l : List (Nat × Nat)) : Core :=
  if l.any fun r => decide (r.2 ≠ 0) && c.poison.any fun k => decide (64 * k < r.1 + r.2 ∧ r.1 < 64 * k + 64) then c.detect sel else c

/-- One step of the head instruction, which has begun. -/
def engineStep (o : EngOp) (s : State) : State :=
  match o.instr with
  | .mma zf _ _ _ _ _ =>
    ({ s with core := runStrip s.core zf o (o.xs.getD 0 0) (o.xs.getD 2 0) (o.xs.getD 3 0) o.done }).setHead
      { o with done := o.done + 1 }
  | .mmar zf _ _ _ _ _ =>
    ({ s with core := runStrip s.core zf o (o.xs.getD 0 0) (o.xs.getD 2 0) (o.xs.getD 3 0) o.done }).setHead
      { o with done := o.done + 1 }
  | .tld _ _ _ _ => loadPiece o s
  | .tst _ _ _ _ => storePiece o 0 s
  | .mepi _ str _ _ _ _ _ _ _ => storePiece o str s
  | .tzero _ =>
    ({ s with core := { s.core with sram := memPut s.core.sram (s.core.tileOfs (o.xs.getD 0 0)) (List.replicate (shBytes (o.xs.getD 0 0)) 0) } }).setHead
      { o with done := o.done + 1 }
  | .macz _ =>
    ({ s with core := { s.core with sram := memPut s.core.sram (s.core.accBase + accOfs (o.xs.getD 0 0)) (List.replicate (accBytes (o.xs.getD 0 0)) 0) } }).setHead
      { o with done := o.done + 1 }
  | _ => s.setHead { o with done := o.done + 1 }

/-- Whether the matrix engine may begin an instruction: the slot it belongs to is not halted (R104), and no tile of it
waits for a landing (R14). -/
def State.mayBegin (s : State) (o : EngOp) : Bool :=
  (match (s.core.slot o.sel).run with
    | .halted (.preempted _) => false
    | _ => (s.core.slot o.sel).request.isNone) && !(engineTiles o.instr).any s.dueNow

/-- Whether an instruction in execution may go on: under a pre-emption request a multiplication stops at a strip, and
everything else continues (R104). -/
def State.mayContinue (s : State) (o : EngOp) : Bool :=
  match o.instr with
  | .mma _ _ _ _ _ _ => s.mayBegin { o with instr := .exit }
  | .mmar _ _ _ _ _ _ => s.mayBegin { o with instr := .exit }
  | _ => true

/-- The service-log entry of the kernel notes that the core's matrix engine has executed for it (R320). -/
def Core.markM (c : Core) (kernel : Nat) : Core :=
  { c with log := c.log.map fun e => if e.kernel = kernel ∧ e.release = none then { e with m := true } else e }

/-- MATRIX_ENGINE_EXECUTE: the engine of a core begins its next instruction, or does the next strip, row piece or store of
the one in execution (R93, R98, R104). -/
def execMatrixEngineExecute (core : Nat) (s : State) : Out :=
  if core ≥ Config.cores then .fault .noSuchAgent
  else match (s.coreOf core).matrix with
    | [] => .next s
    | o :: _ => .next (s.within core o.sel fun s =>
        if s.core.mrun then
          if o.done < engineSteps o && s.mayContinue o then
            let t := engineStep o s
            if (t.core.matrix.headD o).done = o.done then t
            else { t with core := t.core.noteReads o.sel (stepReads s.core o) }
          else s
        else if s.mayBegin o then
          let s := { s with core := { (s.core.noteReads o.sel (beginReads s.core o)).markM s.slot.kernel with mrun := true } }
          match o.instr with
          | .mma _ _ a b _ _ => if o.buf = [] then beginMultiply o a b false s else s
          | .mmar _ _ a b _ _ => if o.buf = [] then beginMultiply o a b true s else s
          | _ => s
        else s)

/-- An engine whose commands wait for operation `id` learns its witness (R167). -/
def Engine.learn (e : Engine) (why : PendBy) (id : Nat) (x : Word128) : Engine :=
  let f := fun (c : Cmd) => if c.wait = .pending why id then { c with wait := .val x } else c
  { e with queue := e.queue.map f, running := e.running.map fun a => { a with cmd := f a.cmd } }

/-- A slot whose register operation `id` left pending receives its witness and sets its event latch (R275). -/
def Slot.fillW (t : Slot) (r : WReg) (why : PendBy) (id : Nat) (x : Word128) : Slot :=
  if t.w[r] = .pending why id then t.putW r (.val x) else t

/-- A core in which operation `id` ends. -/
def Core.fillW (c : Core) (r : WReg) (why : PendBy) (id : Nat) (x : Word128) : Core :=
  { c with task := c.task.fillW r why id x, act := c.act.fillW r why id x, copy := c.copy.learn why id x }

/-- Fills a witness register left pending by operation `id`, wherever its task stands, a saved context included (R179); a
register written since discards it (R146). Commands that wait for it learn it all the same (R167). -/
def State.fillW (s : State) (r : WReg) (why : PendBy) (id : Nat) (x : Word128) : State :=
  { s with
    core := s.core.fillW r why id x
    others := s.others.map fun c => (c.1, c.2.fillW r why id x)
    layouts := s.layouts.map fun e => (e.1, e.2.learn why id x)
    saved := s.saved.map fun c => { c with slot := c.slot.fillW r why id x } }

/-- What becomes of the result that instruction `id` of an engine owes. -/
def State.engineAnswers (s : State) (core id : Nat) (v : Source) : State :=
  { s with results := s.results.map fun r => if r.core = core ∧ r.src = .engine id then { r with src := v } else r }

/-- Gives the result that instruction `id` of an engine owes (R97, R126). -/
def State.engineGives (s : State) (core id : Nat) (x : Word) : State := s.engineAnswers core id (.ready x)

/-- What an MRD answers: the word, or poison at its offset in the pool (R97, R327). -/
def Core.mrdSource (c : Core) (x b : Word) : Source :=
  let o := c.accBase + accOfs x + (bits b 0 8 * accCols x + bits b 8 8) * 4
  if c.poison.contains (o / 64) then .poison (mkTa 0 o)
  else .ready ((accWord c.sram c.accBase x (bits b 0 8) (bits b 8 8)).zeroExtend 64)

/-- MATRIX_INSTRUCTION_COMPLETE: the instruction in execution has done its last step: `.rel` and MREL empty the descriptor,
w15 and an MRD's register receive their values, and the queue moves up (R97, R102, R106). -/
def execMatrixInstructionComplete (core : Nat) (s : State) : Out :=
  if core ≥ Config.cores then .fault .noSuchAgent
  else match (s.coreOf core).matrix with
    | [] => .next s
    | o :: rest =>
      if (s.coreOf core).mrun && decide (o.done ≥ engineSteps o) then
        let s1 := s.onCore core fun c => { c with matrix := rest, mrun := false }
        let empty := fun (s : State) (d : AReg) => s.onCore core fun c => { c with accd := c.accd.set d 0 }
        .next (match o.instr with
          | .mrel d => empty s1 d
          | .mepi _ _ _ wv _ _ rel _ acc =>
            let s2 := if rel then empty s1 acc else s1
            if wv then s2.fillW 15 .epilogue o.id (stampWitness s.epoch o.vt s.device.toNat) else s2
          | .mrd _ _ _ _ =>
            s1.engineAnswers core o.id ((s1.coreOf core).mrdSource (o.xs.getD 0 0) (o.xs.getD 1 0))
          | _ => s1)
      else .next s

/-- Whether a core's task is halted by pre-emption: no copy lands there (R105). -/
def State.frozen (s : State) (core : Nat) : Bool :=
  match (s.coreOf core).task.run with
  | .halted (.preempted _) => true
  | _ => false

/-- TILE_LANDING: rotation copy n lands once the register has been read by an MMAR of the receiver since its last landing
(R14); a copy of another shape is discarded and the register marked refused (R100); with its receiver ended it is
dropped, and one for a saved task waits for it to come back (R105). -/
def execTileLanding (n : Nat) (s : State) : Out :=
  match s.copies[n]? with
  | none => .next s
  | some c =>
    if (s.rectAt c.kernel c.dst).isNone then .next { s with copies := dropAt s.copies n }
    else if (s.coreOf c.dst).task.kernel ≠ c.kernel then .next s
    else if s.frozen c.dst || !((s.coreOf c.dst).net[c.reg]).read then .next s
    else
      let k := s.coreOf c.dst
      let sh := k.mshape[c.reg]
      let same := decide (shType sh = shType c.shape ∧ shRows sh = shRows c.shape ∧ shCols sh = shCols c.shape)
      let k := { k with
        net := k.net.set c.reg { read := false, due := none, refused := !same }
        sram := if same then memPut k.sram (k.tileOfs sh) c.bytes else k.sram }
      .next ({ s with copies := dropAt s.copies n }.setCore c.dst k)

end Sys2Proof.Machine
end

