-- ==== Sys2Proof/Machine/Control.lean ====
section
/-! DEFINITION. Control registers: CTLR and CTLW with the access and checks of R42, R46, R50 to R53, R66, R92, R174, R218,
R219, R250 and R264. -/

namespace Sys2Proof.Machine

/-- The control registers (R42). -/
inductive Ctl where
  | vt | gtid | coreid | feat | partw | exb | codebase | repc | law | trapv | tcause | tpc | tval | rect | chtab | dealpat
  | accd (n : AReg)
  | mshape (n : MReg)
  deriving DecidableEq, Repr

/-- The register a CNUM names (R42). -/
def ctlOf (cnum : BitVec 9) : Option Ctl :=
  match cnum.toNat with
  | 0x000 => some .vt
  | 0x001 => some .gtid
  | 0x002 => some .coreid
  | 0x003 => some .feat
  | 0x004 => some .partw
  | 0x005 => some .exb
  | 0x006 => some .codebase
  | 0x007 => some .repc
  | 0x008 => some .law
  | 0x009 => some .trapv
  | 0x00A => some .tcause
  | 0x00B => some .tpc
  | 0x00C => some .tval
  | 0x00D => some .rect
  | 0x00E => some .chtab
  | 0x00F => some .dealpat
  | 0x010 => some (.accd 0)
  | 0x011 => some (.accd 1)
  | 0x012 => some (.accd 2)
  | 0x013 => some (.accd 3)
  | 0x018 => some (.mshape 0)
  | 0x019 => some (.mshape 1)
  | 0x01A => some (.mshape 2)
  | 0x01B => some (.mshape 3)
  | 0x01C => some (.mshape 4)
  | 0x01D => some (.mshape 5)
  | 0x01E => some (.mshape 6)
  | 0x01F => some (.mshape 7)
  | _ => none

/-- Whether no context may write a register (R50). -/
def Ctl.readOnly : Ctl → Bool
  | .vt => true
  | .coreid => true
  | .rect => true
  | _ => false

/-- Whether only a privileged context may write a register (R50). -/
def Ctl.privWrite : Ctl → Bool
  | .gtid => true
  | .feat => true
  | .partw => true
  | .exb => true
  | .chtab => true
  | _ => false

/-- Whether a register belongs to the resident task's matrix state (R50). -/
def Ctl.ofMatrix : Ctl → Bool
  | .accd _ => true
  | .mshape _ => true
  | _ => false

/-- Whether a channel holds an untaken message or has READY 1 (R250, R251). -/
def Channel.wanting (c : Channel) : Bool := c.ready || c.msgs.any fun m => !m.taken

/-- One bit per channel. -/
def channelBits (cs : Vector Channel 16) (f : Channel → Bool) : Nat :=
  ((List.finRange 16).map fun i => if f cs[i] then 2 ^ i.val else 0).foldl (· + ·) 0

/-- CHTAB (R250). -/
def Core.chtab (c : Core) : Word :=
  BitVec.ofNat 64 (channelBits c.chans (fun h => h.valid && h.wanting) * 2 ^ 48 + channelBits c.chans (·.ready) * 2 ^ 32
    + channelBits c.chans (·.hold) * 2 ^ 16 + channelBits c.chans (·.valid))

/-- What a control register reads as; RECT reads zero in an activation, FEAT, COREID and RECT zero on a dispatch core
(R50, R292). -/
def State.ctlValue (s : State) : Ctl → Word
  | .vt => s.vt.zeroExtend 64
  | .gtid => s.slot.gtid
  | .coreid => if isDispatch s.core.id then 0 else BitVec.ofNat 64 (s.core.id % 4096)
  | .feat => s.core.feat.zeroExtend 64
  | .partw => s.core.partw
  | .exb => (s.core.exb.extractLsb' 0 19).zeroExtend 64
  | .codebase => s.core.codebase.zeroExtend 64
  | .repc => s.slot.repc
  | .law => s.slot.law
  | .trapv => s.slot.trapv
  | .tcause => s.slot.tcause
  | .tpc => s.slot.tpc
  | .tval => s.slot.tval
  | .rect => if s.sel = .act then 0 else s.slot.rect
  | .chtab => s.core.chtab
  | .dealpat => s.slot.dealpat
  | .accd n => s.core.accd[n]
  | .mshape n => s.core.mshape[n]

/-- Ownership: an activation beside a resident task may not name its matrix state (0x05), and a core without the matrix
bit has none (0x04) (R50, R53). -/
def ctlOwned (cnum : BitVec 9) (r : Ctl) (s : State) (k : Out) : Out :=
  if r.ofMatrix && s.actBesideTask then trap Cause.engineInActivation (cnum.zeroExtend 64) s
  else if r.ofMatrix && !s.core.feat.getLsbD 0 then trap Cause.featureAbsent s.word s
  else k

/-- CTLR gD, name (R53): waits for an earlier instruction that empties the descriptor it reads. -/
def execCtlr (d : GReg) (cnum : BitVec 9) (s : State) : Out :=
  issue (.ctlr d cnum) s fun s =>
    match ctlOf cnum with
    | none => trap Cause.controlInvalid (cnum.zeroExtend 64) s
    | some r =>
      ctlOwned cnum r s
        (if (match r with | .accd n => s.releasePending n | _ => false) then stall s
         else retire 4 (s.setG d (s.ctlValue r)))

/-! ### Value checks -/

/-- Whether a LAW value names g0 with a nonzero count in some entry (R46). -/
def lawNamesZero (x : Word) : Bool :=
  (List.range 7).any fun n => decide (bits x (9 * n + 4) 5 = 0 ∧ bits x (9 * n) 4 ≠ 0)

/-- Whether a value breaks the layout of a register whose check is 0x2A (R46, R51, R52, R174, R264). -/
def layoutBroken (c : Core) (r : Ctl) (x : Word) : Bool :=
  match r with
  | .gtid => decide (bits x 40 24 ≠ 0)
  | .feat => decide (bits x 3 61 ≠ 0) || (BitVec.ofNat 3 x.toNat &&& ~~~c.hw) != 0
  | .exb => decide (bits x 19 45 ≠ 0 ∨ bits x 0 8 ≠ 0)
  | .codebase => decide (bits x 32 32 ≠ 0 ∨ bits x 0 8 ≠ 0)
  | .law => x.getLsbD 63 || lawNamesZero x
  | .trapv => decide (bits x 32 32 ≠ 0) || x.getLsbD 0
  | .tcause => decide (bits x 10 54 ≠ 0 ∨ bits x 6 2 ≠ 0)
  | .tpc => decide (bits x 32 32 ≠ 0)
  | .dealpat => decide (bits x 56 8 ≠ 0 ∨ (bits x 44 12 ≠ 0 ∧ bits x 32 12 ≥ bits x 44 12))
  | _ => false

/-- Bytes of a channel's ring: slots of 128 bytes (R236). -/
def Channel.ringBytes (h : Channel) : Nat := 128 * h.depth

/-- Whether PARTW breaks its table (R218, R219). -/
def partwReserved (x : Word) : Bool :=
  decide (bits x 14 50 ≠ 0 ∨ bits x 6 2 ≠ 0 ∨ tileGranules x + accGranules x > 32)

/-- Whether a tile or region would lie outside its area or overlap another (R92). -/
def partwBreaksMatrix (c : Core) (x : Word) : Bool :=
  (List.finRange 8).any (fun i => shNonempty c.mshape[i] &&
    (decide (shBase c.mshape[i] ≥ tileGranules x) ||
      (List.finRange 8).any fun j => decide (j ≠ i) && shNonempty c.mshape[j] && decide (shBase c.mshape[j] = shBase c.mshape[i]))) ||
  (List.finRange 4).any fun i => decide (accBytes c.accd[i] ≠ 0) &&
    (decide (accOfs c.accd[i] + accBytes c.accd[i] > accGranules x * 16384) ||
      (List.finRange 4).any fun j => decide (j ≠ i) && decide (accBytes c.accd[j] ≠ 0) &&
        decide (accOfs c.accd[i] < accOfs c.accd[j] + accBytes c.accd[j] ∧ accOfs c.accd[j] < accOfs c.accd[i] + accBytes c.accd[i]))

/-- Whether the new scratchpad would cut off the code window, a named region or a channel ring (R219). -/
def partwBreaksScratch (c : Core) (x : Word) : Bool :=
  decide (scratchGranules x * 16384 < c.exb.toNat) ||
    (c.regions.any fun r => decide (r.ofs + r.size > scratchGranules x * 16384)) ||
    (List.finRange 16).any fun i => c.chans[i].valid && decide (c.chans[i].ring + c.chans[i].ringBytes > scratchGranules x * 16384)

/-- Whether an engine has nothing queued, running or settling. -/
def Engine.idle (e : Engine) : Bool := e.queue.isEmpty && e.running.isNone && e.settling.isEmpty

/-- CHTAB written: HOLD and READY of every valid channel (R250). -/
def Core.writeChtab (c : Core) (x : Word) : Core :=
  { c with chans := Vector.ofFn fun i =>
      let h := c.chans[i]
      if h.valid then { h with ready := x.getLsbD (32 + i.val), hold := x.getLsbD (16 + i.val) } else h }

/-- A control register written, its value checked (R53). INH of TCAUSE ignores writes (R264). -/
def writeCtl (r : Ctl) (x : Word) (s : State) : State :=
  match r with
  | .gtid => s.mapSlot fun t => { t with gtid := x }
  | .feat => { s with core := { s.core with feat := BitVec.ofNat 3 x.toNat } }
  | .partw => { s with core := { s.core with partw := x } }
  | .exb => { s with core := { s.core with exb := BitVec.ofNat 20 x.toNat } }
  | .codebase => { s with core := { s.core with codebase := BitVec.ofNat 32 x.toNat } }
  | .repc => s.mapSlot fun t => { t with repc := x }
  | .law => s.mapSlot fun t => { t with law := x }
  | .trapv => s.mapSlot fun t => { t with trapv := x }
  | .tcause => s.mapSlot fun t => { t with tcause := (x &&& ~~~(512 : Word)) ||| (t.tcause &&& 512) }
  | .tpc => s.mapSlot fun t => { t with tpc := x }
  | .tval => s.mapSlot fun t => { t with tval := x }
  | .dealpat => s.mapSlot fun t => { t with dealpat := x }
  | .chtab => { s with core := s.core.writeChtab x }
  | .accd n => { s with core := { s.core with accd := s.core.accd.set n x } }
  | .mshape n => { s with core := { s.core with mshape := s.core.mshape.set n x } }
  | .vt => s
  | .coreid => s
  | .rect => s

/-- The value check of a register and the write (R53, R92, R219): PARTW waits for the engines of the core, ACCDn for the
regions still to be released, and MSHAPEn acts as TSHAPE. -/
def checkedWrite (r : Ctl) (x : Word) (s : State) : Out :=
  match r with
  | .partw =>
    if partwReserved x then trap Cause.partitionWord x s
    else if !s.core.matrix.isEmpty || !s.core.vector.isEmpty || !s.core.copy.idle then stall s
    else if partwBreaksMatrix s.core x || partwBreaksScratch s.core x then trap Cause.partitionWord x s
    else retire 4 (writeCtl .partw x s)
  | .accd n =>
    if (List.finRange 4).any fun i => s.releasePending i then stall s
    else match descriptorFault s.core.partw s.core.accd n x with
      | some c => trap c x s
      | none => retire 4 (writeCtl (.accd n) x s)
  | .mshape n => tilesReady [n] s (setShape n x)
  | r => if layoutBroken s.core r x then trap Cause.controlInvalid x s else retire 4 (writeCtl r x s)

/-- CTLW name, gA (R53): an unlisted or read-only CNUM 0x2A, privilege 0x02, ownership 0x05 or 0x04, then the value. -/
def execCtlw (cnum : BitVec 9) (a : GReg) (s : State) : Out :=
  issue (.ctlw cnum a) s fun s =>
    match ctlOf cnum with
    | none => trap Cause.controlInvalid (cnum.zeroExtend 64) s
    | some r =>
      if r.readOnly then trap Cause.controlInvalid (cnum.zeroExtend 64) s
      else if r.privWrite && !s.slot.priv then trap Cause.privileged (cnum.zeroExtend 64) s
      else ctlOwned cnum r s (checkedWrite r (s.g a) s)

end Sys2Proof.Machine
end

