-- ==== Sys2Proof/Machine/Vector.lean ====
section
/-! DEFINITION. Vector and mask instructions and the vector engine (R89 of spec/05_number_formats.md, R107 to R126 of
spec/07_vector_instructions.md). -/

namespace Sys2Proof.Machine

/-- A vector register's lanes. -/
abbrev Lanes := Vector Word32 64

/-! ### Masks (R109) -/

/-- The mask of a form: every lane where MASKEN is 0. -/
def maskOf (k : Vector Word 4) : Option KReg → Word
  | none => BitVec.allOnes 64
  | some r => k[r]

/-- Enabled lanes in ascending order. -/
def enabledLanes (m : Word) : List (Fin 64) := (List.finRange 64).filter fun i => m.getLsbD i.val

/-- Enabled lanes take new bits, disabled ones keep their own. -/
def lanewise (m : Word) (old : Lanes) (f : Fin 64 → Word32) : Lanes :=
  Vector.ofFn fun i => if m.getLsbD i.val then f i else old[i]

/-- Whether a queued vector instruction has yet to write a mask register (R15). -/
def maskWrites (i : Instr) (k : KReg) : Bool :=
  match i with
  | .vcmp _ _ d _ _ => decide (d = k)
  | .kand d _ _ => decide (d = k)
  | .kor d _ _ => decide (d = k)
  | .kxor d _ _ => decide (d = k)
  | .knot d _ => decide (d = k)
  | .kmov d _ => decide (d = k)
  | .kset d => decide (d = k)
  | .kclr d => decide (d = k)
  | .kfromg d _ => decide (d = k)
  | _ => false

/-- The name of a mask operand. -/
def maskName : Option KReg → List RegName
  | none => []
  | some k => [.k k]

/-- The vector and mask registers an instruction reads in the engine (R107, R109). A store reads its mask at retirement. -/
def vectorReads : Instr → List RegName
  | .vfadd mask _ a b => [.v a, .v b] ++ maskName mask
  | .vfsub mask _ a b => [.v a, .v b] ++ maskName mask
  | .vfmul mask _ a b => [.v a, .v b] ++ maskName mask
  | .vfmin mask _ a b => [.v a, .v b] ++ maskName mask
  | .vfmax mask _ a b => [.v a, .v b] ++ maskName mask
  | .vadd mask _ a b => [.v a, .v b] ++ maskName mask
  | .vsub mask _ a b => [.v a, .v b] ++ maskName mask
  | .vmul mask _ a b => [.v a, .v b] ++ maskName mask
  | .vand mask _ a b => [.v a, .v b] ++ maskName mask
  | .vor mask _ a b => [.v a, .v b] ++ maskName mask
  | .vxor mask _ a b => [.v a, .v b] ++ maskName mask
  | .vsll mask _ a b => [.v a, .v b] ++ maskName mask
  | .vsrl mask _ a b => [.v a, .v b] ++ maskName mask
  | .vsra mask _ a b => [.v a, .v b] ++ maskName mask
  | .vmin mask _ a b => [.v a, .v b] ++ maskName mask
  | .vmax mask _ a b => [.v a, .v b] ++ maskName mask
  | .vperm mask _ a b => [.v a, .v b] ++ maskName mask
  | .vscl mask _ a b => [.v a, .v b] ++ maskName mask
  | .vfma mask d a b => [.v a, .v b, .v d] ++ maskName mask
  | .vfms mask d a b => [.v a, .v b, .v d] ++ maskName mask
  | .vfnma mask d a b => [.v a, .v b, .v d] ++ maskName mask
  | .vfabs mask _ a => [.v a] ++ maskName mask
  | .vfneg mask _ a => [.v a] ++ maskName mask
  | .vrfadd mask _ a => [.v a] ++ maskName mask
  | .vrfmax mask _ a => [.v a] ++ maskName mask
  | .vrfmin mask _ a => [.v a] ++ maskName mask
  | .vradd mask _ a => [.v a] ++ maskName mask
  | .vrmax mask _ a => [.v a] ++ maskName mask
  | .vrmin mask _ a => [.v a] ++ maskName mask
  | .vrcp mask _ a => [.v a] ++ maskName mask
  | .vrsqrt mask _ a => [.v a] ++ maskName mask
  | .vsqrt mask _ a => [.v a] ++ maskName mask
  | .vexp2 mask _ a => [.v a] ++ maskName mask
  | .vlog2 mask _ a => [.v a] ++ maskName mask
  | .vexp mask _ a => [.v a] ++ maskName mask
  | .vtanh mask _ a => [.v a] ++ maskName mask
  | .vrev mask _ a => [.v a] ++ maskName mask
  | .vcmp _ mask _ a b => [.v a, .v b] ++ maskName mask
  | .vsel m _ a b => [.v a, .v b, .k m]
  | .vcvt _ mask _ _ a => [.v a] ++ maskName mask
  | .vrot mask _ a _ => [.v a] ++ maskName mask
  | .vsplat mask _ _ => maskName mask
  | .vins mask _ _ _ => maskName mask
  | .vscls mask _ a _ => [.v a] ++ maskName mask
  | .kand _ a b => [.k a, .k b]
  | .kor _ a b => [.k a, .k b]
  | .kxor _ a b => [.k a, .k b]
  | .knot _ a => [.k a]
  | .kmov _ a => [.k a]
  | .vmovg _ _ a _ => [.v a]
  | .kmovg _ _ a => [.k a]
  | .vst _ _ _ _ _ d => [.v d]
  | .vsts _ _ _ _ _ d => [.v d]
  | _ => []

/-- Whether a form leaves disabled lanes of its destination as they were (R109). -/
def keepsLanes : Instr → Bool
  | .vfadd mask _ _ _ => mask.isSome
  | .vfsub mask _ _ _ => mask.isSome
  | .vfmul mask _ _ _ => mask.isSome
  | .vfmin mask _ _ _ => mask.isSome
  | .vfmax mask _ _ _ => mask.isSome
  | .vadd mask _ _ _ => mask.isSome
  | .vsub mask _ _ _ => mask.isSome
  | .vmul mask _ _ _ => mask.isSome
  | .vand mask _ _ _ => mask.isSome
  | .vor mask _ _ _ => mask.isSome
  | .vxor mask _ _ _ => mask.isSome
  | .vsll mask _ _ _ => mask.isSome
  | .vsrl mask _ _ _ => mask.isSome
  | .vsra mask _ _ _ => mask.isSome
  | .vmin mask _ _ _ => mask.isSome
  | .vmax mask _ _ _ => mask.isSome
  | .vperm mask _ _ _ => mask.isSome
  | .vscl mask _ _ _ => mask.isSome
  | .vfma mask _ _ _ => mask.isSome
  | .vfms mask _ _ _ => mask.isSome
  | .vfnma mask _ _ _ => mask.isSome
  | .vfabs mask _ _ => mask.isSome
  | .vfneg mask _ _ => mask.isSome
  | .vrfadd mask _ _ => mask.isSome
  | .vrfmax mask _ _ => mask.isSome
  | .vrfmin mask _ _ => mask.isSome
  | .vradd mask _ _ => mask.isSome
  | .vrmax mask _ _ => mask.isSome
  | .vrmin mask _ _ => mask.isSome
  | .vrcp mask _ _ => mask.isSome
  | .vrsqrt mask _ _ => mask.isSome
  | .vsqrt mask _ _ => mask.isSome
  | .vexp2 mask _ _ => mask.isSome
  | .vlog2 mask _ _ => mask.isSome
  | .vexp mask _ _ => mask.isSome
  | .vtanh mask _ _ => mask.isSome
  | .vrev mask _ _ => mask.isSome
  | .vcvt _ mask _ _ _ => mask.isSome
  | .vrot mask _ _ _ => mask.isSome
  | .vsplat mask _ _ => mask.isSome
  | .vins mask _ _ _ => mask.isSome
  | .vscls mask _ _ _ => mask.isSome
  | _ => false

/-! ### Retirement (R107, R108) -/

/-- The preamble of a vector instruction: 0x05 in an activation beside a resident task (R107). -/
def vectorIssue (i : Instr) (s : State) (k : State → Out) : Out :=
  issue i s fun s =>
    if s.actBesideTask then trap Cause.engineInActivation s.word s else k s

/-- An activation is marked as having executed a vector instruction (R107). -/
def State.markVector (s : State) : State :=
  if s.sel = .act then s.mapSlot fun t => { t with usedVector := true } else s

/-- Places an instruction in the vector queue: two besides the one executing (R108). -/
def pushVector (o : EngOp) (s : State) (k : State → Out) : Out :=
  if s.core.vector.length ≥ 3 then stall s
  else k (State.markVector { s with core := { s.core with vector := s.core.vector ++ [o] } })

/-- A register form: it retires into the queue with its g operands captured. -/
def vectorRegister (i : Instr) (xs : State → List Word) (s : State) : Out :=
  vectorIssue i s fun s => pushVector (s.op i (xs s) [] [] []) s (retire 4)

/-- vmovg and kmovg: the result comes from the engine (R126). -/
def vectorToG (i : Instr) (la : BitVec 4) (d : GReg) (s : State) : Out :=
  vectorIssue i s fun s => pushVector (s.op i [] [] [] []) s fun s => retireOpen 4 d la (s.addResult d (.engine s.tick))

/-- Whether a retired instruction is a vector load. -/
def vectorLoads : Instr → Bool
  | .vld _ _ _ _ _ => true
  | .vlds _ _ _ _ _ => true
  | _ => false

/-- Whether a retired instruction is a vector store on a stream. -/
def vectorStoresOn (str : Stream) : Instr → Bool
  | .vst _ _ q _ _ _ => decide (q = str)
  | .vsts _ _ q _ _ _ => decide (q = str)
  | _ => false

/-- Whether a vector load may retire: everything earlier of the task on its lines but vector loads, which the engine keeps in
order, is over, so that it waits for nothing afterwards (R108, R114, R144, R182). -/
def State.vldReady (s : State) (lines : List Place) : Bool :=
  !(s.loadHeld lines (s.queued.filter fun o => !vectorLoads o.instr)) && !s.unread lines

/-- Whether a vector store may retire: its stream has room for every store it will issue, and everything earlier of the task on its
lines but vector loads and stores of its stream is over; once retired it waits for no settlement (R108, R113, R144, R183). -/
def State.vstReady (s : State) (str : Stream) (n : Nat) (lines : List Place) : Bool :=
  s.streamRoom str n && !(s.storeHeld str lines (s.queued.filter fun o => !vectorLoads o.instr && !vectorStoresOn str o.instr))

/-- A memory form: base and stride checks whatever the mask says, then the enabled lanes' addresses, checks and
translations, and its waits (R111, R113). -/
def vectorMemory (i : Instr) (op : AccOp) (mask : Option KReg) (n : Nat) (a : GReg) (d step : Int) (strided : Option Word)
    (ready : List Word → List Place → State → Bool) (s : State) : Out :=
  vectorIssue i s fun s =>
    if (match mask with | some k => s.core.vector.any fun o => maskWrites o.instr k | none => false) then stall s
    else
      let base : Int := taOfs (s.g a) + d
      if base % n ≠ 0 then trap Cause.misaligned (mkTa (taHandle (s.g a)) (base % 2 ^ 48).toNat) s
      else if (match strided with | some x => decide (x.toInt % n ≠ 0) | none => false) then
        trap Cause.sizeOrStride (strided.getD 0) s
      else
        let m := maskOf s.core.k mask
        match rowAddresses (s.g a) ((enabledLanes m).map fun (j : Fin 64) => d + (j.val : Int) * step) with
        | none => trap Cause.offsetOverflow (s.g a) s
        | some tas =>
          rowsLocated op tas n s fun s ps ts =>
            if !ready ts (ps.flatten.map fun p => p.1.line) s then stall s
            else pushVector (s.op i [m] [] ps ts) s fun s =>
              retire 4 ((if op.reads then s else s.soil ps.flatten).noteFlaws (maskName mask))

/-- VLD vD, [gA + d] (R111). -/
def execVld (mask : Option KReg) (width : Width) (disp : BitVec 5) (a : GReg) (d : VReg) (s : State) : Out :=
  vectorMemory (.vld mask width disp a d) .load mask width.bytes a (s.disp disp (64 * width.bytes)) width.bytes none
    (fun _ lines s => s.vldReady lines) s

/-- VST [gA + d], vD (R111, R113). -/
def execVst (mask : Option KReg) (width : Width) (str : Stream) (disp : BitVec 5) (a : GReg) (d : VReg) (s : State) : Out :=
  vectorMemory (.vst mask width str disp a d) .store mask width.bytes a (s.disp disp (64 * width.bytes)) width.bytes none
    (fun ts lines s => s.vstReady str (lineRuns ts) lines) s

/-- VLDS vD, [gA], eB (R111). -/
def execVlds (mask : Option KReg) (width : Width) (b : EReg) (a : GReg) (d : VReg) (s : State) : Out :=
  vectorMemory (.vlds mask width b a d) .load mask width.bytes a 0 (s.e b).toInt (some (s.e b))
    (fun _ lines s => s.vldReady lines) s

/-- VSTS [gA], eB, vD (R111, R113). -/
def execVsts (mask : Option KReg) (width : Width) (str : Stream) (b : EReg) (a : GReg) (d : VReg) (s : State) : Out :=
  vectorMemory (.vsts mask width str b a d) .store mask width.bytes a 0 (s.e b).toInt (some (s.e b))
    (fun ts lines s => s.vstReady str ts.length lines) s

/-! ### Register forms (R115 to R126) -/

/-- VFADD vD, vA, vB (R116). -/
def execVfadd (mask : Option KReg) (d a b : VReg) (s : State) : Out :=
  vectorRegister (.vfadd mask d a b) (fun _ => []) s

/-- VFSUB vD, vA, vB (R116). -/
def execVfsub (mask : Option KReg) (d a b : VReg) (s : State) : Out :=
  vectorRegister (.vfsub mask d a b) (fun _ => []) s

/-- VFMUL vD, vA, vB (R116). -/
def execVfmul (mask : Option KReg) (d a b : VReg) (s : State) : Out :=
  vectorRegister (.vfmul mask d a b) (fun _ => []) s

/-- VFMIN vD, vA, vB (R116). -/
def execVfmin (mask : Option KReg) (d a b : VReg) (s : State) : Out :=
  vectorRegister (.vfmin mask d a b) (fun _ => []) s

/-- VFMAX vD, vA, vB (R116). -/
def execVfmax (mask : Option KReg) (d a b : VReg) (s : State) : Out :=
  vectorRegister (.vfmax mask d a b) (fun _ => []) s

/-- VFMA vD, vA, vB (R116). -/
def execVfma (mask : Option KReg) (d a b : VReg) (s : State) : Out :=
  vectorRegister (.vfma mask d a b) (fun _ => []) s

/-- VFMS vD, vA, vB (R116). -/
def execVfms (mask : Option KReg) (d a b : VReg) (s : State) : Out :=
  vectorRegister (.vfms mask d a b) (fun _ => []) s

/-- VFNMA vD, vA, vB (R116). -/
def execVfnma (mask : Option KReg) (d a b : VReg) (s : State) : Out :=
  vectorRegister (.vfnma mask d a b) (fun _ => []) s

/-- VFABS vD, vA (R116). -/
def execVfabs (mask : Option KReg) (d a : VReg) (s : State) : Out :=
  vectorRegister (.vfabs mask d a) (fun _ => []) s

/-- VFNEG vD, vA (R116). -/
def execVfneg (mask : Option KReg) (d a : VReg) (s : State) : Out :=
  vectorRegister (.vfneg mask d a) (fun _ => []) s

/-- VADD vD, vA, vB (R117). -/
def execVadd (mask : Option KReg) (d a b : VReg) (s : State) : Out :=
  vectorRegister (.vadd mask d a b) (fun _ => []) s

/-- VSUB vD, vA, vB (R117). -/
def execVsub (mask : Option KReg) (d a b : VReg) (s : State) : Out :=
  vectorRegister (.vsub mask d a b) (fun _ => []) s

/-- VMUL vD, vA, vB (R117). -/
def execVmul (mask : Option KReg) (d a b : VReg) (s : State) : Out :=
  vectorRegister (.vmul mask d a b) (fun _ => []) s

/-- VAND vD, vA, vB (R117). -/
def execVand (mask : Option KReg) (d a b : VReg) (s : State) : Out :=
  vectorRegister (.vand mask d a b) (fun _ => []) s

/-- VOR vD, vA, vB (R117). -/
def execVor (mask : Option KReg) (d a b : VReg) (s : State) : Out :=
  vectorRegister (.vor mask d a b) (fun _ => []) s

/-- VXOR vD, vA, vB (R117). -/
def execVxor (mask : Option KReg) (d a b : VReg) (s : State) : Out :=
  vectorRegister (.vxor mask d a b) (fun _ => []) s

/-- VSLL vD, vA, vB (R117). -/
def execVsll (mask : Option KReg) (d a b : VReg) (s : State) : Out :=
  vectorRegister (.vsll mask d a b) (fun _ => []) s

/-- VSRL vD, vA, vB (R117). -/
def execVsrl (mask : Option KReg) (d a b : VReg) (s : State) : Out :=
  vectorRegister (.vsrl mask d a b) (fun _ => []) s

/-- VSRA vD, vA, vB (R117). -/
def execVsra (mask : Option KReg) (d a b : VReg) (s : State) : Out :=
  vectorRegister (.vsra mask d a b) (fun _ => []) s

/-- VMIN vD, vA, vB (R117). -/
def execVmin (mask : Option KReg) (d a b : VReg) (s : State) : Out :=
  vectorRegister (.vmin mask d a b) (fun _ => []) s

/-- VMAX vD, vA, vB (R117). -/
def execVmax (mask : Option KReg) (d a b : VReg) (s : State) : Out :=
  vectorRegister (.vmax mask d a b) (fun _ => []) s

/-- VCMP kD, vA, vB (R118). -/
def execVcmp (c : Cmp) (mask : Option KReg) (d : KReg) (a b : VReg) (s : State) : Out :=
  vectorRegister (.vcmp c mask d a b) (fun _ => []) s

/-- VSEL vD, vA, vB, kk (R119). -/
def execVsel (m : KReg) (d a b : VReg) (s : State) : Out :=
  vectorRegister (.vsel m d a b) (fun _ => []) s

/-- VCVT vD, vA (R120). -/
def execVcvt (c : Cvt) (mask : Option KReg) (rm : Rm) (d a : VReg) (s : State) : Out :=
  vectorRegister (.vcvt c mask rm d a) (fun _ => []) s

/-- VRFADD vD, vA (R89, R121). -/
def execVrfadd (mask : Option KReg) (d a : VReg) (s : State) : Out :=
  vectorRegister (.vrfadd mask d a) (fun _ => []) s

/-- VRFMAX vD, vA (R89, R121). -/
def execVrfmax (mask : Option KReg) (d a : VReg) (s : State) : Out :=
  vectorRegister (.vrfmax mask d a) (fun _ => []) s

/-- VRFMIN vD, vA (R89, R121). -/
def execVrfmin (mask : Option KReg) (d a : VReg) (s : State) : Out :=
  vectorRegister (.vrfmin mask d a) (fun _ => []) s

/-- VRADD vD, vA (R89, R121). -/
def execVradd (mask : Option KReg) (d a : VReg) (s : State) : Out :=
  vectorRegister (.vradd mask d a) (fun _ => []) s

/-- VRMAX vD, vA (R89, R121). -/
def execVrmax (mask : Option KReg) (d a : VReg) (s : State) : Out :=
  vectorRegister (.vrmax mask d a) (fun _ => []) s

/-- VRMIN vD, vA (R89, R121). -/
def execVrmin (mask : Option KReg) (d a : VReg) (s : State) : Out :=
  vectorRegister (.vrmin mask d a) (fun _ => []) s

/-- VRCP vD, vA (R122). -/
def execVrcp (mask : Option KReg) (d a : VReg) (s : State) : Out :=
  vectorRegister (.vrcp mask d a) (fun _ => []) s

/-- VRSQRT vD, vA (R122). -/
def execVrsqrt (mask : Option KReg) (d a : VReg) (s : State) : Out :=
  vectorRegister (.vrsqrt mask d a) (fun _ => []) s

/-- VSQRT vD, vA (R122). -/
def execVsqrt (mask : Option KReg) (d a : VReg) (s : State) : Out :=
  vectorRegister (.vsqrt mask d a) (fun _ => []) s

/-- VEXP2 vD, vA (R122). -/
def execVexp2 (mask : Option KReg) (d a : VReg) (s : State) : Out :=
  vectorRegister (.vexp2 mask d a) (fun _ => []) s

/-- VLOG2 vD, vA (R122). -/
def execVlog2 (mask : Option KReg) (d a : VReg) (s : State) : Out :=
  vectorRegister (.vlog2 mask d a) (fun _ => []) s

/-- VEXP vD, vA (R122). -/
def execVexp (mask : Option KReg) (d a : VReg) (s : State) : Out :=
  vectorRegister (.vexp mask d a) (fun _ => []) s

/-- VTANH vD, vA (R122). -/
def execVtanh (mask : Option KReg) (d a : VReg) (s : State) : Out :=
  vectorRegister (.vtanh mask d a) (fun _ => []) s

/-- VPERM vD, vA, vB (R123). -/
def execVperm (mask : Option KReg) (d a b : VReg) (s : State) : Out :=
  vectorRegister (.vperm mask d a b) (fun _ => []) s

/-- VROT vD, vA, gB (R123). -/
def execVrot (mask : Option KReg) (d a : VReg) (b : GReg) (s : State) : Out :=
  vectorRegister (.vrot mask d a b) (fun s => [s.g b]) s

/-- VSPLAT vD, gA (R123). -/
def execVsplat (mask : Option KReg) (d : VReg) (a : GReg) (s : State) : Out :=
  vectorRegister (.vsplat mask d a) (fun s => [s.g a]) s

/-- VINS vD, gA, gB (R123). -/
def execVins (mask : Option KReg) (d : VReg) (a b : GReg) (s : State) : Out :=
  vectorRegister (.vins mask d a b) (fun s => [s.g a, s.g b]) s

/-- VREV vD, vA (R123). -/
def execVrev (mask : Option KReg) (d a : VReg) (s : State) : Out :=
  vectorRegister (.vrev mask d a) (fun _ => []) s

/-- KAND kD, kA, kB (R124). -/
def execKand (d a b : KReg) (s : State) : Out :=
  vectorRegister (.kand d a b) (fun _ => []) s

/-- KOR kD, kA, kB (R124). -/
def execKor (d a b : KReg) (s : State) : Out :=
  vectorRegister (.kor d a b) (fun _ => []) s

/-- KXOR kD, kA, kB (R124). -/
def execKxor (d a b : KReg) (s : State) : Out :=
  vectorRegister (.kxor d a b) (fun _ => []) s

/-- KNOT kD, kA (R124). -/
def execKnot (d a : KReg) (s : State) : Out :=
  vectorRegister (.knot d a) (fun _ => []) s

/-- KMOV kD, kA (R124). -/
def execKmov (d a : KReg) (s : State) : Out :=
  vectorRegister (.kmov d a) (fun _ => []) s

/-- KSET kD (R124). -/
def execKset (d : KReg) (s : State) : Out :=
  vectorRegister (.kset d) (fun _ => []) s

/-- KCLR kD (R124). -/
def execKclr (d : KReg) (s : State) : Out :=
  vectorRegister (.kclr d) (fun _ => []) s

/-- KFROMG kD, gA (R124). -/
def execKfromg (d : KReg) (a : GReg) (s : State) : Out :=
  vectorRegister (.kfromg d a) (fun s => [s.g a]) s

/-- VSCL vD, vA, vB (R125). -/
def execVscl (mask : Option KReg) (d a b : VReg) (s : State) : Out :=
  vectorRegister (.vscl mask d a b) (fun _ => []) s

/-- VSCLS vD, vA, gB (R125). -/
def execVscls (mask : Option KReg) (d a : VReg) (b : GReg) (s : State) : Out :=
  vectorRegister (.vscls mask d a b) (fun s => [s.g b]) s

/-- VMOVG gD, vA, LANE (R126). -/
def execVmovg (la : BitVec 4) (d : GReg) (a : VReg) (lane : Fin 64) (s : State) : Out :=
  vectorToG (.vmovg la d a lane) la d s

/-- KMOVG gD, kA (R126). -/
def execKmovg (la : BitVec 4) (d : GReg) (a : KReg) (s : State) : Out :=
  vectorToG (.kmovg la d a) la d s

/-! ### Results -/

/-- What a vector instruction writes. -/
inductive Written where
  | v (d : VReg) (x : Lanes)
  | k (d : KReg) (x : Word)
  | g (x : Word)
  | nothing
  deriving DecidableEq, Repr

/-- Neighbours combined: one level of the tree of R89. -/
def pairUp (f : Word32 → Word32 → Word32) : List Word32 → List Word32
  | a :: b :: l => f a b :: pairUp f l
  | l => l

/-- The fixed tree over 64 lanes (R89). -/
def tree (f : Word32 → Word32 → Word32) (l : List Word32) : Word32 :=
  (pairUp f (pairUp f (pairUp f (pairUp f (pairUp f (pairUp f l)))))).headD 0

/-- A reduction: excluded lanes enter as the identity, the result goes to every lane (R121). -/
def reduction (f : Word32 → Word32 → Word32) (identity : Word32) (m : Word) (x : Lanes) : Lanes :=
  Vector.replicate 64 (tree f ((List.finRange 64).map fun i => if m.getLsbD i.val then x[i] else identity))

/-- The smaller of two INT32 lanes. -/
def minI (a b : Word32) : Word32 := if b.toInt < a.toInt then b else a
/-- The larger of two INT32 lanes. -/
def maxI (a b : Word32) : Word32 := if a.toInt < b.toInt then b else a

/-- The conditions of vcmp (R118). -/
def cmpLane (c : Cmp) (a b : Word32) : Bool :=
  match c with
  | .feq => (fp32 a).feq (fp32 b)
  | .fne => !(fp32 a).feq (fp32 b)
  | .flt => (fp32 a).lt (fp32 b)
  | .fle => (fp32 a).lt (fp32 b) || (fp32 a).feq (fp32 b)
  | .fun => (fp32 a).isNan || (fp32 b).isNan
  | .ieq => decide (a = b)
  | .ine => decide (a ≠ b)
  | .ilt => decide (a.toInt < b.toInt)
  | .ile => decide (a.toInt ≤ b.toInt)

/-- A mask from a condition on lanes. -/
def maskWhere (f : Fin 64 → Bool) : Word :=
  BitVec.ofNat 64 (((List.finRange 64).map fun i => if f i then 2 ^ i.val else 0).foldl (· + ·) 0)

/-- A lane by index modulo 64 (R123). -/
def laneAt (x : Lanes) (n : Nat) : Word32 := x[n % 64]'(Nat.mod_lt _ (by decide))

/-- vscl: round_fp32(fp8(a) × scale) (R125). -/
def scaleLane (a sc : Word32) : Word32 := roundFp32 ((fp8 a).mul (fp32 sc))

/-- The result of a register form on the registers it finds, with its captured g operands (R115 to R126). -/
def vectorResult (v : Vector Lanes 16) (k : Vector Word 4) (xs : List Word) : Instr → Written
  | .vfadd mask d a b => .v d (lanewise (maskOf k mask) v[d] fun i => fadd v[a][i] v[b][i])
  | .vfsub mask d a b => .v d (lanewise (maskOf k mask) v[d] fun i => fsub v[a][i] v[b][i])
  | .vfmul mask d a b => .v d (lanewise (maskOf k mask) v[d] fun i => fmul v[a][i] v[b][i])
  | .vfmin mask d a b => .v d (lanewise (maskOf k mask) v[d] fun i => fmin v[a][i] v[b][i])
  | .vfmax mask d a b => .v d (lanewise (maskOf k mask) v[d] fun i => fmax v[a][i] v[b][i])
  | .vfma mask d a b => .v d (lanewise (maskOf k mask) v[d] fun i => ffma v[a][i] v[b][i] v[d][i])
  | .vfms mask d a b => .v d (lanewise (maskOf k mask) v[d] fun i => ffms v[a][i] v[b][i] v[d][i])
  | .vfnma mask d a b => .v d (lanewise (maskOf k mask) v[d] fun i => ffnma v[a][i] v[b][i] v[d][i])
  | .vfabs mask d a => .v d (lanewise (maskOf k mask) v[d] fun i => v[a][i] &&& 0x7FFFFFFF)
  | .vfneg mask d a => .v d (lanewise (maskOf k mask) v[d] fun i => v[a][i] ^^^ 0x80000000)
  | .vadd mask d a b => .v d (lanewise (maskOf k mask) v[d] fun i => v[a][i] + v[b][i])
  | .vsub mask d a b => .v d (lanewise (maskOf k mask) v[d] fun i => v[a][i] - v[b][i])
  | .vmul mask d a b => .v d (lanewise (maskOf k mask) v[d] fun i => v[a][i] * v[b][i])
  | .vand mask d a b => .v d (lanewise (maskOf k mask) v[d] fun i => v[a][i] &&& v[b][i])
  | .vor mask d a b => .v d (lanewise (maskOf k mask) v[d] fun i => v[a][i] ||| v[b][i])
  | .vxor mask d a b => .v d (lanewise (maskOf k mask) v[d] fun i => v[a][i] ^^^ v[b][i])
  | .vsll mask d a b => .v d (lanewise (maskOf k mask) v[d] fun i => v[a][i] <<< (v[b][i].toNat % 32))
  | .vsrl mask d a b => .v d (lanewise (maskOf k mask) v[d] fun i => v[a][i] >>> (v[b][i].toNat % 32))
  | .vsra mask d a b => .v d (lanewise (maskOf k mask) v[d] fun i => v[a][i].sshiftRight (v[b][i].toNat % 32))
  | .vmin mask d a b => .v d (lanewise (maskOf k mask) v[d] fun i => minI v[a][i] v[b][i])
  | .vmax mask d a b => .v d (lanewise (maskOf k mask) v[d] fun i => maxI v[a][i] v[b][i])
  | .vcmp c mask d a b => .k d (maskWhere fun i => (maskOf k mask).getLsbD i.val && cmpLane c v[a][i] v[b][i])
  | .vsel m d a b => .v d (Vector.ofFn fun i => if (k[m]).getLsbD i.val then v[a][i] else v[b][i])
  | .vcvt c mask rm d a => .v d (lanewise (maskOf k mask) v[d] fun i => convert c rm v[a][i])
  | .vrfadd mask d a => .v d (reduction fadd 0x80000000 (maskOf k mask) v[a])
  | .vrfmax mask d a => .v d (reduction fmax 0xFF800000 (maskOf k mask) v[a])
  | .vrfmin mask d a => .v d (reduction fmin 0x7F800000 (maskOf k mask) v[a])
  | .vradd mask d a => .v d (reduction (· + ·) 0 (maskOf k mask) v[a])
  | .vrmax mask d a => .v d (reduction maxI 0x80000000 (maskOf k mask) v[a])
  | .vrmin mask d a => .v d (reduction minI 0x7FFFFFFF (maskOf k mask) v[a])
  | .vrcp mask d a => .v d (lanewise (maskOf k mask) v[d] fun i => special .rcp v[a][i])
  | .vrsqrt mask d a => .v d (lanewise (maskOf k mask) v[d] fun i => special .rsqrt v[a][i])
  | .vsqrt mask d a => .v d (lanewise (maskOf k mask) v[d] fun i => special .sqrt v[a][i])
  | .vexp2 mask d a => .v d (lanewise (maskOf k mask) v[d] fun i => special .exp2 v[a][i])
  | .vlog2 mask d a => .v d (lanewise (maskOf k mask) v[d] fun i => special .log2 v[a][i])
  | .vexp mask d a => .v d (lanewise (maskOf k mask) v[d] fun i => special .exp v[a][i])
  | .vtanh mask d a => .v d (lanewise (maskOf k mask) v[d] fun i => special .tanh v[a][i])
  | .vperm mask d a b => .v d (lanewise (maskOf k mask) v[d] fun i => laneAt v[a] v[b][i].toNat)
  | .vrot mask d a _ => .v d (lanewise (maskOf k mask) v[d] fun i => laneAt v[a] (i.val + bits (xs.getD 0 0) 0 6))
  | .vsplat mask d _ => .v d (lanewise (maskOf k mask) v[d] fun _ => (xs.getD 0 0).truncate 32)
  | .vins mask d _ _ => .v d (lanewise (maskOf k mask) v[d] fun i =>
      if i.val = bits (xs.getD 1 0) 0 6 then (xs.getD 0 0).truncate 32 else v[d][i])
  | .vrev mask d a => .v d (lanewise (maskOf k mask) v[d] fun i => laneAt v[a] (63 - i.val))
  | .kand d a b => .k d (k[a] &&& k[b])
  | .kor d a b => .k d (k[a] ||| k[b])
  | .kxor d a b => .k d (k[a] ^^^ k[b])
  | .knot d a => .k d (~~~k[a])
  | .kmov d a => .k d (k[a])
  | .kset d => .k d (BitVec.allOnes 64)
  | .kclr d => .k d (0)
  | .kfromg d _ => .k d (xs.getD 0 0)
  | .vscl mask d a b => .v d (lanewise (maskOf k mask) v[d] fun i => scaleLane v[a][i] v[b][i])
  | .vscls mask d a _ => .v d (lanewise (maskOf k mask) v[d] fun i => scaleLane v[a][i] ((xs.getD 0 0).truncate 32))
  | .vmovg _ _ a lane => .g ((v[a][lane]).zeroExtend 64)
  | .kmovg _ _ a => .g k[a]
  | _ => .nothing

/-- A register written whole holds no error any more (R327). -/
def Core.mend (c : Core) (r : RegName) (whole : Bool) : Core := if whole then { c with flaws := c.flaws.filter (· ≠ r) } else c

/-- Whether an instruction reads a register of the engine for a g register whose reader is told of an error (R327). -/
def toldLater : Instr → Bool
  | .vmovg _ _ _ _ => true
  | _ => false

/-- Whether the engine meets an uncorrectable error in a register that an instruction reads (R327). -/
def Core.flawedFor (c : Core) (i : Instr) : Bool := (vectorReads i).any c.flaws.contains

/-- Writes a result; of a damaged register vmovg writes nothing, and the first instruction that waits for its gD traps (R327). -/
def writeVector (core : Nat) (o : EngOp) (w : Written) (s : State) : State :=
  match w with
  | .v d x => s.onCore core fun c => { c with v := c.v.set d x }.mend (.v d) (!keepsLanes o.instr)
  | .k d x => s.onCore core fun c => { c with k := c.k.set d x }.mend (.k d) true
  | .g x => if toldLater o.instr && (s.coreOf core).flawedFor o.instr then s.engineAnswers core o.id (.poison 0) else s.engineGives core o.id x
  | .nothing => s

/-! ### The engine (R108, R113, R327) -/

/-- The vector instruction at the head of the queue, replaced, or done with. -/
def State.setVectorHead (s : State) (o : EngOp) : State :=
  { s with core := { s.core with vector := if o.done ≥ o.places.length then s.core.vector.drop 1 else o :: s.core.vector.drop 1 } }

/-- Lanes the next access of a memory form covers: a line's worth, or one lane where strided. -/
def EngOp.group (o : EngOp) : Nat :=
  match o.instr with
  | .vld _ _ _ _ _ => lineRun (o.tas.drop o.done)
  | .vst _ _ _ _ _ _ => lineRun (o.tas.drop o.done)
  | _ => 1

/-- The lanes of the next access: lane, tree address, and the places of its bytes. -/
def EngOp.next (o : EngOp) : List (Fin 64 × Word × List (Place × Nat)) :=
  (((enabledLanes (o.xs.getD 0 0)).zip (o.tas.zip o.places)).drop o.done).take o.group

/-- Reads the next lanes of a load. A poisoned lane ends the instruction: it and every later lane keep their bits, and
the error waits for the task's next instruction (R327). The state is focused on the instruction's slot. -/
def loadLanes (o : EngOp) (d : VReg) : List (Fin 64 × Word × List (Place × Nat)) → Nat → State → State
  | [], n, s =>
    let whole := decide (o.done + n ≥ o.places.length ∧ o.xs.getD 0 0 = BitVec.allOnes 64)
    { s with core := s.core.mend (.v d) whole }.setVectorHead { o with done := o.done + n }
  | (i, ta, ps) :: l, n, s =>
    match ps with
    | [] => loadLanes o d l (n + 1) s
    | p :: _ => match firstPoison s ta p.1 p.2 with
      | some b =>
        let s := s.setVectorHead { o with done := o.places.length }
        { s with core := { s.core with detected := s.core.detected ++ [(s.sel, b)] } }
      | none =>
        let x := BitVec.ofNat 32 (s.natAt p.1 p.2)
        loadLanes o d l (n + 1) { s with core := { s.core with v := s.core.v.set d (s.core.v[d].set i x) } }

/-- The bytes one store of a vst carries: from its first lane's first byte to its last lane's last, enabled where a lane is
(R113). -/
def storeData (x : Lanes) (n : Nat) (first : Nat) : List (Fin 64 × Word × List (Place × Nat)) → List (Option Byte)
  | [] => []
  | (i, ta, _) :: l =>
    List.replicate (taOfs ta - first) none ++ (natBytes n x[i].toNat).map some ++ storeData x n (taOfs ta + n) l

/-- Sends the next store of vst or vsts: its stream slot was reserved and its lines were free at retirement (R108). -/
def storeLanes (o : EngOp) (str : Stream) (d : VReg) (n : Nat) (s : State) : State :=
  match o.next with
  | [] => s
  | (i, ta, ps) :: l =>
    (s.send str (.bytes (storeData s.core.v[d] n (taOfs ta) ((i, ta, ps) :: l))) ta none (ps.map (·.1))).setVectorHead
      { o with done := o.done + (l.length + 1), vt := s.vt }

/-- One step of the instruction at the head of the vector queue; a form with no lane left has nothing to do. -/
def vectorStep (o : EngOp) (s : State) : State :=
  match o.instr with
  | .vld _ _ _ _ d => loadLanes o d o.next 0 s
  | .vlds _ _ _ _ d => loadLanes o d o.next 0 s
  | .vst _ w str _ _ d => if o.next.isEmpty then s.setVectorHead o else storeLanes o str d w.bytes s
  | .vsts _ w str _ _ d => if o.next.isEmpty then s.setVectorHead o else storeLanes o str d w.bytes s
  | i => (writeVector s.core.id o (vectorResult s.core.v s.core.k o.xs i) s).setVectorHead o

/-- VECTOR_ENGINE_EXECUTE: the engine executes its next instruction, in program order; a memory form goes a line or a lane
at a time (R108, R113). -/
def execVectorEngineExecute (core : Nat) (s : State) : Out :=
  if core ≥ Config.cores then .fault .noSuchAgent
  else match (s.coreOf core).vector with
    | [] => .next s
    | o :: _ => .next (s.within core o.sel fun s => vectorStep o (if toldLater o.instr then s else s.noteFlaws (vectorReads o.instr)))

end Sys2Proof.Machine
end

