-- ==== Sys2Proof/Machine/Hub.lean ====
section
/-! DEFINITION. What the hub reads and writes in memory for itself (R304, R318, R332 of spec/21 and spec/23), and the trace
records of engines (R339, R340). A record the hub writes to the package's memory commits in the step
that makes it (log entry 22); to host memory it travels as an RMA Write (R358). -/

namespace Sys2Proof.Machine

/-- The endpoint the hub's own accesses come from: dispatch core 0 (R2). -/
def hubCore : Nat := 0x1118

/-- Local endpoint of an engine (R2, R164). -/
def engineLocal : EngineRef → Nat
  | .copy c => c
  | .layout n => 0x1000 + n

/-- Origin of an engine's stores (R140, R164). -/
def engineOrigin : EngineRef → Nat
  | .copy _ => 2
  | .layout _ => 0

/-- The places a hub access reaches in a context; the hub has no SRAM of its own to name by handle 0 (R314). -/
def State.hubReach (s : State) (ctx : Nat) (op : AccOp) (align : Bool) (ta : Word) (n : Nat) : Except Cause (State × List Place) :=
  if taHandle ta = 0 then .error Cause.handleInvalid else s.direct hubCore ctx op align ta n 4

/-- Applies a store at its home at once: refused, or committed with all it sets in motion (R220, R326). -/
def State.applyNow (s : State) (x : Store) : Except Cause State :=
  match s.refusal x with
  | some c => .error c
  | none => .ok ((((s.clearPoisonIf x).applyOp x.place x.op).1.stampLine x).afterCommit s x)

/-- A store of the hub at a place, with no stream of its own. -/
def State.hubStore (s : State) (ctx : Nat) (op : StoreOp) (ta : Word) (p : Place) : Store :=
  { src := hubCore, origin := 0, stream := 0, seq := 0, pred := none, stamp := s.vt, covered := true, place := p, op := op,
    phase := .issued, kernel := 0, ctx := ctx, reply := none, unit := none, sends := 0, sent := s.vt, out := true, via := none,
    packet := none, hub := none, ta := ta, replica := 0 }

/-- The next sequence of a stream of a dispatch core, whose task slot holds the counter (R140, R292). -/
def State.dcNext (s : State) (id : Nat) (str : Stream) : BitVec 24 × State :=
  let n := (s.coreOf id).task.streams[str] + 1
  (n, s.onSlot id .task fun t => { t with streams := t.streams.set str n })

/-- A store of a dispatch core on one of its streams, as any other store from issue to settlement. -/
def State.dcStore (s : State) (id : Nat) (str : Stream) (hub : Option HubWrite) (ctx : Nat) (op : StoreOp) (ta : Word)
    (ps : List Place) : State :=
  let r := s.dcNext id str
  r.2.putStores { src := id, origin := 0, kernel := 0, ctx := ctx, covered := true, packet := none, hub := hub } str r.1 op ta none none ps 0

/-- A dispatch core as the writer, on its stream s7, which no packet uses (R338; log entry 72). -/
def dcWriter (dc : Nat) (what : HubWrite) : HubSource := { src := dc, origin := 0, stream := 7, what := what }

/-- The next sequence of a writer's stream: a dispatch core's, or an engine's (R140). -/
def State.hubNext (s : State) (w : HubSource) : BitVec 24 × State :=
  if isDispatch w.src then s.dcNext w.src w.stream
  else
    let r : EngineRef := if w.src < 4096 then .copy w.src else .layout (w.src - 0x1000)
    let n := (s.engine r).streams[w.stream] + 1
    (n, s.setEngine r { s.engine r with streams := (s.engine r).streams.set w.stream n })

/-- A write for the hub enters its stream (R358). -/
def State.hubIssue (s : State) (x : HubPiece) : State :=
  let r := s.hubNext x.w
  r.2.putStores { src := x.w.src, origin := x.w.origin, kernel := 0, ctx := x.ctx, covered := true, packet := none, hub := some x.w.what }
    x.w.stream r.1 x.op x.ta none none [x.place] 0

/-- Whether two writers share a stream. -/
def HubSource.shares (a b : HubSource) : Bool := decide (a.src = b.src ∧ a.origin = b.origin ∧ a.stream = b.stream)

/-- A write for the hub goes to host memory or another device: at once, or behind those that wait for room in its stream, which holds at
most 64 unsettled stores (R140, R358). -/
def State.hubSend (s : State) (x : HubPiece) : State :=
  if decide (s.unsettled x.w.src x.w.origin x.w.stream < 64) && !s.hubWork.any (fun y => y.w.shares x.w) then s.hubIssue x
  else { s with hubWork := s.hubWork ++ [x] }

/-- The writes that wait go on as far as there is room. -/
def State.hubOn (s : State) : State :=
  if s.hubWork.isEmpty then s else s.hubWork.foldl State.hubSend { s with hubWork := [] }

/-- Applies one operation of the hub at every place: at once in the package (log entry 22), and by RMA Write, on the writer's stream, where
the place is host memory or another device (R358; log entry 72). -/
def State.applyAll (s : State) (w : HubSource) (ctx : Nat) (op : StoreOp) (ta : Word) : List Place → Except Cause State
  | [] => .ok s
  | p :: l => match p with
    | .host _ _ => (s.hubSend { w := w, ctx := ctx, op := op, ta := ta, place := p }).applyAll w ctx op ta l
    | .peer _ _ _ => (s.hubSend { w := w, ctx := ctx, op := op, ta := ta, place := p }).applyAll w ctx op ta l
    | _ => match s.applyNow (s.hubStore ctx op ta p) with
      | .error c => .error c
      | .ok t => t.applyAll w ctx op ta l

/-- Writes bytes at a tree address, a line at a time: pieces as `cutLines` gives them. -/
def State.hubPieces (s : State) (w : HubSource) (ctx : Nat) (ta : Word) (l : List Byte) : List (Nat × Nat) → Except Cause State
  | [] => .ok s
  | (k, n) :: r =>
    let a := mkTa (taHandle ta) (taOfs ta + k)
    match s.hubReach ctx .store false a n with
    | .error c => .error c
    | .ok (t, ps) => match t.applyAll w ctx (.bytes (((l.drop k).take n).map some)) a ps with
      | .error c => .error c
      | .ok u => u.hubPieces w ctx ta l r

/-- Writes bytes at a tree address of a context: checked whole first, then a line at a time. -/
def State.hubWrite (s : State) (w : HubSource) (ctx : Nat) (ta : Word) (l : List Byte) : Except Cause State :=
  match s.hubReach ctx .store false ta l.length with
  | .error c => .error c
  | .ok _ => s.hubPieces w ctx ta l (cutLines (l.length / 64 + 2) (taOfs ta) 0 l.length)

/-- Whether a write of a kind has not been acknowledged yet, or still waits for room (R216, R338, R342, R358). -/
def State.hubDue (s : State) (what : HubWrite) : Bool :=
  s.hubWork.any (fun x => decide (x.w.what = what)) || s.stores.any fun x => decide (x.hub = some what ∧ x.phase ≠ .lost)

/-- Whether data a dispatch core has written to host memory has not been acknowledged yet (R216, R358). -/
def State.dataDue (s : State) (id : Nat) : Bool :=
  s.hubWork.any (fun x => decide (x.w.src = id ∧ x.w.what = .data)) || s.stores.any fun x => decide (x.src = id ∧ x.hub = some .data ∧ x.phase ≠ .lost)

/-- Dwords as bytes (R5). -/
def dwordBytes (l : List Word) : List Byte := l.flatMap fun x => natBytes 8 x.toNat

/-- An atomic-like operation of the hub at a tree address. -/
def State.hubApply (s : State) (w : HubSource) (ctx : Nat) (acc : AccOp) (op : StoreOp) (ta : Word) : Except Cause State :=
  match s.hubReach ctx acc true ta op.length with
  | .error c => .error c
  | .ok (t, ps) => t.applyAll w ctx op ta ps

/-- Reads n bytes at a tree address, a piece at a time; poison answers 0x2F (R326). -/
def State.hubPiecesRead (s : State) (ctx : Nat) (ta : Word) : List (Nat × Nat) → Except Cause (List Byte)
  | [] => .ok []
  | (k, n) :: r => match s.hubReach ctx .load false (mkTa (taHandle ta) (taOfs ta + k)) n with
    | .error c => .error c
    | .ok (_, ps) => match ps with
      | [p] => if s.poisonedAt p then .error Cause.errorConsumed
          else (s.hubPiecesRead ctx ta r).map fun l => s.bytesAt p n ++ l
      | _ => .error Cause.kindMismatch

/-- Reads n bytes at a tree address of a context. -/
def State.hubRead (s : State) (ctx : Nat) (ta : Word) (n : Nat) : Except Cause (List Byte) :=
  match s.hubReach ctx .load false ta n with
  | .error c => .error c
  | .ok _ => s.hubPiecesRead ctx ta (cutLines (n / 64 + 2) (taOfs ta) 0 n)

/-- Dword n of bytes. -/
def dwordOf (l : List Byte) (n : Nat) : Word := BitVec.ofNat 64 (leNat ((l.drop (8 * n)).take 8))

/-! ### The hub's own writes to the system objects (R293, R301; log entry 22) -/

/-- A store of the hub at a physical address; a refused one changes nothing. -/
def State.hubAt (s : State) (pa : Nat) (op : StoreOp) : State :=
  match s.applyNow (s.hubStore pfContext op 0 (.hbm pa)) with
  | .ok t => t
  | .error _ => s

/-- A dword of a system object. -/
def State.hubPut (s : State) (pa : Nat) (x : Word) : State := s.hubAt pa (.bytes ((natBytes 8 x.toNat).map some))

/-- A CADD of one to a system counter. -/
def State.hubCount (s : State) (pa : Nat) : State := s.hubAt pa (.cadd 1)

/-! ### Attachments (R332) -/

/-- A dword of an attachment slot. -/
def State.attach (s : State) (a ofs : Nat) : Word := s.hubDword (objectBase 6 + 1024 * a + ofs)

/-- Whether a slot's fields keep the table of R332: KERNEL's zero bits, TRACECAP from 4 to 20 (or zero beside TRACE zero, as the slot is
at reset; log entry 73), the zero tail. -/
def State.attachOk (s : State) (a : Nat) : Bool :=
  (s.attach a 0).getLsbD 63 && decide (bits (s.attach a 0) 60 2 = 0) &&
    decide (bits (s.attach a 0x20) 5 59 = 0) && (decide (s.attach a 0x18 = 0 ∧ s.attach a 0x20 = 0) ||
      decide (4 ≤ bits (s.attach a 0x20) 0 5 ∧ bits (s.attach a 0x20) 0 5 ≤ 20)) &&
    (List.range 24).all fun i => decide (s.attach a (0x340 + 8 * i) = 0)

/-- The slot that attaches a kernel's LAUNCH: its queue and packet index. -/
def State.attachmentOf (s : State) (queue index : Nat) : Option Nat :=
  (List.range 64).find? fun a => decide (a ≠ 0) && s.attachOk a &&
    decide (bits (s.attach a 0) 48 12 = queue ∧ bits (s.attach a 0) 0 48 = index % 2 ^ 48)

/-- The slot whose QUEUE names a queue. -/
def State.attachmentOfQueue (s : State) (queue : Nat) : Option Nat :=
  (List.range 64).find? fun a => decide (a ≠ 0) && s.attachOk a && decide (bits (s.attach a 0) 48 12 = queue)

/-- The attachment of a kernel. -/
def State.attachmentOfKernel (s : State) (k : Nat) : Option Nat :=
  match tabGet s.kernels k with
  | some x => s.attachmentOf x.queue x.index
  | none => none

/-! ### Trace records (R339, R340) -/

/-- Records written to a ring so far (log entry 88). -/
def State.ringCount (s : State) (ring : Word) : Nat := tabGetD s.ringCounts ring.toNat 0

/-- One more record has been written to a ring. -/
def State.countRing (s : State) (ring : Word) : State :=
  { s with ringCounts := tabPut s.ringCounts ring.toNat (s.ringCount ring + 1) }

/-- A stream of an engine that no command of its uses: the highest (R339). -/
def Engine.freeStream (e : Engine) : Stream :=
  let used := e.queue ++ e.running.toList.map (·.cmd) ++ e.settling.map (·.cmd)
  ((List.finRange 8).reverse.find? fun n => !used.any fun c => c.stream = n).getD 7

/-- An engine as the writer of an attachment's trace records (R339). -/
def State.tracer (s : State) (r : EngineRef) (a : Nat) : HubSource :=
  { src := engineLocal r, origin := engineOrigin r, stream := (s.engine r).freeStream, what := .trace a }

/-- Appends a record to an attachment's trace ring, and the ring's count after it. -/
def State.traceAppend (s : State) (r : EngineRef) (a : Nat) (l : List Word) : Except Cause State :=
  let ring := s.attach a 0x18
  let n := s.ringCount ring
  match s.hubWrite (s.tracer r a) pfContext (mkTa (taHandle ring) (taOfs ring + 64 + 32 * (n % 2 ^ bits (s.attach a 0x20) 0 5))) (dwordBytes l) with
  | .error c => .error c
  | .ok t => match t.hubWrite (s.tracer r a) pfContext ring (dwordBytes [BitVec.ofNat 64 (n + 1)]) with
    | .error c => .error c
    | .ok u => .ok (u.countRing ring)

/-- An engine writes a record where an attachment traces; a faulting store stops its tracing until TRACE is rewritten. -/
def State.trace (s : State) (r : EngineRef) (a : Option Nat) (l : List Word) : State :=
  match a with
  | none => s
  | some a =>
    if s.attach a 0x18 = 0 ∨ s.muted.contains a then s
    else match s.traceAppend r a l with
      | .ok t => t
      | .error _ => { s with muted := s.muted ++ [a] }

end Sys2Proof.Machine
end

