-- ==== Sys2Proof/Machine/Engines.lean ====
section
/-! DEFINITION. Copy and layout engines: tensor records and mapping words (R128 to R131 of spec/08), the six commands, TIDSET,
CPWAIT, and how commands begin, run, fail and end (R163 to R176, R179 of spec/10_copy_and_layout_engines.md). -/

namespace Sys2Proof.Machine

/-! ### Engines -/

/-- Whether the part has such an engine (R1). -/
def engineExists : EngineRef → Bool
  | .copy c => decide (c < Config.cores)
  | .layout n => decide (n < Config.slices)

/-! ### Tensor records (R128) -/

/-- Bytes of an element of a record's format. -/
def Record.elem (r : Record) : Nat := elemSize r.format.toNat

/-- The signed dword n of a record's bytes. -/
def recordInt (l : List Byte) (n : Nat) : Int := (dwordOf l n).toInt

/-- Word n of a record's extents. -/
def recordExt (l : List Byte) (n : Nat) : Nat := leNat ((l.drop (24 + 4 * n)).take 4)

/-- A record from its 96 bytes; none on any breach of the table of R128. -/
def recordOf (l : List Byte) : Option Record :=
  let c := dwordOf l 0
  let rank := bits c 4 3
  let ext := (List.range 6).map (recordExt l)
  let str := (List.range 6).map fun i => recordInt l (6 + i)
  let es : Int := elemSize (bits c 0 3)
  if bits c 0 3 > 3 ∨ rank < 1 ∨ rank > 6 ∨ bits c 3 1 ≠ 0 ∨ bits c 7 1 ≠ 0 ∨ bits c 10 54 ≠ 0 ∨ (c.getLsbD 8 ∧ bits c 0 3 ≠ 0) ∨
      ext.any (fun x => decide (x > 2 ^ 24)) ∨ (ext.drop rank).any (fun x => decide (x ≠ 0)) ∨
      (str.drop rank).any (fun x => decide (x ≠ 0)) ∨ str.any (fun x => decide (x % es ≠ 0)) then none
  else some { format := BitVec.ofNat 3 (bits c 0 3), rank := rank, scaled := c.getLsbD 8, square := c.getLsbD 9,
              base := dwordOf l 1, sbase := dwordOf l 2, ext := ext.take rank, str := str.take rank }

/-! ### Mapping words (R129) -/

/-- A logical dimension: its extent, the source dimension it comes from and the elements of that dimension one step
passes. -/
structure Logical where
  ext : Nat
  dim : Nat
  factor : Nat
  deriving DecidableEq, Repr

/-- The logical dimensions of source dimension i. -/
def logicalOf (e0 : Word) (r : Record) (i : Nat) : List Logical :=
  let x := r.ext.getD i 0
  let s := bits e0 (4 * i) 4
  if s = 0 then [{ ext := x, dim := i, factor := 1 }]
  else [{ ext := x / 2 ^ s, dim := i, factor := 2 ^ s }, { ext := 2 ^ s, dim := i, factor := 1 }]

/-- POSp. -/
def posOf (e0 : Word) (p : Nat) : Nat := bits e0 (24 + 4 * p) 4

/-- The output dimensions fused into groups, by the merge bits: dimension p joins the group before it when bit p − 1 is
set. -/
def fuse (e0 : Word) : Nat → List Logical → List (List Logical)
  | _, [] => []
  | p, x :: l => match fuse e0 (p + 1) l with
    | [] => [[x]]
    | g :: gs => if e0.getLsbD (56 + p) then (x :: g) :: gs else [x] :: g :: gs

/-- Product of extents. -/
def extent (l : List Logical) : Nat := l.foldl (fun n x => n * x.ext) 1

/-- The output dimensions of a mapping in groups, or none where the word is invalid (R129). -/
def mapGroups (e0 : Word) (src dst : Record) : Option (List (List Logical)) :=
  let ls := (List.range src.rank).flatMap (logicalOf e0 src)
  let n := ls.length
  let ps := (List.range n).map (posOf e0)
  if e0.getLsbD 63 ∨ (List.range 6).any (fun i => decide (i ≥ src.rank ∧ bits e0 (4 * i) 4 ≠ 0)) ∨
      (List.range src.rank).any (fun i => decide (src.ext.getD i 0 % 2 ^ bits e0 (4 * i) 4 ≠ 0)) ∨ n > 8 ∨
      ps.any (fun p => decide (p ≥ n)) ∨ ps.eraseDups.length ≠ n ∨
      (List.range 8).any (fun p => decide (p ≥ n ∧ posOf e0 p ≠ p)) ∨
      (List.range 7).any (fun i => e0.getLsbD (56 + i) && decide (i + 1 ≥ n)) then none
  else
    let gs := fuse e0 0 (ps.map fun p => ls.getD p { ext := 0, dim := 0, factor := 0 })
    if gs.map extent = dst.ext then some gs else none

/-- One output dimension as a loop: its extent and what a step adds to the offsets of source and destination and to row
and column of each. -/
structure Loop where
  ext : Nat
  src : Int
  dst : Int
  srcRow : Nat
  srcCol : Nat
  dstRow : Nat
  dstCol : Nat
  deriving DecidableEq, Repr

/-- Rows one step of dimension i passes in a record of rank n (R77, R130): the product of the extents between it and the
last dimension. -/
def rowStep (r : Record) (i : Nat) : Nat := ((r.ext.take (r.rank - 1)).drop (i + 1)).foldl (· * ·) 1

/-- The loops of one group, destination dimension g. -/
def groupLoops (src dst : Record) (g : Nat) : List Logical → List Loop
  | [] => []
  | x :: l =>
    let q := extent l
    { ext := x.ext, src := (x.factor : Int) * src.str.getD x.dim 0, dst := (q : Int) * dst.str.getD g 0,
      srcRow := if x.dim + 1 = src.rank then 0 else x.factor * rowStep src x.dim,
      srcCol := if x.dim + 1 = src.rank then x.factor else 0,
      dstRow := if g + 1 = dst.rank then 0 else q * rowStep dst g,
      dstCol := if g + 1 = dst.rank then q else 0 } :: groupLoops src dst g l

/-- The loops of a mapping, outermost first. -/
def mapLoops (src dst : Record) : Nat → List (List Logical) → List Loop
  | _, [] => []
  | g, x :: l => groupLoops src dst g x ++ mapLoops src dst (g + 1) l

/-- The loops of a LAY, or none where its mapping word is invalid. -/
def layLoops (e0 : Word) (src dst : Record) : Option (List Loop) := (mapGroups e0 src dst).map (mapLoops src dst 0)

/-- Elements the loops run over. -/
def loopCount (l : List Loop) : Nat := l.foldl (fun n x => n * x.ext) 1

/-- The indices of element u in row-major order, one per loop. -/
def loopIndex : List Loop → Nat → List Nat
  | [], _ => []
  | _ :: l, u => u / loopCount l :: loopIndex l (u % loopCount l)

/-- What element u adds up to under one weight of the loops. -/
def loopSum (l : List Loop) (w : Loop → Int) (u : Nat) : Int :=
  ((l.zip (loopIndex l u)).map fun p => w p.1 * p.2).foldl (· + ·) 0

/-- The scale block of an element at a row and column of a record (R77). -/
def scaleBlock (r : Record) (row col : Nat) : Nat :=
  (if r.square then row / 128 else row) * ((r.ext.getLastD 0 + 127) / 128) + col / 128

/-- Destination and source scale word of element u. -/
def scalePair (src dst : Record) (l : List Loop) (u : Nat) : Nat × Nat :=
  (scaleBlock dst (loopSum l (fun x => x.dstRow) u).toNat (loopSum l (fun x => x.dstCol) u).toNat,
   scaleBlock src (loopSum l (fun x => x.srcRow) u).toNat (loopSum l (fun x => x.srcCol) u).toNat)

/-- The scale words to move, rising by destination; none where one destination block has two sources (R130). -/
def scaleMap (src dst : Record) (l : List Loop) : Option (Tab Nat) :=
  (List.range (loopCount l)).foldl (fun t u => t.bind fun t =>
    let p := scalePair src dst l u
    match tabGet t p.1 with
    | some b => if b = p.2 then some t else none
    | none => some (tabPut t p.1 p.2)) (some [])

/-- The scale words of a LAY, or none for 0x1C: one record alone is scaled, or the SLAYOUT fields differ, whether the records are scaled or
not, or a destination block has elements of several source blocks (R130). -/
def layScales (src dst : Record) (l : List Loop) : Option (Tab Nat) :=
  if src.scaled ≠ dst.scaled ∨ src.square ≠ dst.square then none
  else if !src.scaled then some []
  else scaleMap src dst l

/-! ### Issue checks (R165, R168) -/

/-- What lies behind a handle, for R138's table; none for directories, mounts and system nodes. -/
def State.targetOf (s : State) (core : Nat) (h : Handle) : Option Target :=
  match h.node with
  | .remote dev m => match tabGet s.remotes (dev * 2 ^ 32 + m) with
    | some (.ctr, _) => some (.counter true)
    | some (.cell, _) => some (.cell true)
    | some (.mem, _) => some .peerBytes
    | some (.queue, _) => some .peerBytes
    | _ => none
  | .own m => match s.node m with
    | none => none
    | some nd => match nd.body with
      | .epwin _ _ _ => some .core
      | .mcast op ms _ => some (if s.membersInside ms then .apertureIn (decide (op = 3)) else .apertureOut (decide (op = 3)))
      | .object bound vs => match findVersion vs (s.versionOf core m bound h) with
        | none => none
        | some v => match nd.kind, v.loc with
          | .ctr, .peer _ _ => some (.counter true)
          | .ctr, _ => some (.counter false)
          | .cell, .peer _ _ => some (.cell true)
          | .cell, _ => some (.cell false)
          | _, .host _ _ _ => some .hostBytes
          | _, .peer _ _ => some .peerBytes
          | _, _ => some .bytes
      | _ => none

/-- Whether an engine command may read, or write, such a target: what LD reads or ST writes, apertures, counters and
cells apart (R165). -/
def Target.engineOk (t : Target) (write : Bool) : Bool :=
  match t with
  | .apertureIn exact => write && !exact
  | .apertureOut exact => write && !exact
  | .counter _ => false
  | .cell _ => false
  | t => (kindRule t (if write then .store else .load)).isNone

/-- A source or destination of a command as it is judged at issue (R165). -/
structure End where
  write : Bool
  ta : Word
  /-- a byte of it in the issuing core's SRAM lies below EXB -/
  low : Bool
  /-- it may lie in the issuing core's SRAM only: a GATH index list (R171) -/
  own : Bool
  deriving DecidableEq, Repr

/-- Whether a byte of runs of n bytes lies in 0 to exb − 1: runs from an offset on, over dimensions of an extent and a signed stride. -/
def lowRuns (exb n : Nat) : Int → List (Nat × Int) → Bool
  | o, [] => decide (o < exb ∧ 0 < o + n)
  | o, (k, st) :: l => (List.range k).any fun (i : Nat) => lowRuns exb n (o + (i : Int) * st) l

/-- Whether runs, or the base they start at, dip below EXB (R165); where no run lies below 0 the lowest one tells. -/
def dips (exb n : Nat) (o : Int) (ts : List (Nat × Int)) : Bool :=
  let least := o + (ts.map fun t => min 0 (((t.1 : Int) - 1) * t.2)).foldl (· + ·) 0
  decide (0 ≤ o ∧ o < exb) ||
    (n ≠ 0 && !(ts.any fun t => decide (t.1 = 0)) && (if 0 ≤ least then decide (least < exb) else lowRuns exb n o ts))

/-- The member cores of an endpoint window handle: base, width, height (R175). -/
def State.windowOf (s : State) (core ctx : Nat) (ta : Word) : Option (Nat × Nat × Nat) :=
  match s.handleOf core ctx (taHandle ta) with
  | .ok { node := .own m, .. } => match s.node m with
    | some { body := .epwin base w h, .. } => some (base, w, h)
    | _ => none
  | _ => none

/-- Whether runs from an address reach below EXB of the issuing core, directly or, as a destination, through a window (R165). -/
def State.below (s : State) (c : Cmd) (write : Bool) (ta : Word) (d : Int) (n : Nat) (ts : List (Nat × Int)) : Bool :=
  let exb := (s.coreOf c.core).exb.toNat
  if taHandle ta = 0 then dips exb n (taOfs ta + d) ts
  else write && match s.windowOf c.core c.ctx ta with
    | some (base, w, h) => (List.range (w * h)).any fun (m : Nat) =>
        decide (windowMember base w m = c.core) && dips exb n ((taOfs ta : Int) + d - (m : Int) * 524288) ts
    | none => false

/-- Step 1 of an end: the handle is open and not dead. A packet's command has no SRAM (R165). -/
def State.endHandle (s : State) (c : Cmd) (e : End) : Option Cause :=
  if e.own then none
  else if taHandle e.ta = 0 then (if c.queue.isSome then some Cause.handleInvalid else none)
  else match s.handleOf c.core c.ctx (taHandle e.ta) with
    | .error x => some x
    | .ok _ => none

/-- Step 2: the kind may be read, or written. -/
def State.endKind (s : State) (c : Cmd) (e : End) : Option Cause :=
  if taHandle e.ta = 0 then none
  else if e.own then some Cause.kindMismatch
  else match s.handleOf c.core c.ctx (taHandle e.ta) with
    | .error _ => none
    | .ok h => match s.targetOf c.core h with
      | some t => if t.engineOk e.write then none else some Cause.kindMismatch
      | none => some Cause.kindMismatch

/-- Step 3: nothing of it in the issuing core's SRAM lies below EXB. -/
def End.exbFault (e : End) : Option Cause :=
  if e.low then some (if e.write then Cause.codeWrite else Cause.executeOnly) else none

/-- Step 4: the rights. -/
def State.endRights (s : State) (c : Cmd) (e : End) : Option Cause :=
  if taHandle e.ta = 0 ∨ e.own then none
  else match s.handleOf c.core c.ctx (taHandle e.ta) with
    | .error _ => none
    | .ok h => if (if e.write then h.rights.write || h.rights.shadow else h.rights.read) then none else some Cause.rights

/-- The checks of a command's ends, step by step over all of them; TVAL is the address (R165). -/
def State.endFaults (s : State) (c : Cmd) (l : List End) : List (Option (Cause × Word)) :=
  let step := fun (f : End → Option Cause) => l.map fun e => (f e).map fun x => (x, e.ta)
  step (s.endHandle c) ++ step (s.endKind c) ++ step (fun e => e.exbFault) ++ step (s.endRights c)

/-- Whether a byte address of a strided range leaves 0 to 2^48 − 1: each term an extent and a signed stride; an empty
range has none (R168). -/
def spanLeaves (ta : Word) (ts : List (Nat × Int)) : Bool :=
  if ts.any fun t => decide (t.1 = 0) then false
  else
    decide ((taOfs ta : Int) + (ts.map fun t => min 0 (((t.1 : Int) - 1) * t.2)).foldl (· + ·) 0 < 0) ||
      decide ((taOfs ta : Int) + (ts.map fun t => max 0 (((t.1 : Int) - 1) * t.2)).foldl (· + ·) 0 ≥ 2 ^ 48)

/-- CPYS: row length, n1, n2 (R171). -/
def rowLen (e0 : Word) : Nat := bits e0 0 24
/-- n1. -/
def rowN1 (e0 : Word) : Nat := bits e0 24 20
/-- n2. -/
def rowN2 (e0 : Word) : Nat := bits e0 44 20

/-- GATH: element size and count (R171). -/
def gathSize (e1 : Word) : Nat := bits e1 0 16
/-- COUNT of GATH. -/
def gathCount (e1 : Word) : Nat := bits e1 24 24

/-- Whether ESZ is a power of two from 1 to 4,096. -/
def gathSizeOk (n : Nat) : Bool := (List.range 13).any fun i => decide (n = 2 ^ i)

/-- The fields of DEALPAT (R174). -/
def dealCount (p : Word) : Nat := bits p 44 12
/-- FIRST. -/
def dealFirst (p : Word) : Nat := bits p 32 12
/-- ADV in bytes. -/
def dealAdv (p : Word) : Nat := bits p 16 16 * 64
/-- Bytes of a block. -/
def dealBlock (p : Word) : Nat := bits p 0 16 * 64

/-- Units of a command (R169). -/
def Cmd.units (c : Cmd) : Nat :=
  let e := fun i => c.e.getD i 0
  match c.op with
  | .cpy => ((e 0).toNat + 63) / 64
  | .fill => ((e 0).toNat + 63) / 64
  | .packetCopy => ((e 0).toNat + 63) / 64
  | .cpys => if rowLen (e 0) = 0 then 0 else rowN1 (e 0) * rowN2 (e 0)
  | .gath => gathCount (e 1)
  | .deal => if dealBlock c.dealpat = 0 then 0 else ((e 0).toNat + dealBlock c.dealpat - 1) / dealBlock c.dealpat
  | _ => match c.recs with
    | [src, dst] => match layLoops (e 0) src dst with
      | some l => loopCount l + ((layScales src dst l).getD []).length
      | none => 0
    | _ => 0

/-- The SIZE of a command in bytes, scale words included (R339). -/
def Cmd.size (c : Cmd) : Nat :=
  let e := fun i => c.e.getD i 0
  match c.op with
  | .cpys => rowLen (e 0) * rowN1 (e 0) * rowN2 (e 0)
  | .gath => gathSize (e 1) * gathCount (e 1)
  | .lay => match c.recs with
    | [src, dst] => match layLoops (e 0) src dst with
      | some l => loopCount l * src.elem + 4 * ((layScales src dst l).getD []).length
      | none => 0
    | _ => 0
  | .packetLayout => match c.recs with
    | [src, dst] => match layLoops (e 0) src dst with
      | some l => loopCount l * src.elem + 4 * ((layScales src dst l).getD []).length
      | none => 0
    | _ => 0
  | _ => (e 0).toNat

/-- Where a command's data come from, as its trace record names it. -/
def Cmd.source (c : Cmd) : Word :=
  match c.recs with
  | [src, _] => src.base
  | _ => c.a

/-- Where a command's data go. -/
def Cmd.dest (c : Cmd) : Word :=
  match c.recs with
  | [_, dst] => dst.base
  | _ => c.b

/-- Bytes of block b of a DEAL. -/
def dealLen (c : Cmd) (b : Nat) : Nat :=
  min (dealBlock c.dealpat) ((c.e.getD 0 0).toNat - dealBlock c.dealpat * b)

/-- SRAM offset of block b of a DEAL. -/
def dealOfs (c : Cmd) (b : Nat) : Nat := taOfs c.b + b / dealCount c.dealpat * dealAdv c.dealpat

/-- The first of a list of checks that fails. -/
def firstFault (l : List (Option (Cause × Word))) : Option (Cause × Word) := l.findSome? id

/-- A check as a fault. -/
def faultIf (b : Bool) (c : Cause) (x : Word) : Option (Cause × Word) := if b then some (c, x) else none

/-- A source of a command: runs of n bytes from an address. -/
def State.source (s : State) (c : Cmd) (ta : Word) (n : Nat) (ts : List (Nat × Int)) : End :=
  { write := false, ta := ta, low := s.below c false ta 0 n ts, own := false }

/-- A destination of a command. -/
def State.dest (s : State) (c : Cmd) (ta : Word) (n : Nat) (ts : List (Nat × Int)) : End :=
  { write := true, ta := ta, low := s.below c true ta 0 n ts, own := false }

/-- The destination of a DEAL: the first block each member gets lies lowest there (R175). -/
def State.dealTarget (s : State) (c : Cmd) : End :=
  { write := true, ta := c.b, own := false,
    low := match s.windowOf c.core c.ctx c.b with
      | some (base, w, _) => (List.range (min c.units (dealCount c.dealpat))).any fun (u : Nat) =>
          decide (windowMember base w ((dealFirst c.dealpat + u) % dealCount c.dealpat) = c.core ∧
            taOfs c.b < (s.coreOf c.core).exb.toNat)
      | none => false }

/-- The issue checks of a plain copy: a range of N bytes to another (R165, R168, R171). -/
def State.plainFault (s : State) (c : Cmd) : Option (Cause × Word) :=
  let n := (c.e.getD 0 0).toNat
  firstFault (s.endFaults c [s.source c c.a n [], s.dest c c.b n []] ++
    [faultIf (decide (n > 2 ^ 40)) Cause.sizeOrStride (c.e.getD 0 0), faultIf (spanLeaves c.a [(n, 1)]) Cause.offsetOverflow c.a,
     faultIf (spanLeaves c.b [(n, 1)]) Cause.offsetOverflow c.b])

/-- The issue checks of CPY, CPYS, GATH, FILL and DEAL in the order of R165 and R168. -/
def State.copyFault (s : State) (c : Cmd) : Option (Cause × Word) :=
  let e := fun i => c.e.getD i 0
  match c.op with
  | .cpy => s.plainFault c
  | .packetCopy => s.plainFault c
  | .fill => firstFault (s.endFaults c [s.dest c c.b (e 0).toNat []] ++
      [faultIf (decide ((e 0).toNat > 2 ^ 40)) Cause.sizeOrStride (e 0),
       faultIf (spanLeaves c.b [((e 0).toNat, 1)]) Cause.offsetOverflow c.b])
  | .cpys =>
    let from' := [(rowN2 (e 0), (e 2).toInt), (rowN1 (e 0), (e 1).toInt)]
    let dest' := [(rowN2 (e 0), (e 4).toInt), (rowN1 (e 0), (e 3).toInt)]
    firstFault (s.endFaults c [s.source c c.a (rowLen (e 0)) from', s.dest c c.b (rowLen (e 0)) dest'] ++
      [faultIf (spanLeaves c.a (from' ++ [(rowLen (e 0), 1)])) Cause.offsetOverflow c.a,
       faultIf (spanLeaves c.b (dest' ++ [(rowLen (e 0), 1)])) Cause.offsetOverflow c.b])
  | .gath =>
    let index : End :=
      { write := false, ta := e 0, own := true,
        low := decide (taHandle (e 0) = 0 ∧ taOfs (e 0) < (s.coreOf c.core).exb.toNat) }
    firstFault (s.endFaults c [s.source c c.a 0 [], s.dest c c.b (gathSize (e 1) * gathCount (e 1)) [], index] ++
      [faultIf (!gathSizeOk (gathSize (e 1)) || decide (bits (e 1) 16 8 ≠ 0 ∨ bits (e 1) 48 16 ≠ 0)) Cause.sizeOrStride (e 1),
       faultIf (decide (taOfs c.a % min (gathSize (e 1)) 64 ≠ 0)) Cause.misaligned c.a,
       faultIf (decide (taOfs c.b % min (gathSize (e 1)) 64 ≠ 0)) Cause.misaligned c.b,
       faultIf (decide (taOfs (e 0) % 4 ≠ 0)) Cause.misaligned (e 0)])
  | .deal =>
    let w := s.windowOf c.core c.ctx c.b
    firstFault (s.endFaults c [s.source c c.a (e 0).toNat [], s.dealTarget c] ++
      [faultIf w.isNone Cause.kindMismatch c.b,
       faultIf (decide ((e 0).toNat % 64 ≠ 0 ∨ (e 0).toNat > 2 ^ 40)) Cause.sizeOrStride (e 0),
       faultIf (decide (taOfs c.a % 64 ≠ 0)) Cause.misaligned c.a,
       faultIf (decide (taOfs c.b % 64 ≠ 0)) Cause.misaligned c.b,
       faultIf (decide (dealCount c.dealpat = 0 ∨ dealBlock c.dealpat = 0)) Cause.controlInvalid c.dealpat,
       (match w with
         | some (base, wd, h) => firstFault [
             faultIf (decide (dealCount c.dealpat > wd * h)) Cause.outsideWindow c.dealpat,
             faultIf ((List.range (dealCount c.dealpat)).any fun m => !s.inCoreSet (s.context c.ctx).vf (windowMember base wd m))
               Cause.outsideWindow c.b]
         | none => none),
       faultIf (spanLeaves c.a [((e 0).toNat, 1)]) Cause.offsetOverflow c.a,
       faultIf ((List.range 2).any fun i => decide (i < c.units ∧
         dealOfs c (c.units - 1 - i) + dealLen c (c.units - 1 - i) > 2 ^ 48)) Cause.offsetOverflow c.b])
  | _ => none

/-- The ends of a LAY: elements, and scale words where the records are scaled. -/
def State.layEnds (s : State) (c : Cmd) (src dst : Record) (l : List Loop) (sc : Tab Nat) : List End :=
  [s.source c src.base src.elem (l.map fun x => (x.ext, x.src)), s.dest c dst.base dst.elem (l.map fun x => (x.ext, x.dst))] ++
    (if src.scaled then
      [{ write := false, ta := src.sbase, own := false, low := sc.any fun (p : Nat × Nat) => s.below c false src.sbase (4 * p.2) 4 [] },
       { write := true, ta := dst.sbase, own := false, low := sc.any fun (p : Nat × Nat) => s.below c true dst.sbase (4 * p.1) 4 [] }]
    else [])

/-- The issue checks of a LAY that holds its two records (R129, R130, R173); `word` is TVAL of 0x1C. Where the two differ in FORMAT, TVAL of 0x1A
is the source record's BASE (log entry 40). -/
def State.layFault (s : State) (c : Cmd) (word : Word) : Option (Cause × Word) :=
  match c.recs with
  | [src, dst] =>
    if src.format ≠ dst.format then some (Cause.recordInvalid, src.base)
    else match layLoops (c.e.getD 0 0) src dst with
      | none => some (Cause.mappingWord, c.e.getD 0 0)
      | some l => match layScales src dst l with
        | none => some (Cause.scalesBroken, word)
        | some sc => firstFault (s.endFaults c (s.layEnds c src dst l sc) ++
            [faultIf (decide (taOfs src.base % src.elem ≠ 0)) Cause.misaligned src.base,
             faultIf (decide (taOfs dst.base % dst.elem ≠ 0)) Cause.misaligned dst.base,
             faultIf (src.scaled && decide (taOfs src.sbase % 4 ≠ 0)) Cause.misaligned src.sbase,
             faultIf (dst.scaled && decide (taOfs dst.sbase % 4 ≠ 0)) Cause.misaligned dst.sbase,
             faultIf (spanLeaves src.base ((l.map fun x => (x.ext, x.src)) ++ [(src.elem, 1)])) Cause.offsetOverflow src.base,
             faultIf (spanLeaves dst.base ((l.map fun x => (x.ext, x.dst)) ++ [(dst.elem, 1)])) Cause.offsetOverflow dst.base,
             faultIf (sc.any fun p => decide (taOfs src.sbase + 4 * p.2 + 4 > 2 ^ 48)) Cause.offsetOverflow src.sbase,
             faultIf (sc.any fun p => decide (taOfs dst.sbase + 4 * p.1 + 4 > 2 ^ 48)) Cause.offsetOverflow dst.sbase])
  | _ => some (Cause.recordInvalid, c.a)

/-! ### Which layout engine (R163) -/

/-- The slice nearest a core, counted over the package. -/
def nearSlice (core : Nat) : Nat := coreDie core * 64 + coreY core / 4 * 8 + coreX core / 4

/-- The slice a layout command goes to: the home of an address, the slice nearest a core whose SRAM it names, or else the
issuing core's nearest (slice 0 of D0 for a packet). Where the address reaches no core or page at issue, which only the access will
tell, it is the issuing core's nearest too; a dispatch core has no place of its own and takes slice 0 of D0 (R163; log entry 74). -/
def State.layoutHome (s : State) (packet : Bool) (core ctx : Nat) (ta : Word) : Nat :=
  let other := if packet ∨ core ≥ Config.cores then 0 else nearSlice core
  if taHandle ta = 0 then other
  else match s.handleOf core ctx (taHandle ta) with
    | .ok h => match h.node with
      | .own m => match s.node m with
        | some { body := .epwin base w ht, .. } =>
          if taOfs ta / 524288 < w * ht then nearSlice (windowMember base w (taOfs ta / 524288)) else other
        | some { body := .object bound vs, .. } => match findVersion vs (s.versionOf core m bound h) with
          | some { loc := .fixed base, .. } => sliceOf (base + taOfs ta)
          | some { loc := .hbm root levels, .. } => match walk s levels root (taOfs ta) with
            | .page frame size _ _ => sliceOf (frame + taOfs ta % size)
            | _ => other
          | _ => other
        | _ => other
      | _ => other
    | .error _ => other

/-- Whether an engine has an entry free: two, or sixteen in all for a layout engine, counting the running one (R163). -/
def Engine.room (e : Engine) (r : EngineRef) : Bool :=
  match r with
  | .copy _ => decide (e.queue.length + (if e.running.isSome then 1 else 0) < 3)
  | .layout _ => decide (e.queue.length + (if e.running.isSome then 1 else 0) < 16)

/-! ### Issue (R166, R167, R171, R260) -/

/-- The bytes a copy-engine command will write, as address and length. -/
def Cmd.writes (c : Cmd) : List (Word × Nat) :=
  let e := fun i => c.e.getD i 0
  match c.op with
  | .cpys => (List.range (rowN2 (e 0))).flatMap fun (i2 : Nat) => (List.range (rowN1 (e 0))).filterMap fun (i1 : Nat) =>
      (offsetAdd c.b ((i2 : Int) * (e 4).toInt + (i1 : Int) * (e 3).toInt)).map fun ta => (ta, rowLen (e 0))
  | .gath => [(c.b, gathSize (e 1) * gathCount (e 1))]
  | _ => [(c.b, (e 0).toNat)]

/-- Whether a command writes bytes of a named region of the core that issues it, directly or through a window (R260). -/
def State.soils (s : State) (c : Cmd) : Bool :=
  c.writes.any fun w =>
    if w.2 = 0 then false
    else if taHandle w.1 = 0 then s.core.inRegion (taOfs w.1) w.2
    else match s.windowOf c.core c.ctx w.1 with
      | some (base, wd, h) => (List.range (wd * h)).any fun m =>
          decide (windowMember base wd m = s.core.id) && s.core.regions.any fun r =>
            decide (taOfs w.1 < m * 524288 + r.ofs + r.size ∧ m * 524288 + r.ofs < taOfs w.1 + w.2)
      | none => false

/-- Whether a retired matrix or vector instruction of the slot has yet to store in the core's own SRAM (R114). -/
def State.ownStoreQueued (s : State) : Bool :=
  s.queued.any fun o => engineStores o.instr && o.touches [] true

/-- Whether a command reads the issuing core's SRAM through its copy engine (R171). -/
def Cmd.readsOwn (c : Cmd) : Bool :=
  match c.op with
  | .cpy => decide (taHandle c.a = 0)
  | .cpys => decide (taHandle c.a = 0)
  | .gath => true
  | _ => false

/-- The witness a command waits for, with its check at issue (R167): package scope for a witness of this device, domain
scope for another's. -/
def State.afterOk (s : State) (w : WVal) : Bool :=
  match w with
  | .pending _ _ => true
  | .val x => s.triviallySatisfied x || s.scopeOk x (if witDevice x = s.device.toNat then .pkg else .dom) s.core.id

/-- The scope a witness is judged at by a waiting command. -/
def State.afterMet (s : State) (core : Nat) (w : WVal) : Bool :=
  match w with
  | .pending _ _ => false
  | .val x => s.satisfied x (if witDevice x = s.device.toNat then .pkg else .dom) core

/-- A command of the slot in focus. -/
def State.command (s : State) (op : CmdOp) (str : Stream) (after : Option WReg) (d : WReg) (a b : Word) (recs : List Record) : Cmd :=
  { op := op, core := s.core.id, sel := s.sel, gtid := s.slot.gtid, kernel := s.slot.kernel, ctx := s.slot.ctx, stream := str,
    token := some (d, s.tick), wait := match after with | some w => s.w w | none => .null, a := a, b := b,
    e := s.slot.e.toList, recs := recs, dealpat := s.slot.dealpat, vt := s.vt, queue := none }

/-- Puts a checked command into its engine's queue: waits for an entry, checks the witness it waits for, leaves the token
pending (R163, R166, R167). -/
def enqueue (c : Cmd) (r : EngineRef) (d : WReg) (s : State) : Out :=
  if !(s.engine r).room r then stall s
  else if c.readsOwn && s.ownStoreQueued then stall s
  else if !s.afterOk c.wait then trap Cause.witnessScope s.word s
  else
    let s1 := s.setEngine r { s.engine r with queue := (s.engine r).queue ++ [c] }
    let soiled : Bool := match r with | .copy _ => decide (s.sel = .act) && s.soils c | .layout _ => false
    retire 4 ((if soiled then s1.mapSlot fun t => { t with dirty := true } else s1).setW d (.pending .engine s.tick))

/-- A command that reads a register left pending by `pub.conf`: in an activation a trap at once (R177). -/
def waiting (after : Option WReg) (s : State) (k : Out) : Out :=
  match after.map s.w with
  | some (.pending .confirmation _) => if s.sel = .act then trap Cause.blockingInActivation s.word s else k
  | _ => k

/-- A copy-engine command. -/
def copyCommand (i : Instr) (op : CmdOp) (str : Stream) (after : Option WReg) (d : WReg) (a b : GReg) (s : State) : Out :=
  issue i s fun s => waiting after s <|
    let c := s.command op str after d (s.g a) (s.g b) []
    match s.copyFault c with
    | some (x, v) => trap x v s
    | none => enqueue c (.copy s.core.id) d s

/-- CPY wD, gA, gB (R171). -/
def execCpy (str : Stream) (after : Option WReg) (d : WReg) (a b : GReg) (s : State) : Out :=
  copyCommand (.cpy str after d a b) .cpy str after d a b s

/-- CPYS wD, gA, gB (R171). -/
def execCpys (str : Stream) (after : Option WReg) (d : WReg) (a b : GReg) (s : State) : Out :=
  copyCommand (.cpys str after d a b) .cpys str after d a b s

/-- GATH wD, gA, gB (R171). -/
def execGath (str : Stream) (after : Option WReg) (d : WReg) (a b : GReg) (s : State) : Out :=
  copyCommand (.gath str after d a b) .gath str after d a b s

/-- FILL wD, gA, gB (R171). -/
def execFill (str : Stream) (after : Option WReg) (d : WReg) (a b : GReg) (s : State) : Out :=
  copyCommand (.fill str after d a b) .fill str after d a b s

/-- DEAL wD, gA, gB (R175): goes to the engine beside the home of its source. -/
def execDeal (str : Stream) (after : Option WReg) (d : WReg) (a b : GReg) (s : State) : Out :=
  issue (.deal str after d a b) s fun s => waiting after s <|
    let c := s.command .deal str after d (s.g a) (s.g b) []
    match s.copyFault c with
    | some (x, v) => trap x v s
    | none => enqueue c (.layout (s.layoutHome false s.core.id s.slot.ctx (s.g a))) d s

/-- The record a tid operand names, or none: a nonzero bit above [5:0] or a tid that holds no record (R130). -/
def State.tid (s : State) (x : Word) : Option Record := if bits x 6 58 ≠ 0 then none else tabGet s.core.tids (bits x 0 6)

/-- LAY wD, gA, gB (R130, R173): captures both records. -/
def execLay (str : Stream) (after : Option WReg) (d : WReg) (a b : GReg) (s : State) : Out :=
  issue (.lay str after d a b) s fun s => waiting after s <|
    match s.tid (s.g a), s.tid (s.g b) with
    | some src, some dst =>
      let c := s.command .lay str after d (s.g a) (s.g b) [src, dst]
      match s.layFault c s.word with
      | some (x, v) => trap x v s
      | none => enqueue c (.layout (s.layoutHome false s.core.id s.slot.ctx dst.base)) d s
    | none, _ => trap Cause.recordInvalid (s.g a) s
    | _, none => trap Cause.recordInvalid (s.g b) s

/-! ### TIDSET and CPWAIT -/

/-- Cause of a TIDSET that reaches what no load may reach (R128). -/
def recordCause (c : Cause) : Cause := if c = Cause.apertureOutside then Cause.kindMismatch else c

/-- The places of the dwords of a record still to be translated, after those of the dwords before. -/
def State.recordPlaces (s : State) (ta : Word) : List Nat → List Place → Located
  | [], ps => .found s ps
  | i :: l, ps =>
    let a := mkTa (taHandle ta) (taOfs ta + 8 * i)
    match s.reach s.core.id s.slot.ctx .load true a 8 with
    | .error c => .fail (recordCause c)
    | .ok r => match s.locate s.core.id s.slot.ctx false a r with
      | .found t qs => t.recordPlaces ta l (ps ++ qs)
      | .fail c => .fail c
      | .wait t => .wait t

/-- One dword of a record: an aperture of n members combines them, as LD does (R162). -/
def State.recordDword (s : State) (op : Option Nat) (ps : List Place) : Nat :=
  match op with
  | some o => combine o 8 (ps.map fun p => s.natAt p 8)
  | none => s.natAt (ps.headD (.sram s.core.id 0)) 8

/-- Places cut into groups of n. -/
def groupsOf (n : Nat) : Nat → List Place → List (List Place)
  | 0, _ => []
  | k + 1, l => l.take n :: groupsOf n k (l.drop n)

/-- TIDSET TID, [gA] (R128, R172): reads the record as a load and checks it. -/
def execTidset (t : Fin 64) (a : GReg) (s : State) : Out :=
  issue (.tidset t a) s fun s =>
    let ta := s.g a
    match s.reach s.core.id s.slot.ctx .load false ta 96 with
    | .error c => trap (recordCause c) ta s
    | .ok r =>
      if taOfs ta % 8 ≠ 0 then trap Cause.misaligned ta s
      else match s.recordPlaces ta (List.range 12) [] with
        | .fail c => trap c ta s
        | .wait u => stall u
        | .found s ps => watching true false ta 96 s <|
            if s.loadHeld ((ps.map Place.line).eraseDups) s.queued then stall s
            else if ps.any s.poisonedAt then trap Cause.errorConsumed ta s
            else
              let op := match r with | .aperture o _ _ => some o | _ => none
              match recordOf ((groupsOf (ps.length / 12) 12 ps).flatMap fun q => natBytes 8 (s.recordDword op q)) with
              | none => trap Cause.recordInvalid ta s
              | some x => retire 4 { s with core := { s.core with tids := tabPut s.core.tids t.val x } }

/-- Completed-below (R170): the number of the first command begun and not ended, else the next. -/
def Engine.below (e : Engine) : BitVec 32 :=
  match e.settling, e.running with
  | a :: _, _ => a.number
  | [], some a => a.number
  | [], none => e.next

/-- The engine an operand of CPWAIT names: the issuing core's copy engine or a layout engine of this package (R176). -/
def State.engineNamed (s : State) (x : Word) : Option EngineRef :=
  if bits x 21 43 ≠ 0 ∨ bits x 13 8 ≠ s.device.toNat then none
  else if bits x 0 13 = s.core.id ∧ s.core.id < Config.cores then some (.copy s.core.id)
  else if 0x1000 ≤ bits x 0 13 ∧ bits x 0 13 < 0x1000 + Config.slices then some (.layout (bits x 0 13 - 0x1000))
  else none

/-- CPWAIT gA, gB (R176). -/
def execCpwait (a b : GReg) (s : State) : Out :=
  issue (.cpwait a b) s fun s =>
    match s.engineNamed (s.g a) with
    | none => trap Cause.outsideWindow (s.g a) s
    | some r =>
      if ((s.engine r).below - BitVec.ofNat 32 (s.g b).toNat).toNat < 2 ^ 31 then retire 4 s
      else if s.sel = .act then trap Cause.blockingInActivation s.word s
      else stall s

/-! ### Running (R167, R169, R170) -/

/-- The attachment a command traces to (R339). -/
def State.traceOf (s : State) (c : Cmd) : Option Nat :=
  match c.queue with
  | some q => s.attachmentOfQueue q
  | none => s.attachmentOfKernel c.kernel

/-- CMD of a trace record. -/
def CmdOp.code : CmdOp → Nat
  | .cpy => 0
  | .cpys => 1
  | .gath => 2
  | .fill => 3
  | .lay => 4
  | .deal => 5
  | .packetCopy => 6
  | .packetLayout => 7

/-- A trace record of a command (R339). -/
def traceRecord (r : EngineRef) (a : Active) (vt : BitVec 48) (type status : Nat) (d2 d3 : Word) : List Word :=
  let token := match a.cmd.queue, a.cmd.token with
    | some q, _ => 2 * 2 ^ 17 + q % 4096 * 2 ^ 5
    | none, some t => 2 ^ 17 + ((match a.cmd.sel with | .act => 16 | .task => 0) + t.1.val) * 2 ^ 5
    | none, none => 0
  [BitVec.ofNat 64 (vt.toNat * 2 ^ 16 + type * 2 ^ 14 + a.cmd.op.code * 2 ^ 11 + status),
   BitVec.ofNat 64 (a.number.toNat * 2 ^ 32 + (engineLocal r) * 2 ^ 19 + token), d2, d3]

/-- Dword 3 of the later two records: the GTID, 0 for a packet. -/
def Cmd.traceGtid (c : Cmd) : Word := if c.queue.isSome then 0 else BitVec.ofNat 64 (bits c.gtid 0 40)

/-- The first-byte record. -/
def State.traceFirst (s : State) (r : EngineRef) (a : Active) : State :=
  s.trace r (s.traceOf a.cmd) (traceRecord r a s.vt 2 0 (BitVec.ofNat 64 (a.cmd.size % 2 ^ 41)) a.cmd.traceGtid)

/-- The engine's running command replaced; one whose last store is issued goes on to settle (R163). -/
def State.putActive (s : State) (r : EngineRef) (a : Active) : State :=
  let e := s.engine r
  s.setEngine r (if a.issued then { e with running := none, settling := e.settling ++ [a] } else { e with running := some a })

/-- A command begins: it gets its number, and its issue record is written (R170, R339). -/
def State.beginCommand (s : State) (r : EngineRef) (c : Cmd) : State :=
  let e := s.engine r
  let a : Active := { cmd := c, number := e.next, unit := 0, plan := none, issued := decide (c.units = 0), failure := none,
                      bytes := 0, first := false, last := none }
  let t := (s.setEngine r { e with next := e.next + 1 }).putActive r a
  t.trace r (t.traceOf c) (traceRecord r a c.vt 1 0 c.source c.dest)

/-- A failure at a unit: the one that comes first in processing order is kept, and nothing further is issued (R169). -/
def Active.fail (a : Active) (u : Nat) (c : Cause) : Active :=
  { a with
    plan := none, issued := true
    failure := match a.failure with
      | some f => if f.1 ≤ u then some f else some (u, c)
      | none => some (u, c) }

/-- What a unit moves (R169, R171). -/
inductive Work where
  /-- these bytes to a destination -/
  | literal (l : List Byte) (dst : Word)
  /-- n bytes from a source to a destination -/
  | move (src dst : Word) (n : Nat)
  /-- the element an index names, n bytes (R171: GATH) -/
  | gather (index : Word) (dst : Word) (n : Nat)
  | fail (c : Cause)
  deriving DecidableEq, Repr

/-- A move between two displaced addresses, or a failure where one leaves the offset range. -/
def moveWork (a : Word) (da : Int) (b : Word) (db : Int) (n : Nat) : Work :=
  match offsetAdd a da, offsetAdd b db with
  | some x, some y => .move x y n
  | _, _ => .fail Cause.offsetOverflow

/-- Unit u of a command. -/
def Cmd.work (c : Cmd) (u : Nat) : Work :=
  let e := fun i => c.e.getD i 0
  let chunk := min 64 ((e 0).toNat - 64 * u)
  match c.op with
  | .cpy => moveWork c.a (64 * u) c.b (64 * u) chunk
  | .packetCopy => moveWork c.a (64 * u) c.b (64 * u) chunk
  | .fill => match offsetAdd c.b (64 * u) with
    | some d => .literal ((List.range chunk).map fun i => BitVec.ofNat 8 (c.a.toNat / 2 ^ (8 * (i % 8)))) d
    | none => .fail Cause.offsetOverflow
  | .cpys =>
    let i1 : Int := u % rowN1 (e 0)
    let i2 : Int := u / rowN1 (e 0)
    moveWork c.a (i2 * (e 2).toInt + i1 * (e 1).toInt) c.b (i2 * (e 4).toInt + i1 * (e 3).toInt) (rowLen (e 0))
  | .gath => match offsetAdd (e 0) (4 * u), offsetAdd c.b (u * gathSize (e 1)) with
    | some x, some d => .gather x d (gathSize (e 1))
    | _, _ => .fail Cause.offsetOverflow
  | .deal =>
    if dealOfs c u + dealLen c u > 524288 then .fail Cause.beyondObject
    else moveWork c.a (dealBlock c.dealpat * u)
      (mkTa (taHandle c.b) ((dealFirst c.dealpat + u) % dealCount c.dealpat * 524288 + dealOfs c u)) 0 (dealLen c u)
  | _ => match c.recs with
    | [src, dst] => match layLoops (e 0) src dst with
      | some l =>
        if u < loopCount l then moveWork src.base (loopSum l (·.src) u) dst.base (loopSum l (·.dst) u) src.elem
        else match ((layScales src dst l).getD [])[u - loopCount l]? with
          | some p => moveWork src.sbase (4 * p.2) dst.sbase (4 * p.1) 4
          | none => .fail Cause.scalesBroken
      | none => .fail Cause.mappingWord
    | _ => .fail Cause.recordInvalid

/-- A command's access, as the issuing context and core make it; a packet has no SRAM (R165). -/
def State.engineReach (s : State) (c : Cmd) (op : AccOp) (ta : Word) (n : Nat) : Except Cause (State × List Place) :=
  if c.queue.isSome ∧ taHandle ta = 0 then .error Cause.handleInvalid else s.direct c.core c.ctx op false ta n 4

/-- The pieces of a range, each within a line, with their places. -/
def State.engineParts (s : State) (c : Cmd) (op : AccOp) : List (Word × Nat) → Except Cause (State × List (List Place × Word × Nat))
  | [] => .ok (s, [])
  | (ta, n) :: l => match s.engineReach c op ta n with
    | .error x => .error x
    | .ok (t, ps) => match t.engineParts c op l with
      | .error x => .error x
      | .ok (u, qs) => .ok (u, (ps, ta, n) :: qs)

/-- A range checked whole and then cut at lines. -/
def State.engineRange (s : State) (c : Cmd) (op : AccOp) (ta : Word) (n : Nat) : Except Cause (State × List (List Place × Word × Nat)) :=
  match s.engineReach c op ta n with
  | .error x => .error x
  | .ok (t, _) => t.engineParts c op (rowPieces ta n)

/-- The plan of a unit that moves n bytes. -/
def State.planMove (s : State) (c : Cmd) (src dst : Word) (n : Nat) : Except Cause (State × Plan) :=
  match s.engineRange c .load src n with
  | .error x => .error x
  | .ok (t, rs) => match t.engineRange c .store dst n with
    | .error x => .error x
    | .ok (u, ws) =>
      .ok (u, { reads := rs.map fun r => (r.1.headD (.sram c.core 0), r.2.2), got := [], writes := ws })

/-- Whether a store the issuing slot made to a line of its own SRAM has yet to commit (R114, R171). -/
def State.ownWriteDue (s : State) (c : Cmd) (p : Place) : Bool :=
  c.readsOwn && decide (p.base = (0, c.core, 0)) &&
    s.stores.any fun x => x.isOf c.core c.sel && decide (x.phase = .issued) && decide (x.place.line = p.line)

/-- Whether every store of a command's earlier units has been written at its home; a refused or lost one never is, and its command
reads nothing more (R169, R330). -/
def State.unitsWritten (s : State) (r : EngineRef) (number : BitVec 32) : Bool :=
  !s.stores.any fun x => (match x.unit with
    | some (e, n, _) => decide (e = r ∧ n = number)
    | none => false) && decide (x.phase ≠ .committed)

/-- Reads a GATH index and plans its element: from the issuing core's SRAM, after the task's earlier stores there. -/
def State.planGather (s : State) (c : Cmd) (index dst : Word) (n : Nat) : Option (Except Cause (State × Plan)) :=
  match s.engineReach c .load index 4 with
  | .error x => some (.error x)
  | .ok (t, ps) => match ps with
    | p :: _ =>
      if t.ownWriteDue c p then none
      else if t.poisonedAt p then some (.error Cause.errorConsumed)
      else match offsetAdd c.a (t.natAt p 4 * n) with
        | some src => some (t.planMove c src dst n)
        | none => some (.error Cause.offsetOverflow)
    | [] => some (.error Cause.absent)

/-- Takes the next unit in hand, once the witness the command waits for is satisfied and its earlier units are written. -/
def State.takeUnit (s : State) (r : EngineRef) (a : Active) : State :=
  if !s.afterMet a.cmd.core a.cmd.wait then s
  else
    let put := fun (x : Except Cause (State × Plan)) => match x with
      | .error c => s.putActive r (a.fail a.unit c)
      | .ok (t, p) => t.putActive r { a with plan := some p }
    match a.cmd.work a.unit with
    | .fail c => s.putActive r (a.fail a.unit c)
    | .literal l dst => put ((s.engineRange a.cmd .store dst l.length).map fun w => (w.1, { reads := [], got := l, writes := w.2 }))
    | .move src dst n => if s.unitsWritten r a.number then put (s.planMove a.cmd src dst n) else s
    | .gather x dst n =>
      if s.unitsWritten r a.number then match s.planGather a.cmd x dst n with
        | some y => put y
        | none => s
      else s

/-- Reads the next piece of the unit in hand; poison ends the command and the unit is not stored (R327). -/
def State.readPiece (s : State) (r : EngineRef) (a : Active) (p : Plan) (q : Place × Nat) (rest : List (Place × Nat)) : State :=
  if s.ownWriteDue a.cmd q.1 then s
  else if s.poisonedAt q.1 then s.putActive r (a.fail a.unit Cause.errorConsumed)
  else s.putActive r { a with plan := some { p with reads := rest, got := p.got ++ s.bytesAt q.1 q.2 } }

/-- The command after the last store of the unit in hand. -/
def Active.nextUnit (a : Active) : Active :=
  { a with unit := a.unit + 1, plan := none, issued := decide (a.unit + 1 ≥ a.cmd.units) }

/-- Issues the next store of the unit in hand on the engine's stream, which holds at most 64 unsettled stores (R164). -/
def State.writePiece (s : State) (r : EngineRef) (a : Active) (p : Plan) (q : List Place × Word × Nat)
    (rest : List (List Place × Word × Nat)) : State :=
  if s.unsettled (engineLocal r) (engineOrigin r) a.cmd.stream ≥ 64 then s
  else
    let e := s.engine r
    let seq := e.streams[a.cmd.stream] + 1
    let w : Sender := { src := (engineLocal r), origin := (engineOrigin r), kernel := if a.cmd.queue.isSome then 0 else a.cmd.kernel,
                        ctx := a.cmd.ctx, covered := true, packet := none, hub := none }
    let s1 := (s.setEngine r { e with streams := e.streams.set a.cmd.stream seq }).putStores w a.cmd.stream seq
      (.bytes ((p.got.take q.2.2).map some)) q.2.1 none (some (r, a.number, a.unit)) q.1 0
    let a' := { a with bytes := a.bytes + q.2.2, plan := some { p with got := p.got.drop q.2.2, writes := rest } }
    s1.putActive r (if rest.isEmpty then a'.nextUnit else a')

/-- The running command of an engine goes one step on. -/
def State.runCommand (s : State) (r : EngineRef) (a : Active) : State :=
  match a.plan with
  | none => s.takeUnit r a
  | some p => match p.reads with
    | q :: rest => s.readPiece r a p q rest
    | [] => match p.writes with
      | q :: rest => s.writePiece r a p q rest
      | [] => s.putActive r a.nextUnit

/-- ENGINE_COMMAND_BEGIN: an engine with no command running begins its next (R163, R170); otherwise the running command
goes on to its next unit, read or store (R169). -/
def execEngineCommandBegin (r : EngineRef) (s : State) : Out :=
  if !engineExists r then .fault .noSuchAgent
  else match (s.engine r).running with
    | some a => .next (s.runCommand r a)
    | none => match (s.engine r).queue with
      | [] => .next s
      | c :: rest => .next ((s.setEngine r { s.engine r with queue := rest }).beginCommand r c)

/-- The layout engine of a die with the most commands not begun, ties to the lower slice (R163). -/
def State.busiest (s : State) (die : Nat) : Option Nat :=
  (List.range 64).foldl (fun b i =>
    let n := die * 64 + i
    let k := (s.engine (.layout n)).queue.length
    match b with
    | none => if k = 0 then none else some n
    | some m => if (s.engine (.layout m)).queue.length < k then some n else some m) none

/-- One idle engine takes the oldest command of the busiest engine of its die and begins it. -/
def State.stealOne (s : State) (die n : Nat) : State :=
  let e := s.engine (.layout n)
  if e.running.isSome || !e.queue.isEmpty then s
  else match s.busiest die with
    | none => s
    | some m => match (s.engine (.layout m)).queue with
      | [] => s
      | c :: rest => (s.setEngine (.layout m) { s.engine (.layout m) with queue := rest }).beginCommand (.layout n) c

/-- LAYOUT_STEAL: at a VT that is a multiple of 64, once, the idle engines of a die, lowest first, each take at most one command
(R163). -/
def execLayoutSteal (die : Nat) (s : State) : Out :=
  if die ≥ 4 then .fault .noSuchAgent
  else if s.vt.toNat % 64 ≠ 0 ∨ tabGet s.steals die = some s.vt then .next s
  else .next ((List.range 64).foldl (fun s i => s.stealOne die (die * 64 + i)) { s with steals := tabPut s.steals die s.vt })

/-- A command learns that a store of n bytes of its unit u has stored nothing (R169, R339). -/
def Active.unstored (a : Active) (u n : Nat) (c : Cause) : Active := { a.fail u c with bytes := a.bytes - n }

/-- Records a failure of a begun command, running or settling. -/
def State.failCommand (s : State) (r : EngineRef) (number : BitVec 32) (u n : Nat) (c : Cause) : State :=
  let e := s.engine r
  let late := { e with settling := e.settling.map fun b => if b.number = number then b.unstored u n c else b }
  match e.running with
  | some a => if a.number = number then s.putActive r (a.unstored u n c) else s.setEngine r late
  | none => s.setEngine r late

/-- Bytes a store of an engine counts for its command: replicas of one store count once (R151, R339). -/
def Store.counted (x : Store) : Nat := if x.replica = 0 then x.op.length else 0

/-- ENGINE_REFUSAL_RETURN: the refusal, or the loss, of store n is learned by the engine whose command issued it (R168,
R169). A lost store keeps its stamp in the datum (R143). -/
def execEngineRefusalReturn (n : Nat) (s : State) : Out :=
  match s.stores[n]? with
  | none => .next s
  | some x => match x.unit, x.phase with
    | some (r, number, u), .refused c => .next ((s.settled n x).failCommand r number u x.counted c)
    | some (r, number, u), .lost => .next ((s.setStore n { x with unit := none }).failCommand r number u x.counted Cause.streamLost)
    | _, _ => .next s

/-- Whether every store of a command has settled. -/
def State.commandSettled (s : State) (r : EngineRef) (a : Active) : Bool :=
  !s.stores.any fun x => match x.unit with
    | some (e, n, _) => decide (e = r ∧ n = a.number)
    | none => false

/-- The command of an engine that has not written its first-byte record, by its number. -/
def Engine.unmarked (e : Engine) (number : BitVec 32) : Option Active :=
  (e.running.toList ++ e.settling).find? fun a => decide (a.number = number ∧ a.first = false)

/-- The engine with a command's first-byte record written. -/
def Engine.marked (e : Engine) (number : BitVec 32) : Engine :=
  let mark := fun (a : Active) => if a.number = number then { a with first := true } else a
  { e with running := e.running.map mark, settling := e.settling.map mark }

/-- The first store of a command that has stored its bytes has settled: the engine writes the first-byte record (R339; log entry 89). -/
def State.firstByte (s : State) (x : Store) : State :=
  match x.unit, x.phase with
  | some (r, number, _), .committed => match (s.engine r).unmarked number with
    | some a => (s.setEngine r ((s.engine r).marked number)).traceFirst r a
    | none => s
  | _, _ => s

/-- What the end of a command tells: the token's transfer witness, or a packet's dispatch core. STAMP is the VT at which the last of its
stores settled, for a command that stored nothing the VT of its end (R131, R166, R314). -/
def State.endCommand (s : State) (r : EngineRef) (a : Active) : State :=
  let status : Cause := match a.failure with | some f => f.2 | none => 0
  let w := transferWitness s.epoch (a.last.getD s.vt) (s.endpoint (engineLocal r)) a.number.toNat status.toNat
  let s1 := if a.first then s else s.traceFirst r a
  let s2 := s1.trace r (s1.traceOf a.cmd)
    (traceRecord r a (a.last.getD s.vt) 3 status.toNat (BitVec.ofNat 64 (a.bytes % 2 ^ 41)) a.cmd.traceGtid)
  match a.cmd.queue, a.cmd.token with
  | some _, _ => match tabGet s2.dispatch a.cmd.core with
    | some d =>
      if d.waiting ∧ d.ticket = a.cmd.gtid.toNat then
        { s2 with dispatch := tabPut s2.dispatch a.cmd.core { d with answer := some (status, BitVec.ofNat 64 (wbits w 0 64)) } }
      else s2
    | none => s2
  | none, some t =>
    s2.fillW t.1 .engine t.2 w
  | none, none => s2

/-- TRANSFER_COMPLETE: the first begun command of an engine whose stores have all been issued and settled ends (R166). -/
def execTransferComplete (r : EngineRef) (s : State) : Out :=
  if !engineExists r then .fault .noSuchAgent
  else
    let e := s.engine r
    match e.settling.findIdx? (s.commandSettled r) with
    | none => .next s
    | some i => match e.settling[i]? with
      | some a => .next ((s.setEngine r { e with settling := dropAt e.settling i }).endCommand r a)
      | none => .next s

end Sys2Proof.Machine
end

