-- ==== Sys2Proof/Machine/Tree.lean ====
section
/-! DEFINITION. The name tree: the pure operations of the cadastre that instructions, TREE packets and Ewetal records
share, the tree instructions, PUB, REVOKE, shootdowns and the Ewetal records (R133, R177, R178, R193 to R217 of
spec/09, spec/12 and spec/13; R228 to R233, R371 of spec/14). -/

namespace Sys2Proof.Machine

/-! ### Components, kinds, rights -/

/-- Whether a component names something: 1 to 16 bytes, padded with zeros (R193). -/
def componentOk (w0 w1 : Word) : Bool :=
  let l := natBytes 8 w0.toNat ++ natBytes 8 w1.toNat
  let n := (l.takeWhile (· ≠ 0)).length
  decide (n ≠ 0) && (l.drop n).all (· = 0)

/-- A component from its pair (R193). -/
def componentOf (w0 w1 : Word) : Word128 := w1 ++ w0

/-- The kind of a code (R199). -/
def kindOfCode : Nat → Kind
  | 0 => .dir
  | 1 => .mem
  | 2 => .queue
  | 3 => .ctr
  | 4 => .cell
  | 5 => .mcast
  | 6 => .mount
  | 7 => .epwin
  | _ => .sysnode

/-- Every right. -/
def Rights.all : Rights := { read := true, write := true, shadow := true }
/-- No right. -/
def Rights.none : Rights := { read := false, write := false, shadow := false }
/-- Whether rights lie within a ceiling (R202). -/
def Rights.within (r c : Rights) : Bool := (!r.read || c.read) && (!r.write || c.write) && (!r.shadow || c.shadow)
/-- Rights as STAT shows them (R210). -/
def Rights.code (r : Rights) : Nat :=
  (if r.shadow then 4 else 0) + (if r.write then 2 else 0) + (if r.read then 1 else 0)
/-- Rights of a code. -/
def rightsOf (n : Nat) : Rights := { read := decide (n % 2 = 1), write := decide (n / 2 % 2 = 1), shadow := decide (n / 4 % 2 = 1) }

/-- Which operand a failed check names in TVAL (R205). -/
inductive TreeArg where
  | ta | tb | comp | p0 | p1
  deriving DecidableEq, Repr

/-- What a tree operation answers: a new state and a result word, or the cause with the operand that failed. -/
abbrev TreeOut := Except (Cause × TreeArg) (State × Word)

/-! ### Handles -/

/-- A handle operand: 0x0A also for index 0x0000 where a node is needed (R205). -/
def State.operand (s : State) (core ctx : Nat) (x : Word) (which : TreeArg) : Except (Cause × TreeArg) Handle :=
  match s.handleOf core ctx (taHandle x) with
  | .ok h => .ok h
  | .error c => .error (c, which)

/-- The lowest free index at or above the floor, if the quota and the table have room (R203, R204). -/
def Context.freeIndex (c : Context) : Option Nat :=
  if c.maxHandles ≤ (c.handles.filter fun h => c.floor ≤ h.1).length then none
  else (List.range (c.handles.length + 1)).findSome? fun i =>
    if (tabGet c.handles (c.floor + i)).isNone ∧ c.floor + i < 0xFFF0 then some (c.floor + i) else none

/-- Enters a handle; answers its tree address with offset 0 (R205). -/
def State.addHandle (s : State) (ctx : Nat) (h : Handle) : TreeOut :=
  match (s.context ctx).freeIndex with
  | none => .error (Cause.quota, .ta)
  | some i => .ok (s.onContext ctx (fun c => { c with handles := tabPut c.handles i h }), mkTa i 0)

/-- The version a new pinned handle keeps: the one current at the moment, of a memory object (R207). -/
def State.current (s : State) (core : Nat) (r : NodeRef) : Option Nat :=
  match r with
  | .remote _ _ => none
  | .own n => match s.node n with
    | some { kind := .mem, body := .object bound _, .. } => some (s.boundSeen core n bound)
    | _ => none

/-- A handle as an operation makes it (R202). -/
def newHandle (r : NodeRef) (rights ceiling : Rights) (follow : Bool) (pin : Option Nat) : Handle :=
  { node := r, rights := rights, ceiling := ceiling, follow := follow, pin := pin, shadow := none, dead := false,
    closing := false }

/-- The kind of a node a handle names. -/
def State.kindOf (s : State) (r : NodeRef) : Option Kind :=
  match r with
  | .own n => (s.node n).map (·.kind)
  | .remote d n => (tabGet s.remotes (d * 2 ^ 32 + n)).map (·.1)

/-! ### WALK, OPEN, STAT (R206, R207, R210, R212) -/

/-- What a peer answers to a walk: nothing, or the node, its kind, ceiling and length (R206; log entry 20). -/
def State.peerWalk (s : State) (ctx dev : Nat) : TreeOut :=
  match Config.peerAnswer s.tick with
  | none => .error (Cause.peerRefused, .ta)
  | some w =>
    let n := bits w 0 32
    let h := newHandle (.remote dev n) .none (rightsOf (bits w 36 3)) false none
    match s.addHandle ctx h with
    | .error e => .error e
    | .ok (t, x) =>
      .ok ({ t with remotes := tabPut t.remotes (dev * 2 ^ 32 + n) (kindOfCode (bits w 32 4), bits (Config.peerWord s.tick) 0 48) }, x)

/-- WALK (R206). -/
def treeWalk (core ctx : Nat) (ta c0 c1 : Word) (s : State) : TreeOut :=
  match s.operand core ctx ta .ta with
  | .error e => .error e
  | .ok h =>
    let rest (k : TreeOut) : TreeOut :=
      if !h.ceiling.read then .error (Cause.rights, .ta)
      else if !componentOk c0 c1 then .error (Cause.nameNotFound, .comp) else k
    match h.node with
    | .remote dev n => if s.kindOf (.remote dev n) = some .dir ∨ s.kindOf (.remote dev n) = some .mount then rest (s.peerWalk ctx dev) else .error (Cause.kindMismatch, .ta)
    | .own n => match s.node n with
      | some { body := .mount dev _, .. } => rest (s.peerWalk ctx dev)
      | some { body := .dir es, .. } =>
        rest (match es.find? fun e => e.name = componentOf c0 c1 with
          | none => .error (Cause.nameNotFound, .comp)
          | some e => s.addHandle ctx (newHandle e.node .none e.ceiling false (s.current core e.node)))
      | _ => .error (Cause.kindMismatch, .ta)

/-- OPEN (R207). -/
def treeOpen (core ctx : Nat) (ta : Word) (r : Rights) (follow pinned : Bool) (s : State) : TreeOut :=
  match s.operand core ctx ta .ta with
  | .error e => .error e
  | .ok h =>
    if r.shadow && decide (s.kindOf h.node ≠ some .mem) then .error (Cause.kindMismatch, .ta)
    else if (follow && pinned) || (r.shadow && (follow || pinned)) || !r.within h.ceiling then .error (Cause.rights, .ta)
    else match h.node with
      | .remote _ _ => match Config.peerAnswer s.tick with
        | none => .error (Cause.peerRefused, .ta)
        | some _ => s.addHandle ctx (newHandle h.node r h.ceiling follow none)
      | .own _ =>
        s.addHandle ctx (newHandle h.node r h.ceiling follow (if follow || r.shadow then none else s.current core h.node))

/-- SIZE of STAT for an own node (R199). -/
def State.sizeOf (s : State) (core n : Nat) (h : Handle) (nd : Node) : Nat :=
  match nd.body with
  | .dir es => es.length
  | .object bound vs => match findVersion vs (s.versionOf core n bound h) with
    | some v => v.length
    | none => 0
  | .mcast _ _ len => len
  | .mount _ _ => 0
  | .epwin _ w ht => w * ht
  | .sysnode _ => 0

/-- The word of STAT (R210). -/
def statWord (kind : Kind) (h : Handle) (remote : Bool) (size : Nat) : Word :=
  BitVec.ofNat 64 (kind.code * 2 ^ 60 + h.ceiling.code * 2 ^ 56 + (if h.follow then 2 ^ 55 else 0) + h.rights.code * 2 ^ 52
    + (if remote then 2 ^ 51 else 0) + size % 2 ^ 48)

/-- STAT (R210). -/
def treeStat (core ctx : Nat) (ta : Word) (s : State) : TreeOut :=
  match s.operand core ctx ta .ta with
  | .error e => .error e
  | .ok h => match h.node with
    | .remote dev n => match Config.peerAnswer s.tick with
      | none => .error (Cause.peerRefused, .ta)
      | some w => .ok (s, statWord ((s.kindOf (.remote dev n)).getD .sysnode) h true (bits w 0 48))
    | .own n => match s.node n with
      | some nd => .ok (s, statWord nd.kind h false (s.sizeOf core n h nd))
      | none => .error (Cause.handleInvalid, .ta)

/-! ### BIND and UNBIND (R201, R208) -/

/-- The directories a directory binds (R201). -/
def State.subdirs (s : State) (n : Nat) : List Nat :=
  match s.node n with
  | some { body := .dir es, .. } => es.filterMap fun e => match e.node with
    | .own m => match s.node m with
      | some { body := .dir _, .. } => some m
      | _ => none
    | .remote _ _ => none
  | _ => []

/-- The directories of a plat: reachable from its root (R201). -/
def State.plat (s : State) : Nat → List Nat → List Nat
  | 0, l => l
  | fuel + 1, l => s.plat fuel ((l ++ l.flatMap s.subdirs).eraseDups)

/-- Whether a directory belongs to a context's plat. -/
def State.inPlat (s : State) (ctx n : Nat) : Bool := (s.plat s.nodes.length [(s.context ctx).root]).contains n

/-- The checks of a directory that is to be modified: one of the caller's plat (0x26) with write in the handle's CEILING
(0x0D) (R208). -/
def State.modifiable (s : State) (core ctx : Nat) (x : Word) : Except (Cause × TreeArg) (Nat × Node × List Entry) :=
  match s.operand core ctx x .ta with
  | .error e => .error e
  | .ok h => match h.node with
    | .remote _ _ => .error (Cause.kindMismatch, .ta)
    | .own n => match s.node n with
      | some nd => match nd.body with
        | .dir es =>
          if !s.inPlat ctx n then .error (Cause.kindMismatch, .ta)
          else if !h.ceiling.write then .error (Cause.rights, .ta)
          else .ok (n, nd, es)
        | _ => .error (Cause.kindMismatch, .ta)
      | none => .error (Cause.handleInvalid, .ta)

/-- Whether the directory's creator may have one more entry; a directory holds 65,536 (R199, R204). -/
def State.entryRoom (s : State) (nd : Node) (es : List Entry) : Bool :=
  let c := s.context nd.creator
  decide (c.entries + 1 ≤ c.maxEntries) && decide (es.length < 65536)

/-- Enters a binding and charges it. -/
def State.enter (s : State) (n : Nat) (nd : Node) (es : List Entry) (name : Word128) (r : NodeRef) (ceiling : Rights) : State :=
  let e : Entry := { name := name, node := r, ceiling := ceiling, payer := nd.creator }
  ({ s with nodes := tabPut s.nodes n { nd with body := .dir (es ++ [e]) } }).onContext nd.creator
    fun c => { c with entries := c.entries + 1 }

/-- Two handle operands: an invalid one comes before a dead one (R205). -/
def State.operands (s : State) (core ctx : Nat) (ta tb : Word) : Except (Cause × TreeArg) Handle :=
  match s.operand core ctx ta .ta, s.operand core ctx tb .tb with
  | .error e, .error f => .error (if e.1 ≠ Cause.handleInvalid ∧ f.1 = Cause.handleInvalid then f else e)
  | .error e, .ok _ => .error e
  | .ok _, .error f => .error f
  | .ok _, .ok h => .ok h

/-- BIND: the directory first, then the node (R205, R208). -/
def treeBind (core ctx : Nat) (ta tb c0 c1 : Word) (s : State) : TreeOut :=
  match s.operands core ctx ta tb with
    | .error e => .error e
    | .ok h => match s.modifiable core ctx ta with
      | .error e => .error e
      | .ok (n, nd, es) =>
        if !componentOk c0 c1 then .error (Cause.nameNotFound, .comp)
        else if es.any fun e => e.name = componentOf c0 c1 then .error (Cause.nameExists, .comp)
        else if !s.entryRoom nd es then .error (Cause.quota, .ta)
        else .ok (s.enter n nd es (componentOf c0 c1) h.node h.rights, 0)

/-- UNBIND (R208). -/
def treeUnbind (core ctx : Nat) (ta c0 c1 : Word) (s : State) : TreeOut :=
  match s.modifiable core ctx ta with
  | .error e => .error e
  | .ok (n, nd, es) =>
    if !componentOk c0 c1 then .error (Cause.nameNotFound, .comp)
    else match es.find? fun e => e.name = componentOf c0 c1 with
      | none => .error (Cause.nameNotFound, .comp)
      | some e =>
        let s1 := { s with nodes := tabPut s.nodes n { nd with body := .dir (es.filter (· ≠ e)) } }
        .ok ((repayEntries s1 [e]).sweep, 0)

/-! ### MKOBJ (R211, R228 to R230) -/

/-- Drops every byte of a range: it reads zero. -/
def memClear (m : Mem) (a n : Nat) : Mem := m.filter fun c => !(decide (a ≤ c.1) && decide (c.1 < a + n))

/-- The smallest number of levels that covers a length and holds the page's leaf level (R228). -/
def levelsFor (length page : Nat) : Nat :=
  let need := if length ≤ 2 ^ 21 then 1 else if length ≤ 2 ^ 30 then 2 else if length ≤ 2 ^ 39 then 3 else 4
  max need ((pageShape page).1 + 1)

/-- A leaf entry: V, SIZE, LEAF, W, RD and FRAME (R229). -/
def leafEntry (page frame : Nat) : Word :=
  BitVec.ofNat 64 (2 ^ 63 + page * 2 ^ 60 + 2 ^ 59 + 2 ^ 58 + 2 ^ 57 + frame)

/-- Writes table number `next` for level l and those below it, mapping the pages of an object that begin at offset o and below
`total` bytes, over runs of frames for the pages and for the tables. Answers the memory, the number of the next table and the
table (R229, R230). -/
def buildTable (page total : Nat) (data tabs : List (Nat × Nat)) : Nat → Mem → Nat → Nat → Mem × Nat × Nat
  | 0, m, next, _ => (m, next, 0)
  | l + 1, m, next, o =>
    let t := runFrame 4096 tabs next * 4096
    let span := 2 ^ (12 + 9 * l)
    let r := (List.range 512).foldl (fun (acc : Mem × Nat) i =>
      let a := o + i * span
      if a ≥ total then acc
      else if l = (pageShape page).1 then
        (memPutDword acc.1 (t + 8 * i) (leafEntry page (runFrame (pageShape page).2.2 data (a / (pageShape page).2.2) * 4096)), acc.2)
      else
        let c := buildTable page total data tabs l acc.1 acc.2 a
        (memPutDword c.1 (t + 8 * i) (BitVec.ofNat 64 (2 ^ 63 + c.2.2)), c.2.1)) (memClear m t 4096, next + 1)
    (r.1, r.2, t)

/-- Tables an object of `total` bytes needs, at the levels from its leaf level up (R230). -/
def tableCount (page total levels : Nat) : Nat :=
  ((List.range levels).map fun l => if l < (pageShape page).1 then 0 else (total + 2 ^ (21 + 9 * l) - 1) / 2 ^ (21 + 9 * l)).foldl (· + ·) 0

/-- Zeroes extents of frames: bytes, poison marks and line stamps (R211, R326). -/
def State.clearFrames (s : State) (l : List (Nat × Nat)) : State :=
  { s with
    hbm := l.foldl (fun m e => memClear m (e.1 * 4096) (e.2 * 4096)) s.hbm
    hbmPoison := s.hbmPoison.filter fun x => !inExtents l (64 * x)
    stamps := s.stamps.filter fun x => !inExtents l (64 * x.1) }

/-- The first version of an object of `length` bytes backed in whole pages of zeros, with its tables; none where the package has no
such free frames (R204, R211, R230). -/
def State.allocate (s : State) (length page : Nat) (payer : Nat) : Option (State × Version) :=
  let size := (pageShape page).2.2
  let pages := (length + size - 1) / size
  let levels := levelsFor length page
  match s.takePages size pages with
  | none => none
  | some (data, s1) => match s1.takePages 4096 (tableCount page (pages * size) levels) with
    | none => none
    | some (tabs, s2) =>
      let frames := runExtents size data ++ runExtents 4096 tabs
      let s3 := s2.clearFrames frames
      let r := buildTable page (pages * size) data tabs levels s3.hbm 0 0
      some ({ s3 with hbm := r.1, nextVersion := s3.nextVersion + 1 },
        { id := s.nextVersion, loc := .hbm r.2.2 levels, length := length, page := page, own := none, payer := payer,
          charged := pages * size, maker := 0, frames := frames })

/-- What MKOBJ is asked to make, with its limits passed. -/
inductive Making where
  | plain (b : Body) (r : Rights)
  | object (length page : Nat) (r : Rights)

/-- Read and write. -/
def Rights.rw : Rights := { read := true, write := true, shadow := false }

/-- Whether a member may belong to an aperture: an own or remote memory object, or a cell object for OP 3, named with
offset 0 by a handle with write rights (R211); answers its node and length. -/
def State.memberOf (s : State) (core ctx op : Nat) (x : Word) : Except (Cause × TreeArg) (NodeRef × Nat) :=
  if taOfs x ≠ 0 then .error (Cause.sizeOrStride, .p1)
  else match s.operand core ctx x .p1 with
    | .error e => .error e
    | .ok h =>
      if s.kindOf h.node ≠ some (if op = 3 then .cell else .mem) then .error (Cause.kindMismatch, .p1)
      else if !h.rights.write then .error (Cause.rights, .p1)
      else match h.node with
        | .remote d n => .ok (h.node, ((tabGet s.remotes (d * 2 ^ 32 + n)).map (·.2)).getD 0)
        | .own n => match s.node n with
          | some { body := .object bound vs, .. } => match findVersion vs bound with
            | some v => .ok (h.node, v.length)
            | none => .error (Cause.handleInvalid, .p1)
          | _ => .error (Cause.kindMismatch, .p1)

/-- The limits of e0 and e1 for a kind (R211). `members` reads the N dwords of an aperture. -/
def State.making (s : State) (core ctx : Nat) (kind : Kind) (p0 p1 : Word) (members : Nat → Except Cause (List Word)) :
    Except (Cause × TreeArg) Making :=
  let n := p0.toNat
  match kind with
  | .dir => .ok (.plain (.dir []) .rw)
  | .mem =>
    if n = 0 ∨ n ≥ 2 ^ 48 then .error (Cause.sizeOrStride, .p0)
    else if p1.toNat ≥ 8 then .error (Cause.sizeOrStride, .p1)
    else .ok (.object n p1.toNat .all)
  | .queue =>
    if (List.range 13).any fun i => decide (n = 2 ^ (4 + i)) then .ok (.object (64 * (n + 1)) 0 .rw)
    else .error (Cause.sizeOrStride, .p0)
  | .ctr => if n % 8 = 0 ∧ 8 ≤ n ∧ n ≤ 2 ^ 30 then .ok (.object n 0 .rw) else .error (Cause.sizeOrStride, .p0)
  | .cell => if n % 64 = 0 ∧ 64 ≤ n ∧ n ≤ 2 ^ 30 then .ok (.object n 0 .rw) else .error (Cause.sizeOrStride, .p0)
  | .mcast =>
    let op := bits p0 0 2
    let k := bits p0 8 9
    if bits p0 2 6 ≠ 0 ∨ bits p0 17 47 ≠ 0 ∨ k = 0 ∨ k > 256 then .error (Cause.sizeOrStride, .p0)
    else match members k with
      | .error c => .error (c, .p1)
      | .ok l => match l.mapM (s.memberOf core ctx op) with
        | .error e => .error e
        | .ok ms =>
          let len := ms.foldl (fun a m => min a m.2) (2 ^ 48)
          .ok (.plain (.mcast op ms (if op = 3 then len / 64 * 64 else len)) .rw)
  | .mount =>
    if bits p0 8 56 ≠ 0 then .error (Cause.sizeOrStride, .p0)
    else if bits p1 32 32 ≠ 0 then .error (Cause.sizeOrStride, .p1)
    else if n = s.device.toNat ∨ !s.inDomain n then .error (Cause.outsideWindow, .p0)
    else .ok (.plain (.mount n p1.toNat) .rw)
  | .epwin =>
    let base := bits p0 0 12
    let w := bits p0 12 5 + 1
    let h := bits p0 17 5 + 1
    if bits p0 22 42 ≠ 0 ∨ coreX base + w > 32 ∨ coreY base + h > 32 then .error (Cause.sizeOrStride, .p0)
    else if (List.range (w * h)).all fun m => s.inCoreSet (s.context ctx).vf (windowMember base w m) then
      .ok (.plain (.epwin base w h) { read := false, write := true, shadow := false })
    else .error (Cause.outsideWindow, .p0)
  | .sysnode =>
    if bits p0 16 48 ≠ 0 then .error (Cause.sizeOrStride, .p0)
    else .ok (.plain (.sysnode n) (rightsOf (Config.sysnodeRights n).toNat))

/-- Bytes an object takes in whole pages. -/
def Making.bytes : Making → Nat
  | .plain _ _ => 0
  | .object length page _ => (length + (pageShape page).2.2 - 1) / (pageShape page).2.2 * (pageShape page).2.2

/-- The cadastre unit a core's new directories have their home at: its die's, and the root for the hub (R200; log entry 69). -/
def homeUnit (core : Nat) : Nat := if core < 4096 then coreDie core else 4

/-- A node of the next number. -/
def State.newNode (s : State) (core ctx : Nat) (kind : Kind) (b : Body) : State :=
  ({ s with nodes := tabPut s.nodes s.nextNode { kind := kind, creator := ctx, home := homeUnit core, body := b },
            nextNode := s.nextNode + 1 }).onContext ctx fun c => { c with nodes := c.nodes + 1 }

/-- Makes a node for a context; answers its number and rights, or nothing where frames are wanting. -/
def State.make (s : State) (core ctx : Nat) (kind : Kind) : Making → Option (State × Nat × Rights)
  | .plain b r => some (({ s with hbm := describeNode s.hbm s.nextNode kind b }).newNode core ctx kind b, s.nextNode, r)
  | .object length page r => (s.allocate length page ctx).map fun a =>
      ((({ a.1 with hbm := describe a.1.hbm kind a.2 }).newNode core ctx kind (.object a.2.id [a.2])).onContext ctx
        (fun c => { c with bytes := c.bytes + a.2.charged }), s.nextNode, r)

/-- MKOBJ: the node, the entry and the handle together or not at all (R211). -/
def treeMkobj (core ctx : Nat) (kind : Kind) (ta c0 c1 p0 p1 : Word) (members : Nat → Except Cause (List Word)) (s : State) : TreeOut :=
  match s.modifiable core ctx ta with
  | .error e => .error e
  | .ok (n, nd, es) =>
    if !componentOk c0 c1 then .error (Cause.nameNotFound, .comp)
    else if es.any fun e => e.name = componentOf c0 c1 then .error (Cause.nameExists, .comp)
    else match s.making core ctx kind p0 p1 members with
      | .error e => .error e
      | .ok mk =>
        let c := s.context ctx
        if !s.entryRoom nd es || decide (c.nodes + 1 > c.maxNodes) || (decide (mk.bytes ≠ 0) && !s.room ctx mk.bytes) then
          .error (Cause.quota, .ta)
        else
          match s.make core ctx kind mk with
          | none => .error (Cause.quota, .ta)
          | some r =>
            (r.1.enter n nd es (componentOf c0 c1) (.own r.2.1) r.2.2).addHandle ctx (newHandle (.own r.2.1) r.2.2 r.2.2 true none)

/-! ### Answers to records and packets (R216, R314) -/

/-- Whether a function's record is enabled; the physical function always is (R359, R366). -/
def State.functionOn (s : State) (vf : Nat) : Bool := decide (vf = pfFunction) || decide (s.vfField vf 0 1 = 1)

/-- The context a packet executes in: of the lowest-numbered entry of its port with its job, where that allows its delivery mode
and names a context of an enabled function (R356). -/
def State.jobContext (s : State) (port : Nat) (job : BitVec 24) (ordered : Bool) : Option Nat :=
  match s.jobs.find? fun j => decide (j.1 / 256 = port ∧ j.2.job = job) with
  | some j =>
    if (if ordered then j.2.ord else j.2.unord) && (tabGet s.contexts j.2.ctx).isSome && s.functionOn (s.context j.2.ctx).vf then some j.2.ctx
    else none
  | none => none

/-- A port refuses a request and counts it in its dword of `/hv/links` (R356, R357). -/
def State.portRefuses (s : State) (port : Nat) : State :=
  let n := tabGetD s.portErrors port 0 + 1
  ({ s with portErrors := tabPut s.portErrors port n }).hubPut (objectBase 8 + 0xC0 + 8 * port) (BitVec.ofNat 64 n)

/-- The context a sender's records execute in: a host's by its job, a peer's that of the exporter of the directory it mounted, the
context that made it (R215, R356; log entry 24). -/
def State.mapped (s : State) : RecordFrom → Option Nat
  | .host port job ordered => s.jobContext port job ordered
  | .peer dev dir =>
    if s.inDomain dev.toNat ∧ dev ≠ s.device then
      match s.node dir with
      | some { body := .dir _, creator := c, .. } => some c
      | _ => none
    else none

/-- Whether there is such a sender: a host at one of the eight ports, or a peer. -/
def senderExists : RecordFrom → Bool
  | .host port _ _ => decide (port < 8)
  | .peer _ _ => true

/-- A record no context takes: refused, and at a port counted (R356). -/
def State.refuseSender (s : State) : RecordFrom → State
  | .host port _ _ => s.portRefuses port
  | .peer _ _ => s

/-- Where an address of a sender's memory lies (R216). -/
def senderPlace (a : Word) : RecordFrom → Place
  | .host port _ _ => .host port a.toNat
  | .peer dev _ => .peer dev.toNat 0 a.toNat

/-- Sends bytes to a sender's memory by RMA Write of dispatch core 0 (R216, R358). -/
def State.rmaOut (s : State) (ctx : Nat) (src : RecordFrom) (what : HubWrite) (a : Word) (l : List Byte) : State :=
  s.hubSend { w := dcWriter hubCore what, ctx := ctx, op := .bytes (l.map some), ta := a, place := senderPlace a src }

/-- The 32-byte reply of a record (R216). -/
def replyBytes (r : EwetalRec) (status : Cause) (result : Word) (w : Word128) : List Byte :=
  natBytes 4 r.tag.toNat ++ natBytes 4 status.toNat ++ natBytes 8 result.toNat ++ natBytes 16 w.toNat

/-- Answers a record. -/
def State.reply (s : State) (ctx : Nat) (src : RecordFrom) (r : EwetalRec) (status : Cause) (result : Word) (w : Word128) : State :=
  s.rmaOut ctx src .reply r.reply (replyBytes r status result w)

/-- An idle dispatch core. -/
def Dispatch.idle : Dispatch :=
  { down := false, queue := none, index := 0, cr := 0, shadow := [], packet := [], step := 0, vt := 0, seqWait := none, passing := none,
    waiting := false, ticket := 0, answer := none }

/-- A dispatch core's work. -/
def State.dispatcher (s : State) (dc : Nat) : Dispatch := tabGetD s.dispatch dc .idle

/-- Changes a dispatch core's work. -/
def State.onDispatch (s : State) (dc : Nat) (f : Dispatch → Dispatch) : State :=
  { s with dispatch := tabPut s.dispatch dc (f (s.dispatcher dc)) }

/-- A waiting task goes on after its instruction (R205, R214). -/
def Slot.resumeTree (t : Slot) : Slot :=
  if t.run = .halted .tree then { (t.advance 4).settle with run := .running } else t

/-- Tells whoever waited for a tree operation that it has completed, with a witness where one is due (R209, R216, R314). -/
def State.tell (s : State) (who : Waiter) (w : Word128) : State :=
  match who with
  | .task core sel => s.onSlot core sel Slot.resumeTree
  | .record ctx src r => s.reply ctx src r 0 0 w
  | .packet dc ticket => s.onDispatch dc fun d => if d.waiting ∧ d.ticket = ticket then { d with answer := some (0, 0) } else d

/-! ### CLOSE, REVOKE and shootdowns (R195, R209, R213, R233, R371) -/

/-- Whether a translation of a handle is cached or being walked anywhere (R217). -/
def State.cachedAnywhere (s : State) (ctx h : Nat) : Bool :=
  let is := fun (t : Tlb) => decide (t.ctx = ctx ∧ t.handle = h)
  (s.allCores.any fun c => c.tlb.any is) || (s.sectorTlb.any fun x => x.2.any is) ||
    s.misses.any fun m => decide (m.ctx = ctx ∧ m.handle = h)

/-- Frees a handle's index (R209). -/
def State.freeHandle (s : State) (ctx h : Nat) : State :=
  (s.onContext ctx fun c => { c with handles := tabDel c.handles h }).sweep

/-- Discards a handle's unpublished version (R209, R213). -/
def State.discardShadow (s : State) (ctx h : Nat) : State := (s.onHandle ctx h fun x => { x with shadow := none }).sweep

/-- The handle index and context a CLOSE names, live or dead (R209). -/
def State.closable (s : State) (ctx : Nat) (ta : Word) : Bool :=
  match tabGet (s.context ctx).handles (taHandle ta) with
  | some h => decide (taHandle ta ≠ 0 ∧ taHandle ta < 0xFFF0) && !h.closing
  | none => false

/-- CLOSE: completed at once where nothing is cached, else a shootdown is under way (R209, R217). -/
def treeClose (ctx : Nat) (ta : Word) (who : Waiter) (s : State) : Except (Cause × TreeArg) (State × Bool) :=
  if !s.closable ctx ta then .error (Cause.handleInvalid, .ta)
  else if !s.cachedAnywhere ctx (taHandle ta) then .ok (s.freeHandle ctx (taHandle ta), true)
  else
    let s1 := s.onHandle ctx (taHandle ta) fun x => { x with closing := true }
    .ok ({ s1 with shootdowns := s1.shootdowns ++ [{ what := .handle ctx (taHandle ta), why := .close who, reached := [] }] }, false)

/-- The target of a REVOKE: context and index, and whether the handle is dead already (R195). -/
def State.revocable (s : State) (x : Word) : Option (Nat × Nat × Bool) :=
  if bits x 16 32 ≠ 0 ∨ taHandle x = 0 ∨ taHandle x ≥ 0xFFF0 then none
  else match tabGet s.contexts (bits x 0 16) with
    | none => none
    | some c => match tabGet c.handles (taHandle x) with
      | some h => if h.closing then none else some (bits x 0 16, taHandle x, h.dead)
      | none => none

/-- Marks a handle dead and shoots its translations down, for the REVOKE of number `id` (R195). -/
def State.shootHandle (s : State) (ctx h : Nat) (who : Waiter) (w : WReg) (id : Nat) : State :=
  let s1 := s.onHandle ctx h fun x => { x with dead := true }
  { s1 with shootdowns := s1.shootdowns ++ [{ what := .handle ctx h, why := .revoke who w id, reached := [] }] }

/-- Whether a load that was sent early has read a version whose name is bound to another one since: it must not be older than what the
task's accesses before it use (R178, R184). -/
def State.readOld (s : State) (x : Shot) (e : Early) : Bool :=
  match x with
  | .node n old => match s.node n with
    | some { body := .object _ vs, .. } => match findVersion vs old with
      | some v => v.holds e.line
      | none => false
    | _ => false
  | _ => false

/-- A core drops every matching entry and gives up the walks that would fill one (R233); an instruction that waits there translates its
rows anew, since what it holds of them may be of the old binding (R93, R178). A load it has sent early keeps its value, as it
was translated before (R182, R196), unless it has read the version a PUB replaces (R178). -/
def State.shootCore (s : State) (c : Nat) (x : Shot) : State :=
  let s1 := { s with
    misses := (s.misses.map fun (m : Miss) => if m.shot x then { m with cores := m.cores.filter (· ≠ c) } else m).filter fun m => m.cores ≠ []
    barren := withoutCore (s.barren.filter (·.shot x)) c ++ s.barren.filter fun (m : Miss) => !m.shot x
    early := s.early.filter fun e => !(decide (e.core = c) && s.readOld x e) }
  let k0 := s1.coreOf c
  if k0.tlb.any (·.shot x) || !k0.task.rows.isEmpty || !k0.act.rows.isEmpty then s1.onCore c fun k =>
    { k with tlb := k.tlb.filter fun t => !t.shot x, task := { k.task with rows := [] }, act := { k.act with rows := [] } }
  else s1

/-- Whether an entry of handle and descriptor matches a shootdown (R232, R233). -/
def entryShot (e : Nat × Nat × Nat) : Shot → Bool
  | .handle ctx h => decide (e.1 = ctx ∧ e.2.1 = h)
  | .node _ old => decide (e.2.2 = old)
  | .range v _ _ => decide (e.2.2 = v)

/-- A sector's cache drops every matching entry, and the walks that would fill one are discarded: their accesses are translated again
from the start (R233). -/
def State.shootSector (s : State) (n : Nat) (x : Shot) : State :=
  { s with
    misses := s.misses.filter fun m => !(decide (m.sector = n) && m.shot x)
    barren := s.barren.filter fun m => !(decide (m.sector = n) && m.shot x)
    sectorTlb := match tabGet s.sectorTlb n with
      | some l => tabPut s.sectorTlb n (l.filter fun t => !t.shot x)
      | none => s.sectorTlb
    sectorHandles := match tabGet s.sectorHandles n with
      | some l => tabPut s.sectorHandles n (l.filter fun e => !entryShot e x)
      | none => s.sectorHandles }

/-- Shootdown n, which is d, reaches a core or a sector's cache, which drops what matches and acknowledges (R233). -/
def State.shotAt (s : State) (n : Nat) (d : Shootdown) (target : Nat) : State :=
  let s1 := { s with shootdowns := s.shootdowns.set n { d with reached := d.reached ++ [target] } }
  if target < sectorTarget then s1.shootCore target d.what else s1.shootSector (target - sectorTarget) d.what

/-- The shootdowns that have reached one core reach another: a task that moves there has used what they brought about (R178). -/
def State.reachAs (s : State) (src dst : Nat) : State :=
  (List.range s.shootdowns.length).foldl (fun s n => match s.shootdowns[n]? with
    | some d => if d.reached.contains src && !d.reached.contains dst then s.shotAt n d dst else s
    | none => s) s

/-- SHOOTDOWN_ARRIVAL: a core or a sector's cache drops what matches and acknowledges (R233, R371). -/
def execShootdownArrival (n target : Nat) (s : State) : Out :=
  if target ≥ sectorTarget + 16 then .fault .noSuchAgent
  else match s.shootdowns[n]? with
  | none => .next s
  | some d =>
    if d.reached.contains target then .next s else .next (s.shotAt n d target)

/-- Whether every cache has acknowledged (R233). -/
def Shootdown.complete (d : Shootdown) : Bool := (List.range (sectorTarget + 16)).all fun t => d.reached.contains t

/-- Whether a matrix or vector instruction has stores through a handle still to issue. -/
def EngOp.storesBy (o : EngOp) (h : Nat) : Bool := engineStores o.instr && o.tas.any fun ta => decide (taHandle ta = h)

/-- Whether an engine has stores of a unit in hand through a handle of a context still to issue. -/
def Engine.storesBy (e : Engine) (ctx h : Nat) : Bool :=
  e.running.any fun a => decide (a.cmd.ctx = ctx) && a.plan.any fun p => p.writes.any fun w => decide (taHandle w.2.1 = h)

/-- Whether stores translated through a handle have still to be issued, with stamps to come: a retired matrix or vector instruction's, on a
core or in a saved context, those of a unit an engine has in hand, or a dispatch core's that wait for room (R108, R169, R195; log
entry 75). -/
def State.storesThrough (s : State) (ctx h : Nat) : Bool :=
  (s.allCores.any fun c => ((c.matrix ++ c.vector).any fun o => decide ((c.slot o.sel).ctx = ctx) && o.storesBy h) || c.copy.storesBy ctx h) ||
    (s.saved.any fun x => decide (x.slot.ctx = ctx) && (x.matrix ++ x.vector).any fun o => o.storesBy h) ||
    (s.layouts.any fun e => e.2.storesBy ctx h) || s.hubWork.any fun x => decide (x.ctx = ctx ∧ taHandle x.ta = h)

/-- Discards the unpublished version of a handle that has been revoked, one made since the REVOKE issued too (R213). Another handle the index
may have by now is not dead. -/
def State.discardRevoked (s : State) (ctx h : Nat) : State :=
  (s.onHandle ctx h fun x => if x.dead then { x with shadow := none } else x).sweep

/-- REVOKE_COMPLETE: the witness takes the VT of completion, past the stamp of every store through the handle, and an unpublished
version is discarded (R195, R213). -/
def execRevokeComplete (n : Nat) (s : State) : Out :=
  match s.shootdowns[n]? with
  | some { what := .handle ctx h, why := .revoke who w id, reached := l } =>
    if Shootdown.complete { what := .handle ctx h, why := .revoke who w id, reached := l } ∧ !s.storesThrough ctx h then
      let s1 := ({ s with shootdowns := dropAt s.shootdowns n }).discardRevoked ctx h
      match who with
      | .task _ _ => .next (s1.fillW w .revoke id s.stampNow)
      | who => .next (s1.tell who s.stampNow)
    else .next s
  | _ => .next s

/-- TREE_OPERATION_COMPLETE: a CLOSE whose shootdown every cache has acknowledged frees the index, and its core resumes
(R209, R214); a range shootdown by firmware ends. -/
def execTreeOperationComplete (n : Nat) (s : State) : Out :=
  match s.shootdowns[n]? with
  | some d =>
    if d.complete then
      let s1 := { s with shootdowns := dropAt s.shootdowns n }
      match d.what, d.why with
      | .handle ctx h, .close who => .next ((s1.freeHandle ctx h).tell who 0)
      | _, .firmware => .next s1
      | _, _ => .next s
    else .next s
  | none => .next s

/-! ### PUB (R133, R177, R178, R322) -/

/-- The version a PUB publishes and its node, none where no write has made one since the OPEN or the last PUB: the checks of R177; 0x0B as soon as the handle is dead in its table (R213). -/
def State.publishable (s : State) (ctx : Nat) (ta : Word) : Except Cause (Option (Nat × Nat)) :=
  match s.handleOf hubCore ctx (taHandle ta) with
  | .error c => .error c
  | .ok h =>
    if !h.rights.shadow then .error Cause.rights
    else match h.node, h.shadow with
      | .own n, some v =>
        if s.publications.any fun p => decide (p.ctx = ctx ∧ p.handle = taHandle ta ∧ p.version = v) then .ok none else .ok (some (n, v))
      | _, _ => .ok none

/-- Binds a publication's name to its version and starts the shootdown of the name (R177, R214). -/
def State.bindVersion (s : State) (p : Publication) : State :=
  match s.node p.node with
  | some nd => match nd.body with
    | .object old vs =>
      { s with
        nodes := tabPut s.nodes p.node { nd with body := .object p.version vs }
        shootdowns := s.shootdowns ++ [{ what := .node p.node old, why := .publish p.id, reached := [] }] }
    | _ => s
  | none => s

/-- Whether a closure pass has confirmed a kernel's results up to a stamp: confirmed(K, t) of R321. A kernel named to be killed is not
confirmed (R323). -/
def State.confirmedAt (s : State) (k : Nat) (t : BitVec 48) : Bool :=
  !(s.kills.any fun x => x.kernel = k) && s.allCores.all fun c => c.log.all fun e =>
    decide (e.kernel ≠ k) ||
      (let p := BitVec.ofNat 48 (bits (memDword s.hbm (objectBase 0 + 8 * c.id)) 16 48)
       stampAfter p t || (match e.release with
        | some r => stampAfter p r
        | none => false))

/-- Whether the home of a name can bind publication n of those pending: none of the name is under way, and none that waits for no
confirmation has reached it before (R178). -/
def State.mayBind (s : State) (n : Nat) (p : Publication) : Bool :=
  !(s.publications.any fun q => decide (q.node = p.node) && q.bound) &&
    !((s.publications.take n).any fun q => decide (q.node = p.node) && !q.conf)

/-- Issues a publication: bound at once, or when it is confirmed and the name's earlier ones have completed (R177, R178). -/
def State.issuePub (s : State) (p : Publication) : State :=
  let now := !p.conf && s.mayBind s.publications.length p
  let s1 := { s with publications := s.publications ++ [{ p with bound := now }] }
  if now then s1.bindVersion p else s1

/-- Whether a publication's kernel has been killed (R322). -/
def State.killedKernel (s : State) (k : Nat) : Bool :=
  match tabGet s.kernels k with
  | some x => decide (x.state = .killed)
  | none => false

/-- PUB_COMPLETE: a publication that waited is bound, one on confirmation once it is confirmed; a bound one whose caches have all acknowledged ends, and the
handle's next write makes a new version (R177, R322). -/
def execPubComplete (n : Nat) (s : State) : Out :=
  match s.publications[n]? with
  | none => .next s
  | some p =>
    if !p.bound then
      if s.killedKernel p.kernel then .next (({ s with publications := dropAt s.publications n }).discardShadow p.ctx p.handle)
      else if (!p.conf || s.confirmedAt p.kernel p.vt) && s.mayBind n p then
        .next (({ s with publications := s.publications.set n { p with bound := true } }).bindVersion p)
      else .next s
    else match s.shootdowns.findIdx? fun d => d.why = .publish p.id with
      | none => .next s
      | some i => match s.shootdowns[i]? with
        | some d =>
          if d.complete then
            let s1 := { s with publications := dropAt s.publications n, shootdowns := dropAt s.shootdowns i }
            let s2 := s1.onHandle p.ctx p.handle fun h => if h.shadow = some p.version then { h with shadow := none } else h
            match p.who with
            | .task _ _ => .next (s2.sweep.fillW p.w (if p.conf then .confirmation else .publication) p.id s.stampNow)
            | who => .next (s2.sweep.tell who s.stampNow)
          else .next s
        | none => .next s

/-! ### The tree instructions (R205, R214) -/

/-- A tree instruction that completes in its step: it writes gD, or traps with the operand that failed (R205). -/
def treeStep (i : Instr) (d : Option GReg) (op : State → TreeOut) (tval : TreeArg → State → Word) (s : State) : Out :=
  issue i s fun s => resultsReady s
    (match op s with
      | .error (c, a) => trap c (tval a s) s
      | .ok (t, x) => retire 4 (match d with
        | some d => t.setG d x
        | none => t))

/-- The second register of a pair (R193). -/
def GReg.succ (r : GReg) : GReg := ⟨(r.val + 1) % 32, Nat.mod_lt _ (by decide)⟩

/-- WALK gD, gA, gB (R206). -/
def execWalk (d a b : GReg) (s : State) : Out :=
  treeStep (.walk d a b) (some d) (fun s => treeWalk s.core.id s.slot.ctx (s.g a) (s.g b) (s.g (GReg.succ b)) s)
    (fun w s => if w = .comp then s.g b else s.g a) s

/-- OPEN gD, gA (R207). -/
def execOpenNode (read write shadow follow pinned : Bool) (d a : GReg) (s : State) : Out :=
  treeStep (.openNode read write shadow follow pinned d a) (some d)
    (fun s => treeOpen s.core.id s.slot.ctx (s.g a) { read := read, write := write, shadow := shadow } follow pinned s)
    (fun _ s => s.g a) s

/-- BIND gD, gA, gB (R208). -/
def execBind (d a b : GReg) (s : State) : Out :=
  treeStep (.bind d a b) none
    (fun s => treeBind s.core.id s.slot.ctx (s.g d) (s.g a) (s.g b) (s.g (GReg.succ b)) s)
    (fun w s => match w with
      | .comp => s.g b
      | .tb => s.g a
      | _ => s.g d) s

/-- UNBIND gA, gB (R208). -/
def execUnbind (a b : GReg) (s : State) : Out :=
  treeStep (.unbind a b) none (fun s => treeUnbind s.core.id s.slot.ctx (s.g a) (s.g b) (s.g (GReg.succ b)) s)
    (fun w s => if w = .comp then s.g b else s.g a) s

/-- STAT gD, gA (R210). -/
def execStat (d a : GReg) (s : State) : Out :=
  treeStep (.stat d a) (some d) (fun s => treeStat s.core.id s.slot.ctx (s.g a) s) (fun _ s => s.g a) s

/-- The N dwords of an aperture's members, in the core's own SRAM at or above EXB (R211). -/
def State.memberDwords (s : State) (ta : Word) (n : Nat) : Except Cause (List Word) :=
  if taHandle ta ≠ 0 ∨ taOfs ta < s.core.exb.toNat ∨ taOfs ta + 8 * n > s.core.scratch then .error Cause.sizeOrStride
  else if (List.range (8 * n)).any fun i => s.core.poison.contains ((taOfs ta + i) / 64) then .error Cause.errorConsumed
  else .ok ((List.range n).map fun i => memDword s.core.sram (taOfs ta + 8 * i))

/-- MKOBJ gD, gA, gB: an aperture's members are read once the task's own stores to its SRAM, vector and tile stores among them, have taken effect
(R114, R184, R211). -/
def execMkobj (kind : Kind) (d a b : GReg) (s : State) : Out :=
  issue (.mkobj kind d a b) s fun s => resultsReady s
    (if kind = .mcast ∧ s.ownHeld then stall s
    else match treeMkobj s.core.id s.slot.ctx kind (s.g a) (s.g b) (s.g (GReg.succ b)) (s.e 0) (s.e 1) (s.memberDwords (s.e 1)) s with
      | .error (c, w) => trap c (match w with
          | .comp => s.g b
          | .p0 => s.e 0
          | .p1 => s.e 1
          | _ => s.g a) s
      | .ok (t, x) => retire 4 (t.setG d x))

/-- CLOSE gA: with translations cached the core waits for the shootdown (R209). -/
def execClose (a : GReg) (s : State) : Out :=
  issue (.close a) s fun s => resultsReady s
    (match treeClose s.slot.ctx (s.g a) (.task s.core.id s.sel) s with
      | .error (c, _) => trap c (s.g a) s
      | .ok (t, true) => retire 4 t
      | .ok (t, false) => .next (t.mapSlot fun x => { x with run := .halted .tree }))

/-- REVOKE wD, gA: privileged (R48); wD goes pending, and the task continues (R195). -/
def execRevoke (d : WReg) (a : GReg) (s : State) : Out :=
  issue (.revoke d a) s fun s => resultsReady s
    (match s.revocable (s.g a) with
      | none => trap Cause.handleInvalid (s.g a) s
      | some (_, _, true) => retire 4 (s.setW d (.val s.stampNow))
      | some (ctx, h, false) =>
        let f := s.fresh
        retire 4 ((f.2.shootHandle ctx h (.task s.core.id s.sel) d f.1).setW d (.pending .revoke f.1)))

/-- PUB wD, gA (R177). -/
def execPub (conf : Bool) (d : WReg) (a : GReg) (s : State) : Out :=
  issue (.pub conf d a) s fun s =>
    (match s.publishable s.slot.ctx (s.g a) with
      | .error c => trap c (s.g a) s
      | .ok none => retire 4 (s.setW d (.val s.stampNow))
      | .ok (some (n, v)) =>
        let f := s.fresh
        let p : Publication :=
          { id := f.1, who := .task s.core.id s.sel, w := d, ctx := s.slot.ctx, handle := taHandle (s.g a), node := n,
            version := v, kernel := s.slot.kernel, vt := s.vt, conf := conf, bound := false }
        retire 4 ((f.2.issuePub p).setW d (.pending (if conf then .confirmation else .publication) f.1)))

/-! ### Ewetal records (R215, R216) -/

/-- Whether a record's sender is cut off: its port stays down (R366). -/
def State.senderDown (s : State) : RecordFrom → Bool
  | .host port _ _ => s.portDown port
  | .peer _ _ => false

/-- A record of OP `op` reaches the cadastre root: refused where its sender maps to no context, answered with 0x01 where OP is past 10
(R215, R356). A record of another OP is another event's. -/
def recorded (op : Nat) (src : RecordFrom) (r : EwetalRec) (s : State) (k : Nat → Out) : Out :=
  if !senderExists src then .fault .noSuchAgent
  else if s.senderDown src ∨ (r.op.toNat ≠ op ∧ r.op.toNat ≤ 10) then .next s
  else match s.mapped src with
    | none => .next (s.refuseSender src)
    | some ctx => if r.op.toNat > 10 then .next (s.reply ctx src r Cause.illegal 0 0) else k ctx

/-- A record whose ARG is checked as at decode (0x01) before its operation runs; the reply is written. -/
def record (op : Nat) (src : RecordFrom) (r : EwetalRec) (argOk : Bool) (f : Nat → State → TreeOut) (s : State) : Out :=
  recorded op src r s fun ctx =>
    if !argOk then .next (s.reply ctx src r Cause.illegal 0 0)
    else match f ctx s with
      | .error (c, _) => .next (s.reply ctx src r c 0 0)
      | .ok (t, x) => .next (t.reply ctx src r 0 x 0)

/-- What a record's publish or revoke does, for whoever waits: done with a witness, or under way. -/
inductive Later where
  | fail (c : Cause)
  | done (s : State) (w : Word128)
  | underway (s : State)

/-- A revoke by record or packet: only from a privileged context (R216). -/
def revokeFor (ctx : Nat) (x : Word) (who : Waiter) (s : State) : Later :=
  if !(s.context ctx).priv then .fail Cause.privileged
  else match s.revocable x with
    | none => .fail Cause.handleInvalid
    | some (_, _, true) => .done s s.stampNow
    | some (c, h, false) =>
      let f := s.fresh
      .underway (f.2.shootHandle c h who 0 f.1)

/-- A publish by record or packet (R216); one on confirmation belongs to no kernel, so nothing holds it back (log entry 24). -/
def publishFor (ctx : Nat) (ta : Word) (conf : Bool) (who : Waiter) (s : State) : Later :=
  match s.publishable ctx ta with
  | .error c => .fail c
  | .ok none => .done s s.stampNow
  | .ok (some (n, v)) =>
    let f := s.fresh
    .underway (f.2.issuePub
      { id := f.1, who := who, w := 0, ctx := ctx, handle := taHandle ta, node := n, version := v, kernel := 0,
        vt := s.vt, conf := conf, bound := false })

/-- Answers a record from what its operation did. -/
def recordLater (op : Nat) (src : RecordFrom) (r : EwetalRec) (argOk : Bool) (f : Nat → State → Later) (s : State) : Out :=
  recorded op src r s fun ctx =>
    if !argOk then .next (s.reply ctx src r Cause.illegal 0 0)
    else match f ctx s with
      | .fail c => .next (s.reply ctx src r c 0 0)
      | .done t w => .next (t.reply ctx src r 0 0 w)
      | .underway t => .next t

/-- EWETAL_WALK (R215, R216). -/
def execEwetalWalk (src : RecordFrom) (r : EwetalRec) (s : State) : Out :=
  record 0 src r (decide (r.arg = 0)) (fun ctx => treeWalk hubCore ctx r.ta r.comp0 r.comp1) s

/-- EWETAL_OPEN (R215, R216): ARG [23] to [27] of R37 are bits 0 to 4, bit 5 zero. -/
def execEwetalOpen (src : RecordFrom) (r : EwetalRec) (s : State) : Out :=
  record 1 src r (!r.arg.getLsbD 5)
    (fun ctx => treeOpen hubCore ctx r.ta { read := r.arg.getLsbD 0, write := r.arg.getLsbD 1, shadow := r.arg.getLsbD 2 }
      (r.arg.getLsbD 3) (r.arg.getLsbD 4)) s

/-- EWETAL_BIND (R215, R216). -/
def execEwetalBind (src : RecordFrom) (r : EwetalRec) (s : State) : Out :=
  record 2 src r (decide (r.arg = 0)) (fun ctx => treeBind hubCore ctx r.ta r.tb r.comp0 r.comp1) s

/-- EWETAL_UNBIND (R215, R216). -/
def execEwetalUnbind (src : RecordFrom) (r : EwetalRec) (s : State) : Out :=
  record 3 src r (decide (r.arg = 0)) (fun ctx => treeUnbind hubCore ctx r.ta r.comp0 r.comp1) s

/-- CLOSE by record or packet. -/
def closeFor (ctx : Nat) (ta : Word) (who : Waiter) (s : State) : Later :=
  match treeClose ctx ta who s with
  | .error (c, _) => .fail c
  | .ok (t, true) => .done t 0
  | .ok (t, false) => .underway t

/-- EWETAL_CLOSE (R215, R216). -/
def execEwetalClose (src : RecordFrom) (r : EwetalRec) (s : State) : Out :=
  recordLater 4 src r (decide (r.arg = 0)) (fun ctx => closeFor ctx r.ta (.record ctx src r)) s

/-- EWETAL_STAT (R215, R216). -/
def execEwetalStat (src : RecordFrom) (r : EwetalRec) (s : State) : Out :=
  record 5 src r (decide (r.arg = 0)) (fun ctx => treeStat hubCore ctx r.ta) s

/-- MKOBJ by record or packet: kinds 6 and 8 need a privileged context (R48, R205); there is no own SRAM to name an
aperture's members in (log entry 25). -/
def mkobjFor (ctx code : Nat) (ta c0 c1 p0 p1 : Word) (s : State) : TreeOut :=
  if (code = 6 ∨ code = 8) ∧ !(s.context ctx).priv then .error (Cause.privileged, .ta)
  else treeMkobj hubCore ctx (kindOfCode code) ta c0 c1 p0 p1 (fun _ => .error Cause.sizeOrStride) s

/-- EWETAL_MKOBJ (R215, R216): the kind is ARG's low four bits, 0 to 8. -/
def execEwetalMkobj (src : RecordFrom) (r : EwetalRec) (s : State) : Out :=
  record 6 src r (decide (r.arg.toNat ≤ 8)) (fun ctx => mkobjFor ctx r.arg.toNat r.ta r.comp0 r.comp1 r.p0 r.p1) s

/-- EWETAL_REVOKE (R195, R215, R216). -/
def execEwetalRevoke (src : RecordFrom) (r : EwetalRec) (s : State) : Out :=
  recordLater 7 src r (decide (r.arg = 0)) (fun ctx => revokeFor ctx r.tb (.record ctx src r)) s

/-- Whether a read's source may be read: 0x26 unless the handle has read rights on a memory object in the package's HBM
(R216). -/
def State.readable (s : State) (ctx : Nat) (ta : Word) : Except Cause Unit :=
  match s.handleOf hubCore ctx (taHandle ta) with
  | .error c => .error c
  | .ok h => match h.node with
    | .remote _ _ => .error Cause.kindMismatch
    | .own n => match s.node n with
      | some { kind := .mem, body := .object bound vs, .. } =>
        match (findVersion vs (s.versionOf hubCore n bound h)).map Version.loc with
        | some (Loc.host _ _ _) => .error Cause.kindMismatch
        | some (Loc.peer _ _) => .error Cause.kindMismatch
        | none => .error Cause.kindMismatch
        | _ => if h.rights.read then .ok () else .error Cause.kindMismatch
      | _ => .error Cause.kindMismatch

/-- Delivers n bytes in ascending chunks of 64, each read whole before it is written; answers the state, the bytes
delivered and the cause that stopped it, 0 when none (R216). -/
def deliver (ctx : Nat) (put : State → Nat → List Byte → Except Cause State) : Nat → State → Word → Nat → Nat → State × Nat × Cause
  | 0, s, _, k, _ => (s, k, 0)
  | fuel + 1, s, ta, k, n =>
    if k ≥ n then (s, k, 0)
    else match offsetAdd ta k with
      | none => (s, k, Cause.offsetOverflow)
      | some a => match s.hubRead ctx a (min 64 (n - k)) with
        | .error c => (s, k, c)
        | .ok l => match put s k l with
          | .error c => (s, k, c)
          | .ok t => deliver ctx put fuel t ta (k + l.length) n

/-- EWETAL_READ: 1 to 2^20 bytes (0x09), written to P1 onward (R215, R216). -/
def execEwetalRead (src : RecordFrom) (r : EwetalRec) (s : State) : Out :=
  recorded 8 src r s fun ctx =>
    if r.arg ≠ 0 then .next (s.reply ctx src r Cause.illegal 0 0)
    else match s.readable ctx r.ta with
      | .error c => .next (s.reply ctx src r c 0 0)
      | .ok () =>
        if r.p0 = 0 ∨ r.p0.toNat > 2 ^ 20 then .next (s.reply ctx src r Cause.sizeOrStride 0 0)
        else
          let x := deliver ctx (fun s k l => .ok (s.rmaOut ctx src .read (r.p1 + BitVec.ofNat 64 k) l)) (2 ^ 14) s r.ta 0 r.p0.toNat
          .next (x.1.reply ctx src r x.2.2 (BitVec.ofNat 64 x.2.1) 0)

/-- EWETAL_PUBLISH (R177, R215, R216). -/
def execEwetalPublish (src : RecordFrom) (r : EwetalRec) (s : State) : Out :=
  recordLater 9 src r (decide (r.arg = 0)) (fun ctx => publishFor ctx r.ta false (.record ctx src r)) s

/-- EWETAL_PUBLISH_ON_CONFIRMATION (R177, R215, R216). -/
def execEwetalPublishOnConfirmation (src : RecordFrom) (r : EwetalRec) (s : State) : Out :=
  recordLater 10 src r (decide (r.arg = 0)) (fun ctx => publishFor ctx r.ta true (.record ctx src r)) s

end Sys2Proof.Machine
end

