-- ==== Sys2Proof/Machine/Program.lean ====
section
/-! DEFINITION. Kernel headers and images (R23 to R26 of spec/02_assembly_language.md), and what a launch lays out in a
core (R20 to R26, R218, R219, R221, R222, R236, R287). -/

namespace Sys2Proof.Machine

/-- n bytes of a header as a number. -/
def field (l : List Byte) (o n : Nat) : Nat := leNat ((l.drop o).take n)

/-- A channel entry of a header or of CHB's gA (R25, R258). -/
structure ChanDecl where
  entry : Nat
  depth : Nat
  ch : Nat
  stage : Nat
  refuse : Bool
  low : Nat
  deriving DecidableEq, Repr

/-- A channel declaration from its dword (R25). -/
def chanDecl (x : Nat) : ChanDecl :=
  { entry := x / 2 ^ 32 % 2 ^ 32, depth := x / 2 ^ 16 % 2 ^ 16, ch := x / 2 ^ 12 % 16, stage := x / 2 ^ 8 % 16,
    refuse := decide (x / 2 ^ 7 % 2 = 1), low := x % 2 ^ 7 }

/-- A stage declaration (R25). -/
structure StageDecl where
  mask : Nat
  depth : Nat
  stage : Nat
  low : Nat
  deriving DecidableEq, Repr

/-- A patch entry (R26). -/
structure Patch where
  ofs : Nat
  bit : Nat
  width : Nat
  dword : Nat
  zero : Nat
  signed : Bool
  deriving DecidableEq, Repr

/-- A kernel header (R25). -/
structure Header where
  arch : Nat
  flags : Nat
  imageLen : Nat
  exb : Nat
  entry : Nat
  featreq : Nat
  partw : Word
  rectw : Nat
  recth : Nat
  nchan : Nat
  nregion : Nat
  nstage : Nat
  zero : Nat
  npatch : Nat
  dataOfs : Nat
  chans : List ChanDecl
  regions : List Region
  /-- the names of the region entries -/
  names : List (List Byte)
  stages : List StageDecl
  patches : List Patch
  deriving DecidableEq, Repr

/-- Bytes of a header with these counts (R25). -/
def headerBytes (nchan nregion nstage npatch : Nat) : Nat := 0x30 + 8 * nchan + 24 * nregion + 8 * nstage + 8 * npatch

/-- Reads a header (R25); entries beyond a count of 16 are not used. -/
def parseHeader (l : List Byte) : Header :=
  let nchan := field l 0x24 1
  let nregion := field l 0x25 1
  let nstage := field l 0x26 1
  let npatch := field l 0x28 4
  let rg := 0x30 + 8 * nchan
  let st := rg + 24 * nregion
  let pt := st + 8 * nstage
  { arch := field l 0 2, flags := field l 2 2, imageLen := field l 4 4, exb := field l 8 4, entry := field l 0xC 4,
    featreq := field l 0x10 8, partw := BitVec.ofNat 64 (field l 0x18 8), rectw := field l 0x20 2, recth := field l 0x22 2,
    nchan := nchan, nregion := nregion, nstage := nstage, zero := field l 0x27 1, npatch := npatch,
    dataOfs := field l 0x2C 4,
    chans := (List.range nchan).map fun i => chanDecl (field l (0x30 + 8 * i) 8),
    regions := (List.range nregion).map fun i => { ofs := field l (rg + 24 * i + 16) 4, size := field l (rg + 24 * i + 20) 4 },
    names := (List.range nregion).map fun i => (l.drop (rg + 24 * i)).take 16,
    stages := (List.range nstage).map fun i =>
      let x := field l (st + 8 * i) 8
      { mask := x / 2 ^ 48, depth := x / 2 ^ 32 % 2 ^ 16, stage := x / 2 ^ 28 % 16, low := x % 2 ^ 28 },
    patches := (List.range npatch).map fun i =>
      let x := field l (pt + 8 * i) 8
      { ofs := x / 2 ^ 32, bit := x / 2 ^ 24 % 256, width := x / 2 ^ 16 % 256, dword := x / 2 ^ 8 % 256, zero := x / 2 % 128,
        signed := decide (x % 2 = 1) } }

/-- Whether a number is a power of two up to 2^n. -/
def powerOfTwo (x n : Nat) : Bool := (List.range (n + 1)).any fun i => decide (x = 2 ^ i)

/-- Whether numbers repeat. -/
def repeats (l : List Nat) : Bool := decide (l.eraseDups.length ≠ l.length)

/-- Whether a channel entry keeps its layout (R25). -/
def ChanDecl.ok (c : ChanDecl) : Bool := decide (c.low = 0 ∧ c.entry % 2 = 0) && powerOfTwo c.depth 8

/-- Whether a patch entry is malformed (R26). -/
def Patch.malformed (p : Patch) (image : List Byte) (dataOfs : Nat) : Bool :=
  decide (p.width = 0 ∨ p.bit + p.width > 32 ∨ p.ofs % 2 = 1 ∨ p.ofs ≥ dataOfs ∨ field image p.ofs 1 % 2 = 0 ∨ p.dword > 7 ∨ p.zero ≠ 0)

/-- Whether a name is padded with zero bytes: none of another value stands after a zero (R25). -/
def padded (l : List Byte) : Bool := (l.dropWhile (· ≠ 0)).all (· = 0)

/-- Whether a header or its image is refused with 0x01 whatever the parameters (R25, R26). A stage's queue depth, FLAGS beside NSTAGE and
where a region lies are not looked at (log entry 49). -/
def headerBroken (h : Header) (image : List Byte) : Bool :=
  decide (h.arch ≠ 2 ∨ h.flags / 4 ≠ 0 ∨ h.zero ≠ 0 ∨ h.nchan > 16 ∨ h.nregion > 16 ∨ h.nstage > 16) ||
    decide (h.dataOfs < h.exb ∨ h.dataOfs % 256 ≠ 0 ∨ h.dataOfs > h.imageLen ∨ h.exb % 256 ≠ 0) ||
    !h.chans.all ChanDecl.ok || repeats (h.chans.map (·.ch)) || h.stages.any (fun s => decide (s.low ≠ 0)) ||
    repeats (h.stages.map (·.stage)) || !h.names.all padded || h.patches.any fun p => p.malformed image h.dataOfs

/-- The value of a patch, none when it does not fit its field (R26). -/
def Patch.value (p : Patch) (params : List Word) : Option Nat :=
  let x := params.getD p.dword 0
  if p.signed then
    if -(2 ^ (p.width - 1) : Int) ≤ x.toInt ∧ x.toInt < 2 ^ (p.width - 1) then some (x.toNat % 2 ^ p.width) else none
  else if x.toNat < 2 ^ p.width then some x.toNat else none

/-- Replaces bytes of a list from an offset; bytes past its end are dropped. -/
def overlay (l : List Byte) (o : Nat) (b : List Byte) : List Byte :=
  (l.take o ++ b ++ l.drop (o + b.length)).take l.length

/-- The image with its patched fields, or none when a value does not fit (R26). -/
def patchImage (image : List Byte) (params : List Word) : List Patch → Option (List Byte)
  | [] => some image
  | p :: l => match p.value params with
    | none => none
    | some v =>
      let w := field image p.ofs 4
      let low := w % 2 ^ p.bit
      let high := w / 2 ^ (p.bit + p.width) * 2 ^ (p.bit + p.width)
      patchImage (overlay image p.ofs (natBytes 4 (high + v * 2 ^ p.bit + low))) params l

/-- A rectangle side: literal or parameter (R25). -/
def rectSide (x : Nat) (params : List Word) : Nat :=
  if x / 2 ^ 15 % 2 = 1 then (params.getD (x % 8) 0).toNat else x % 32

/-- Width and height where the header declares a rectangle (R9, R25). -/
def Header.rect (h : Header) (params : List Word) : Option (Nat × Nat) :=
  if h.flags % 2 = 1 then some (rectSide h.rectw params, rectSide h.recth params) else none

/-- log2 of a legal side (R9). -/
def sideLog (n : Nat) : Option Nat :=
  match n with
  | 1 => some 0
  | 2 => some 1
  | 4 => some 2
  | 8 => some 3
  | 16 => some 4
  | _ => none

/-- Whether the header declares a pipeline (R25). -/
def Header.pipeline (h : Header) : Bool := decide (h.flags / 2 % 2 = 1)

/-- Where each declared ring lies: downward from the top of the scratchpad in channel order (R221, R236). -/
def ringBases (top : Nat) : List ChanDecl → List Nat
  | [] => []
  | c :: l => (top - 128 * c.depth) :: ringBases (top - 128 * c.depth) l

/-- The declared channels in channel order. -/
def Header.ordered (h : Header) : List ChanDecl :=
  (List.range 16).filterMap fun n => h.chans.find? fun c => c.ch = n

/-- Whether the scratchpad of PARTW cannot hold code, data, regions and rings, or PARTW breaks its table (R219). -/
def partitionBroken (h : Header) : Bool :=
  partwReserved h.partw ||
    (let top := scratchGranules h.partw * 16384
     let low := (h.regions.map fun r => r.ofs + r.size).foldl max (h.exb + (h.imageLen - h.dataOfs))
     decide (top < low + (h.chans.map fun c => 128 * c.depth).foldl (· + ·) 0))

/-- A channel as launch or rebinding makes it valid (R236, R287, R289). -/
def bindDecl (c : ChanDecl) (ring : Nat) (hold : Bool) : Channel :=
  { entry := BitVec.ofNat 32 c.entry, depth := c.depth, stage := c.stage, refuse := c.refuse, valid := true, hold := hold,
    ready := false, active := false, ring := ring, last := c.depth - 1, msgs := [], unbind := false }

/-- Whether a stage's channel mask holds a channel (R23). -/
def Header.stageHas (h : Header) (stage ch : Nat) : Bool :=
  h.stages.any fun s => decide (s.stage = stage) && decide (s.mask / 2 ^ ch % 2 = 1)

/-- The channels of a core at launch: all, or those of its own stage in a pipeline (R236, R287). -/
def Header.channels (h : Header) (stage : Nat) (hold : Bool) : Vector Channel 16 :=
  let rings := (h.ordered.zip (ringBases (scratchGranules h.partw * 16384) h.ordered))
  Vector.ofFn fun n => match rings.find? fun c => c.1.ch = n.val with
    | some (c, r) => if h.pipeline && !h.stageHas stage n.val then .reset else bindDecl c r hold
    | none => .reset

/-- Zero bytes for every named region (R222). -/
def clearRegions (m : Mem) (l : List Region) : Mem := l.foldl (fun m r => memClear m r.ofs r.size) m

/-- The bytes of the pool after a launch: a different function finds the whole pool zero, and a region that lies in the code window or the
data is cleared after they have been loaded (R92, R222; log entry 49). -/
def launchPool (c : Core) (h : Header) (image : List Byte) (vf : Nat) : Mem :=
  let m0 : Mem := if c.lastVf = some vf ∨ c.lastVf = none then c.sram else []
  let m1 := memPut (memClear m0 0 h.exb) 0 (image.take h.exb)
  let m2 := memPut m1 h.exb ((image.take h.imageLen).drop h.dataOfs)
  clearRegions m2 h.regions

/-- A core prepared for a kernel (R8, R20, R25, R92, R222, R236): no task runs yet. -/
def Core.prepare (c : Core) (h : Header) (image : List Byte) (kernel vf ctx stage prog : Nat) : Core :=
  { c with
    sram := launchPool c h image vf
    poison := c.poison.filter fun l => !(decide (64 * l < h.exb + (h.imageLen - h.dataOfs)))
    partw := h.partw
    exb := BitVec.ofNat 20 h.exb
    codebase := 0, fetchbase := 0, ovld := none
    v := Vector.replicate 16 (Vector.replicate 64 0), k := Vector.replicate 4 0, flaws := []
    accd := Vector.replicate 4 0, mshape := Vector.replicate 8 0
    net := Vector.replicate 8 { read := false, due := none, refused := false }
    tids := []
    chans := h.channels stage true
    regions := h.regions
    dataEnd := h.exb + (h.imageLen - h.dataOfs)
    dataOfs := h.dataOfs
    program := prog
    alloc := some { kernel := kernel, vf := vf, stage := stage }
    lastVf := some vf, lastCtx := ctx }

/-- The image of a kernel with its parameters patched in: what the code feed streams (R26, R274). -/
def State.kernelImage (s : State) (k : Nat) : List Byte :=
  match tabGet s.kernels k with
  | some x => match tabGet s.programs x.program with
    | some p => (patchImage p.image x.params (parseHeader p.header).patches).getD p.image
    | none => []
  | none => []

/-- The header of a kernel. -/
def State.kernelHeader (s : State) (k : Nat) : Header :=
  match tabGet s.kernels k with
  | some x => match tabGet s.programs x.program with
    | some p => parseHeader p.header
    | none => parseHeader []
  | none => parseHeader []

/-- Whether any of `len` bytes of a program object from an image offset has an uncorrectable error (R329). -/
def State.programPoisoned (s : State) (n o len : Nat) : Bool :=
  !s.hbmPoison.isEmpty && (List.range ((o + len + 63) / 64 - o / 64)).any fun i => match s.placeOf n (o / 64 * 64 + 64 * i) with
    | some p => s.poisonedAt p
    | none => false

/-- The pool lines a launch fills from image bytes that have an uncorrectable error in the program object (R221, R329). -/
def State.imageFlaws (s : State) (n : Nat) (h : Header) : List Nat :=
  if s.hbmPoison.isEmpty then []
  else (List.range ((h.exb + (h.imageLen - h.dataOfs) + 63) / 64)).filter fun l =>
    s.programPoisoned n (if 64 * l < h.exb then 64 * l else h.dataOfs + (64 * l - h.exb)) (min 64 (h.exb + (h.imageLen - h.dataOfs) - 64 * l))

end Sys2Proof.Machine
end

