-- ==== Sys2Proof/Machine/Groups.lean ====
section
/-! DEFINITION. Groups and rectangles (R276, R277, R283 to R286 of spec/18 and spec/19) and the debug points a task
applies (R332 to R334 of spec/23). -/

namespace Sys2Proof.Machine

/-! ### Debug points (R333, R334) -/

/-- Entry e of POINTS, from its four dwords: the GTID it names and the point, none when it does not apply (R333). -/
def pointEntry (at8 : Nat → Word) (e : Nat) : Option (Nat × Point) :=
  let kind := bits (at8 0) 61 2
  let len := bits (at8 2) 0 20
  if !(at8 0).getLsbD 63 || decide (bits (at8 0) 40 21 ≠ 0 ∨ bits (at8 2) 20 44 ≠ 0 ∨ at8 3 ≠ 0) then none
  else if (kind = 0 ∧ (len ≠ 0 ∨ (at8 1).getLsbD 0 = true)) ∨ (kind ≠ 0 ∧ len = 0) then none
  else some (bits (at8 0) 0 40, { index := e, kind := BitVec.ofNat 2 kind, addr := at8 1, len := len })

/-- The entries that name a task: its GTID alone, or every task of the kernel (R333); `rd` reads dword i of entry e. -/
def pointsNaming (rd : Nat → Nat → Word) (gtid : Word) : List Point :=
  (List.range 24).filterMap fun e => match pointEntry (rd e) e with
    | some (g, p) => if g = bits gtid 0 40 ∨ g = 0xFFFFFFFFFF then some p else none
    | none => none

/-- The points a task applies: the first four breakpoints and the first four watchpoints (R333). -/
def pointsOf (rd : Nat → Nat → Word) (gtid : Word) : List Point :=
  let l := pointsNaming rd gtid
  (l.filter fun p => p.kind = 0).take 4 ++ (l.filter fun p => p.kind ≠ 0).take 4

/-- The points a core loads for a task: those in its kernel's attachment (R334). -/
def State.pointsFor (s : State) (kernel : Nat) (gtid : Word) : List Point :=
  match s.attachmentOfKernel kernel with
  | none => []
  | some a => pointsOf (fun e i => s.attach a (0x40 + 32 * e + 8 * i)) gtid

/-- A slot as its core loads the points that apply to its task (R334). -/
def State.loadPoints (s : State) (t : Slot) : Slot := { t with points := s.pointsFor t.kernel t.gtid, pointsVt := s.vt }

/-- Whether a kernel's attachment holds its tasks before their first instruction (R332). -/
def State.heldAtStart (s : State) (kernel : Nat) : Bool :=
  match s.attachmentOfKernel kernel with
  | none => false
  | some a => (s.attach a 0).getLsbD 62

/-- Clears VALID of the entries of one attachment that name an ended task alone. -/
def State.clearPointsOf (s : State) (gtid : Word) (a : Nat) : State :=
  (List.range 24).foldl (fun s e =>
    let x := s.attach a (0x40 + 32 * e)
    if x.getLsbD 63 ∧ bits x 0 40 = bits gtid 0 40 then s.hubPut (objectBase 6 + 1024 * a + 0x40 + 32 * e) (x &&& ~~~(2 ^ 63 : Word))
    else s) s

/-- Clears VALID of every debug entry, of whichever attachment, that names an ended task alone (R279, R333). -/
def State.clearPoints (s : State) (gtid : Word) : State :=
  if s.hbm.any fun c => decide (objectBase 6 + 1024 ≤ c.1 ∧ c.1 < objectBase 6 + 65536) then
    ((List.range 64).drop 1).foldl (fun s a => s.clearPointsOf gtid a) s
  else s

/-! ### Group tables (R277, R283) -/

/-- A member: its core, slot, GTID and generation. -/
abbrev Member := Nat × SlotSel × Word × Nat

/-- Whether a GTID is a member. -/
def Group.has (g : Group) (gtid : Word) : Bool := g.members.any fun m => decide (m.2.2.1 = gtid)

/-- A member's generation. -/
def Group.genOf (g : Group) (gtid : Word) : Nat := ((g.members.find? fun m => m.2.2.1 = gtid).map (·.2.2.2)).getD 0

/-- Whether a GTID has arrived in a generation. -/
def Group.arrived (g : Group) (gtid : Word) (n : Nat) : Bool := g.arrivals.any fun a => decide (a.1 = gtid ∧ a.2.1 = n)

/-- Whether every member has arrived in generation n; one past it has (R277). -/
def Group.allArrived (g : Group) (n : Nat) : Bool :=
  g.members.all fun m => decide (m.2.2.2 > n) || g.arrived m.2.2.1 n

/-- Whether a generation is in progress: an arrival has been recorded in it (R277). -/
def Group.inProgress (g : Group) (n : Nat) : Bool := g.arrivals.any fun a => decide (a.2.1 = n)

/-- The current generation moves past those that are complete (R277). -/
def Group.settle : Nat → Group → Group
  | 0, g => g
  | fuel + 1, g =>
    if g.inProgress g.generation && g.allArrived g.generation then Group.settle fuel { g with generation := g.generation + 1 } else g

/-- A group after an arrival, a joining or a leaving. -/
def Group.update (g : Group) : Group := g.settle (g.arrivals.length + 1)

/-- The generation a task takes part from when it joins (R277). -/
def Group.joinGen (g : Group) : Nat := if g.inProgress g.generation then g.generation + 1 else g.generation

/-- The latest arrival stamp of a generation, as an age: the youngest one. -/
def Group.latest (g : Group) (vt : BitVec 48) (n : Nat) : BitVec 48 :=
  (g.arrivals.filter fun a => a.2.1 = n).foldl (fun (b : BitVec 48) a => if (vt - a.2.2).toNat < (vt - b).toNat then a.2.2 else b)
    (((g.arrivals.find? fun a => a.2.1 = n).map (·.2.2)).getD vt)

/-- Replaces the group at an index; one without members is gone (R283). -/
def State.setGroup (s : State) (i : Nat) (g : Group) : State :=
  { s with groups := if g.members = [] then dropAt s.groups i else s.groups.set i g.update }

/-- The index of the group an identifier names for the slot in focus: 0 its rectangle (0x22 without one), else a group of
the kernel (0x21) of which it is a member (0x22) (R276, R283). -/
def State.groupOf (s : State) (ident : Nat) : Except Cause Nat :=
  let t := s.slot
  if ident = 0 then
    match s.groups.findIdx? fun g => decide (g.kernel = t.kernel) && g.rect.isSome && g.has t.gtid with
    | some i => .ok i
    | none => .error Cause.notMember
  else match s.groups.findIdx? fun g => decide (g.kernel = t.kernel ∧ g.id.toNat = ident) with
    | none => .error Cause.groupInvalid
    | some i => match s.groups[i]? with
      | some g => if g.has t.gtid then .ok i else .error Cause.notMember
      | none => .error Cause.groupInvalid

/-- A group operand: bits [63:32] zero (0x21), then the group (R283). -/
def State.groupOperand (s : State) (x : Word) : Except Cause Nat :=
  if bits x 32 32 ≠ 0 then .error Cause.groupInvalid else s.groupOf (bits x 0 32)

/-! ### Leaving (R14, R69, R285) -/

/-- A core's tile registers with every landing from a core cancelled (R14). -/
def cancelDues (net : Vector TileNet 8) (sender : Nat) : Vector TileNet 8 :=
  net.map fun n => if n.due = some sender then { n with due := none } else n

/-- A core's tile registers with every landing cancelled. -/
def noDues (net : Vector TileNet 8) : Vector TileNet 8 := net.map fun n => { n with due := none }

/-- Cancels the copies to and from a core whose task of a kernel leaves its rectangle, those in saved contexts among them, and the
landings that were due for them (R14, R285). -/
def State.cancelCopies (s : State) (kernel core : Nat) : State :=
  let keep := fun (l : List TileCopy) => l.filter fun c => !(decide (c.kernel = kernel) && (decide (c.src = core) || decide (c.dst = core)))
  let net := fun (id k : Nat) (l : Vector TileNet 8) => if k ≠ kernel then l else if id = core then noDues l else cancelDues l core
  let cancel := fun (k : Core) =>
    if k.task.kernel = kernel ∧ k.net.toList.any (fun n => n.due.isSome) then { k with net := net k.id k.task.kernel k.net } else k
  { s with
    core := cancel s.core
    others := s.others.map fun k => (k.1, cancel k.2)
    saved := s.saved.map fun c => { c with net := net c.core c.slot.kernel c.net, copies := keep c.copies }
    copies := keep s.copies }

/-- Removes a task from a group, where it counts as arrived from then on; a rectangle is incomplete from then on, and
copies to or from the core are cancelled (R14, R285). -/
def State.dropMember (s : State) (i : Nat) (core : Nat) (gtid : Word) : State :=
  match s.groups[i]? with
  | none => s
  | some g =>
    let s1 := s.setGroup i { g with members := g.members.filter (fun m => m.2.2.1 ≠ gtid), broken := g.broken || g.rect.isSome }
    if g.rect.isSome then s1.cancelCopies g.kernel core else s1

/-- Removes a task from every group, from the last index down. -/
def leaveFrom (core : Nat) (gtid : Word) : Nat → State → State
  | 0, s => s
  | i + 1, s =>
    leaveFrom core gtid i (match s.groups[i]? with
      | some g => if g.has gtid then s.dropMember i core gtid else s
      | none => s)

/-- A task leaves every group of which it is a member (R69). -/
def State.leaveAll (s : State) (core : Nat) (gtid : Word) : State := leaveFrom core gtid s.groups.length s

/-- LEAVE gA (R285). -/
def execLeave (a : GReg) (s : State) : Out :=
  issue (.leave a) s fun s =>
    match s.groupOperand (s.g a) with
    | .error c => trap c (s.g a) s
    | .ok i =>
      let rect := match s.groups[i]? with
        | some g => g.rect.isSome
        | none => false
      let s1 := s.dropMember i s.core.id s.slot.gtid
      retire 4 (if rect then s1.mapSlot fun t => { t with rect := 0 } else s1)

/-! ### JOIN (R283, R284) -/

/-- Live groups of a kernel. -/
def State.groupsOf (s : State) (k : Nat) : Nat := (s.groups.filter fun g => g.kernel = k).length

/-- Groups made by JOIN that hold a task, its rectangle apart (R283). -/
def State.setsOf (s : State) (gtid : Word) : Nat := (s.groups.filter fun g => g.rect.isNone && g.has gtid).length

/-- A new identifier of a kernel: nonzero, never reused while it runs (R283). -/
def State.newGroupId (s : State) (k : Nat) : State × BitVec 32 :=
  match tabGet s.kernels k with
  | some x =>
    let n := if x.nextGroup = 0 then 1 else x.nextGroup
    ({ s with kernels := tabPut s.kernels k { x with nextGroup := n + 1 } }, n)
  | none => (s, BitVec.ofNat 32 (((s.groups.filter fun g => g.kernel = k).map fun g => g.id.toNat).foldl max 0 + 1))

/-- Adds the slot in focus to a group. -/
def State.addMember (s : State) (i : Nat) (g : Group) : State :=
  s.setGroup i { g with members := g.members ++ [(s.core.id, s.sel, s.slot.gtid, g.joinGen)] }

/-- Creates a group whose only member is the slot in focus. -/
def State.createGroup (s : State) (rect : Option (Nat × Nat × Nat)) : State × BitVec 32 :=
  let r := s.newGroupId s.slot.kernel
  let g : Group := { kernel := s.slot.kernel, id := r.2, rect := rect, members := [(s.core.id, s.sel, s.slot.gtid, 0)],
                     generation := 0, arrivals := [], broken := false }
  ({ r.1 with groups := r.1.groups ++ [g] }, r.2)

/-- JOIN of a set group (R284). -/
def joinSet (d a : GReg) (s : State) : Out :=
  if s.g a = 0 then
    if s.groupsOf s.slot.kernel ≥ 4096 ∨ s.setsOf s.slot.gtid ≥ 16 then trap Cause.groupInvalid (s.g a) s
    else
      let r := s.createGroup none
      retire 4 (r.1.setG d (r.2.zeroExtend 64))
  else match s.groups.findIdx? fun g => decide (g.kernel = s.slot.kernel ∧ g.id.toNat = bits (s.g a) 0 32) && g.rect.isNone with
    | none => trap Cause.groupInvalid (s.g a) s
    | some i => match s.groups[i]? with
      | none => trap Cause.groupInvalid (s.g a) s
      | some g =>
        if g.has s.slot.gtid then retire 4 (s.setG d (BitVec.ofNat 64 (bits (s.g a) 0 32)))
        else if s.setsOf s.slot.gtid ≥ 16 then trap Cause.groupInvalid (s.g a) s
        else retire 4 ((s.addMember i g).setG d (BitVec.ofNat 64 (bits (s.g a) 0 32)))

/-- Whether two blocks of cores of one die meet: base core, log2 width and height. -/
def blocksMeet (a b : Nat × Nat × Nat) : Bool :=
  decide (coreDie a.1 = coreDie b.1 ∧ coreX a.1 < coreX b.1 + 2 ^ b.2.1 ∧ coreX b.1 < coreX a.1 + 2 ^ a.2.1 ∧
    coreY a.1 < coreY b.1 + 2 ^ b.2.2 ∧ coreY b.1 < coreY a.1 + 2 ^ a.2.2)

/-- The aligned block of a shape that contains a core (R9, R284). -/
def blockAt (core lw lh : Nat) : Nat × Nat × Nat :=
  (core - core % 2 ^ lw - 32 * (coreY core % 2 ^ lh), lw, lh)

/-- RECT of a member of a block (R9). -/
def rectWord (core : Nat) (b : Nat × Nat × Nat) : Word :=
  BitVec.ofNat 64 (2 ^ 16 + b.2.2 * 2 ^ 12 + b.2.1 * 2 ^ 8 + (coreY core - coreY b.1) * 2 ^ 4 + (coreX core - coreX b.1))

/-- JOIN of a rectangle (R284): not in an activation, not on a dispatch core, not by a member of one. -/
def joinRect (d a b : GReg) (s : State) : Out :=
  let lw := bits (s.g b) 0 4
  let lh := bits (s.g b) 4 4
  let blk := blockAt s.core.id lw lh
  if s.g a ≠ 0 then trap Cause.groupInvalid (s.g a) s
  else if lw > 4 ∨ lh > 4 then trap Cause.groupInvalid (s.g b) s
  else if s.sel = .act ∨ isDispatch s.core.id ∨ s.slot.rect.getLsbD 16 then trap Cause.groupInvalid (s.g a) s
  else match s.groups.findIdx? fun g => decide (g.kernel = s.slot.kernel ∧ g.rect = some blk) with
    | some i => match s.groups[i]? with
      | some g => retire 4 (((s.addMember i g).mapSlot fun t => { t with rect := rectWord s.core.id blk }).setG d (g.id.zeroExtend 64))
      | none => trap Cause.groupInvalid (s.g b) s
    | none =>
      if s.groups.any fun g => match g.rect with
        | some r => blocksMeet r blk
        | none => false
      then trap Cause.groupInvalid (s.g b) s
      else if s.groupsOf s.slot.kernel ≥ 4096 then trap Cause.groupInvalid (s.g a) s
      else
        let r := s.createGroup (some blk)
        retire 4 ((r.1.mapSlot fun t => { t with rect := rectWord s.core.id blk }).setG d (r.2.zeroExtend 64))

/-- JOIN gD, gA, gB (R284). -/
def execJoin (d a b : GReg) (s : State) : Out :=
  issue (.join d a b) s fun s =>
    if bits (s.g a) 32 32 ≠ 0 then trap Cause.groupInvalid (s.g a) s
    else match bits (s.g b) 62 2 with
      | 0 => if bits (s.g b) 0 62 ≠ 0 then trap Cause.groupInvalid (s.g b) s else joinSet d a s
      | 1 => if bits (s.g b) 8 54 ≠ 0 then trap Cause.groupInvalid (s.g b) s else joinRect d a b s
      | _ => trap Cause.groupInvalid (s.g b) s

/-! ### GBAR and GIDX (R277, R286) -/

/-- Records the arrival of the slot in focus in its generation, once, with VT at issue (R277). -/
def State.arrive (s : State) (i : Nat) (g : Group) (n : Nat) : State :=
  if g.arrived s.slot.gtid n then s else s.setGroup i { g with arrivals := g.arrivals ++ [(s.slot.gtid, n, s.vt)] }

/-- Arrivals no member still waits on are forgotten. -/
def Group.prune (g : Group) : Group :=
  let low := (g.members.map fun m => m.2.2.2).foldl min (g.generation + 1)
  { g with arrivals := g.arrivals.filter fun a => low ≤ a.2.1 }

/-- The slot in focus passes generation n. -/
def State.passBarrier (s : State) (i : Nat) (g : Group) (n : Nat) : State :=
  let ms := g.members.map fun m => if m.2.2.1 = s.slot.gtid then (m.1, m.2.1, m.2.2.1, n + 1) else m
  s.setGroup i (Group.prune { g with members := ms })

/-- GBAR gA: the arrival stands though the wait is abandoned; it passes when every member has arrived and the package
datum is after the latest arrival (R277). A generation follows the one before it. -/
def execGbar (a : GReg) (s : State) : Out :=
  issue (.gbar a) s fun s =>
    if s.sel = .act then trap Cause.blockingInActivation s.word s
    else match s.groupOperand (s.g a) with
      | .error c => trap c (s.g a) s
      | .ok i => match s.groups[i]? with
        | none => trap Cause.groupInvalid (s.g a) s
        | some g0 =>
          let n := g0.genOf s.slot.gtid
          let s1 := s.arrive i g0 n
          match s1.groups[i]? with
          | none => stall s1
          | some g =>
            if decide (n < g.generation) && g.allArrived n && stampAfter (s1.datum .pkg s1.core.id) (g.latest s1.vt n) then
              retire 4 (s1.passBarrier i g n)
            else stall s1

/-- INDEX of a member (R286). -/
def Group.index (g : Group) (core : Nat) (gtid : Word) : Nat :=
  match g.rect with
  | some b => (coreY core - coreY b.1) * 2 ^ b.2.1 + (coreX core - coreX b.1)
  | none => (g.members.takeWhile fun m => m.2.2.1 ≠ gtid).length

/-- GIDX gD, gA (R286). -/
def execGidx (d a : GReg) (s : State) : Out :=
  issue (.gidx d a) s fun s =>
    match s.groupOperand (s.g a) with
    | .error c => trap c (s.g a) s
    | .ok i => match s.groups[i]? with
      | none => trap Cause.groupInvalid (s.g a) s
      | some g => retire 4 (s.setG d (BitVec.ofNat 64 (g.members.length % 65536 * 2 ^ 32 + g.index s.core.id s.slot.gtid)))

end Sys2Proof.Machine
end

