-- ==== Sys2Proof/Machine/Messages.lean ====
section
/-! DEFINITION. Messages and channels (R236 to R243, R249 to R258 of spec/16; R275 of spec/17; R288 of spec/19; R352 of
spec/24). -/

namespace Sys2Proof.Machine

/-! ### Channels (R236, R249, R251) -/

/-- Sets the event latch of both slots (R275). -/
def Core.wake (c : Core) : Core := { c with task := { c.task with latch := true }, act := { c.act with latch := true } }

/-- Replaces a channel. -/
def Core.setChan (c : Core) (n : Chan) (h : Channel) : Core := { c with chans := c.chans.set n h }

/-- Whether every slot of the ring holds a message (R236). -/
def Channel.full (h : Channel) : Bool := decide (h.msgs.length ≥ h.depth)

/-- The slot the next message takes: the first free one after LAST, in circular order (R236). -/
def Channel.nextSlot (h : Channel) : Nat :=
  ((List.range h.depth).map fun i => (h.last + 1 + i) % h.depth).find? (fun k => !h.msgs.any fun m => decide (m.slot = k)) |>.getD 0

/-- The oldest message not taken (R257). -/
def Channel.oldest (h : Channel) : Option RingMsg := h.msgs.find? fun m => !m.taken

/-- Marks the message in a slot taken. -/
def Channel.take (h : Channel) (slot : Nat) : Channel :=
  { h with msgs := h.msgs.map fun m => if m.slot = slot then { m with taken := true } else m }

/-- Removes the message in a slot. -/
def Channel.remove (h : Channel) (slot : Nat) : Channel := { h with msgs := h.msgs.filter fun m => m.slot ≠ slot }

/-- Whether selection may start an activation on a channel (R237, R251). -/
def Channel.pending (h : Channel) : Bool := h.valid && !h.hold && !h.active && h.wanting

/-- Unbinds a channel; an Active one after its END (R251, R258). -/
def Channel.unbound (h : Channel) : Channel :=
  if !h.valid then h else if h.active then { h with unbind := true } else .reset

/-- The 128 bytes of a placed message (R236). -/
def ringImage (env : Word) (payload : List Word) : List Byte :=
  let l := dwordBytes (env :: payload.take 8)
  l ++ List.replicate (128 - l.length) 0

/-- Offset of a ring slot. -/
def Channel.slotOfs (h : Channel) (slot : Nat) : Nat := h.ring + 128 * slot

/-- The envelope and payload words of a ring slot, zero beyond COUNT (R236, R257). -/
def Core.ringWords (c : Core) (h : Channel) (slot : Nat) : List Word :=
  let env := memDword c.sram (h.slotOfs slot)
  env :: (List.range 8).map fun i => if i < bits env 32 4 then memDword c.sram (h.slotOfs slot + 8 + 8 * i) else 0

/-- Whether the bytes of a ring slot are poisoned (R326). -/
def Core.ringPoisoned (c : Core) (h : Channel) (slot : Nat) : Bool :=
  c.poison.contains (h.slotOfs slot / 64) || c.poison.contains (h.slotOfs slot / 64 + 1)

/-- Places a message in a ring: its bytes are written whole, which clears poison there (R236, R326). -/
def Core.placeAs (c : Core) (n : Chan) (env : Word) (payload : List Word) (m : RingMsg) : Core :=
  let h := c.chans[n]
  let k := h.nextSlot
  let line := h.slotOfs k / 64
  Core.wake { c with
    sram := memPut c.sram (h.slotOfs k) (ringImage env payload)
    poison := c.poison.filter fun l => l ≠ line ∧ l ≠ line + 1
    chans := c.chans.set n { h with msgs := h.msgs ++ [{ m with slot := k }], last := k } }

/-- The ring slot placed last takes over an uncorrectable error of the slot its message was read from (R289, R326). -/
def Core.spoilPlaced (c : Core) (n : Chan) (bad : Bool) : Core :=
  let line := c.chans[n].slotOfs c.chans[n].last / 64
  { c with poison := if bad then c.poison ++ [line, line + 1] else c.poison }

/-- Places a new message; one that comes from a stage's queue has its key, and is stealable (R288). -/
def Core.place (c : Core) (n : Chan) (env : Word) (payload : List Word) (m : Msg) (key : Option (BitVec 32)) : Core :=
  (c.placeAs n env payload
    { slot := 0, taken := false, stealable := key.isSome, rollbacks := 0, kernel := m.kernel, key := key }).spoilPlaced n m.poisoned

/-- HOLD of every channel as a mask. -/
def Core.holdMask (c : Core) : BitVec 16 := BitVec.ofNat 16 (channelBits c.chans fun h => h.hold)

/-- A bit of a mask set. -/
def putBit (x : BitVec 16) (n : Nat) (v : Bool) : BitVec 16 := if v then x ||| 1#16 <<< n else x &&& ~~~(1#16 <<< n)

/-- What HOLD is to be after a change of hands follows an operation that meets the channel in the meantime (R261). -/
def Core.noteHold (c : Core) (n : Chan) (v : Bool) : Core := { c with heldBefore := c.heldBefore.map fun m => putBit m n.val v }

/-- Sets HOLD of a valid channel (R243). -/
def Core.applyHold (c : Core) (n : Chan) (v : Bool) : Core :=
  if c.chans[n].valid then Core.wake ((c.setChan n { c.chans[n] with hold := v }).noteHold n v) else c

/-- Sets READY of a valid channel (R243). -/
def Core.applyReady (c : Core) (n : Chan) (v : Bool) : Core :=
  if c.chans[n].valid then Core.wake (c.setChan n { c.chans[n] with ready := v }) else c

/-- A channel as CHB binds it: Held, empty (R251, R258). -/
def boundChannel (a e0 : Word) : Channel :=
  let d := chanDecl a.toNat
  bindDecl d (bits e0 0 19) true

/-- Applies a CHB (R258): a bind to a channel that has become valid, and an unbind of an invalid one, do nothing. -/
def Core.applyBind (c : Core) (n : Chan) (v : Bool) (a e0 : Word) : Core :=
  if v then (if c.chans[n].valid then c else Core.wake ((c.setChan n (boundChannel a e0)).noteHold n true))
  else if c.chans[n].valid then Core.wake (c.setChan n c.chans[n].unbound) else c

/-! ### Send queues (R240) -/

/-- Whether a message is a refusal made by a network interface (R253). -/
def Msg.refusal (m : Msg) : Bool :=
  match m.body with
  | .message env _ => env.getLsbD 37
  | _ => false

/-- Whether a message holds an entry of its slot's queue: refusals and operations on the own core hold none. -/
def Msg.takes (m : Msg) : Bool :=
  match m.body with
  | .bind _ _ _ _ => false
  | .hold _ _ => decide (m.dst ≠ m.src) || m.far.isSome
  | .ready _ _ => decide (m.dst ≠ m.src) || m.far.isSome
  | _ => !m.refusal

/-- Entries taken of a slot's request or reply queue, by messages on their way, kept at a gateway or held; the copies of one SENDM share
one (R240, R256, R352). -/
def State.entriesTaken (s : State) (core : Nat) (sel : SlotSel) (reply : Bool) : Nat :=
  (((s.msgs ++ s.kept.map (·.msg) ++ ((s.coreOf core).slot sel).held).filter fun m =>
    m.takes && m.origin.isNone && decide (m.src = core ∧ m.sel = sel ∧ m.reply = reply)).map (·.entry)).eraseDups.length

/-- Takes an entry of the slot's queue: four at most; an activation traps, a resident task waits (R240, R242). -/
def takeEntry (reply : Bool) (tval : Word) (s : State) (k : Nat → State → Out) : Out :=
  if s.entriesTaken s.core.id s.sel reply ≥ 4 then
    (if s.sel = .act then trap (if reply then Cause.replyFull else Cause.requestFull) tval s else stall s)
  else
    let f := s.fresh
    k f.1 f.2

/-- A message of the slot in focus to a core of this package. -/
def State.msgOf (s : State) (entry : Nat) (reply : Bool) (dst : Nat) (body : MsgBody) : Msg :=
  { entry := entry, src := s.core.id, sel := s.sel, reply := reply, dst := dst, kernel := s.slot.kernel,
    vf := (s.context s.slot.ctx).vf, body := body, sends := 0, waiting := false, since := s.vt, far := none, origin := none, poisoned := false }

/-- A core a message goes to: its local endpoint, and its device where that is another one. -/
abbrev Dest := Nat × Option Nat

/-- A message of the slot in focus to a core of any device. -/
def State.msgTo (s : State) (entry : Nat) (reply : Bool) (d : Dest) (body : MsgBody) : Msg :=
  { s.msgOf entry reply d.1 body with far := d.2 }

/-- Releases messages to the network, or holds them until END in an activation (R242 to R244). -/
def State.sendOut (s : State) (ms : List Msg) : State :=
  if s.sel = .act then s.mapSlot fun t => { t with held := t.held ++ ms } else { s with msgs := s.msgs ++ ms }

/-! ### Destinations (R239, R373) -/

/-- The destination core a word names (R239); SENDR reads only its low 21 bits. The physical function may name a core of another device
by its endpoint, with a route to it or without one (R344, R352, R373; log entry 57). -/
def State.destination (s : State) (reply : Bool) (x : Word) : Except Cause Dest :=
  let h := if reply then 0 else taHandle x
  let zero := reply || decide (bits x 28 20 = 0 ∧ bits x 21 3 = 0)
  let vf := (s.context s.slot.ctx).vf
  let inSet := fun (c : Nat) => if zero && s.inCoreSet vf c then .ok (c, none) else .error Cause.outsideWindow
  if h = 0 then
    if bits x 13 8 = s.device.toNat then inSet (bits x 0 13)
    else if zero ∧ vf = pfFunction ∧ bits x 0 13 < 4096 then .ok (bits x 0 13, some (bits x 13 8))
    else .error Cause.outsideWindow
  else match s.handleOf s.core.id s.slot.ctx h with
    | .error c => .error c
    | .ok hd => match hd.node with
      | .own n => match s.node n with
        | some { body := .epwin base w ht, .. } =>
          if bits x 0 12 ≥ w * ht then .error Cause.outsideWindow else inSet (windowMember base w (bits x 0 12))
        | _ => .error Cause.kindMismatch
      | r => if s.kindOf r = some .epwin then .error Cause.outsideWindow else .error Cause.kindMismatch

/-- An envelope (R238). -/
def envelope (source rch ch count : Nat) (reply refused : Bool) : Word :=
  BitVec.ofNat 64 ((if refused then 2 ^ 37 else 0) + (if reply then 2 ^ 36 else 0) + count * 2 ^ 32 + ch * 2 ^ 28 + rch * 2 ^ 24
    + source)

/-- SEND and SENDR (R242). -/
def sendOne (i : Instr) (reply : Bool) (ch : Chan) (n : BitVec 4) (a d : GReg) (s : State) : Out :=
  issue i s fun s =>
    match s.destination reply (s.g a) with
    | .error c => trap c (s.g a) s
    | .ok dst => takeEntry reply (s.g a) s fun e t =>
        let rch := if reply then 0 else bits (s.g a) 24 4
        retire 4 (t.sendOut [s.msgTo e reply dst
          (.message (envelope (s.endpoint s.core.id) rch ch.val n.toNat reply false) ((block d n.toNat).map s.g))])

/-- SEND gA, chN, gD, n (R242). -/
def execSend (ch : Chan) (n : BitVec 4) (a d : GReg) (s : State) : Out := sendOne (.send ch n a d) false ch n a d s

/-- SENDR gA, chN, gD, n (R242). -/
def execSendr (ch : Chan) (n : BitVec 4) (a d : GReg) (s : State) : Out := sendOne (.sendr ch n a d) true ch n a d s

/-- Inserts into a list kept in rising order. -/
def insertNat (x : Nat) : List Nat → List Nat
  | [] => [x]
  | y :: l => if x ≤ y then x :: y :: l else y :: insertNat x l

/-- Numbers in rising order. -/
def sortNat (l : List Nat) : List Nat := l.foldr insertNat []

/-- The hub as the place of stage queues and of spawns for any core. -/
def hubEndpoint : Nat := 0x1118

/-- The copies a SENDM makes: a destination and a body each; every one in the function's core set (R256, R373). -/
def State.copiesOf (s : State) (ch : Chan) (x : Word) (env : Word) (payload : List Word) : Except (Cause × Word) (List (Nat × MsgBody)) :=
  if bits x 60 2 ≠ 0 ∨ bits x 36 20 ≠ 0 ∨ bits x 62 2 > 1 then .error (Cause.groupInvalid, x)
  else if bits x 62 2 = 0 then
    if bits x 32 4 ≠ 0 then .error (Cause.groupInvalid, x)
    else match s.groupOf (bits x 0 32) with
      | .error c => .error (c, x)
      | .ok i => match s.groups[i]? with
        | none => .error (Cause.groupInvalid, x)
        | some g =>
          let dests := sortNat ((g.members.filter fun m => m.2.2.1 ≠ s.slot.gtid).map (·.1))
          if dests.all fun c => s.inCoreSet (s.context s.slot.ctx).vf c then .ok (dests.map fun c => (c, .message env payload))
          else .error (Cause.outsideWindow, x)
  else match s.stages.find? fun q => decide (q.kernel = s.slot.kernel ∧ q.stage = bits x 32 4) with
    | none => .error (Cause.groupInvalid, x)
    | some q =>
      if q.mask.getLsbD ch.val then .ok [(hubEndpoint, .stage q.stage (BitVec.ofNat 32 (bits x 0 32)) env payload)]
      else .error (Cause.channelInvalid, BitVec.ofNat 64 ch.val)

/-- SENDM gA, chN, gD, n (R256): one entry for all copies; with no destination it is freed at once. -/
def execSendm (ch : Chan) (n : BitVec 4) (a d : GReg) (s : State) : Out :=
  issue (.sendm ch n a d) s fun s =>
    let env := envelope (s.endpoint s.core.id) (bits (s.g a) 56 4) ch.val n.toNat false false
    match s.copiesOf ch (s.g a) env ((block d n.toNat).map s.g) with
    | .error (c, v) => trap c v s
    | .ok l => takeEntry false (s.g a) s fun e t => retire 4 (t.sendOut (l.map fun b => s.msgOf e false b.1 b.2))

/-! ### RECV and PEEK (R257) -/

/-- Writes consecutive registers. -/
def State.setBlock (s : State) : List GReg → List Word → State
  | r :: rs, x :: xs => (s.setG r x).setBlock rs xs
  | _, _ => s

/-- What RECV does to its channel: removed now for a task, at END for an activation (R257). -/
def State.takeMessage (s : State) (ch : Chan) (h : Channel) (slot : Nat) : State :=
  if s.sel = .act then
    ({ s with core := s.core.setChan ch (h.take slot) }).mapSlot fun t => { t with took := t.took ++ [(ch.val, slot)] }
  else { s with core := s.core.setChan ch (h.remove slot) }

/-- RECV gD, chN (R257); reading a poisoned slot traps 0x2F. -/
def execRecv (ch : Chan) (d : GReg) (s : State) : Out :=
  issue (.recv ch d) s fun s =>
    let h := s.core.chans[ch]
    if !h.valid then trap Cause.channelInvalid (BitVec.ofNat 64 ch.val) s
    else match h.oldest with
      | none => if s.sel = .act then trap Cause.blockingInActivation s.word s else stall s
      | some m =>
        if s.core.ringPoisoned h m.slot then trap Cause.errorConsumed (mkTa 0 (h.slotOfs m.slot)) s
        else retire 4 ((s.takeMessage ch h m.slot).setBlock (block d 9) (s.core.ringWords h m.slot))

/-- PEEK gD, chN (R257). -/
def execPeek (ch : Chan) (d : GReg) (s : State) : Out :=
  issue (.peek ch d) s fun s =>
    let h := s.core.chans[ch]
    if !h.valid then trap Cause.channelInvalid (BitVec.ofNat 64 ch.val) s
    else match h.oldest with
      | none => retire 4 (s.setBlock (block d 9) (BitVec.allOnes 64 :: List.replicate 8 0))
      | some m =>
        if s.core.ringPoisoned h m.slot then trap Cause.errorConsumed (mkTa 0 (h.slotOfs m.slot)) s
        else retire 4 (s.setBlock (block d 9) (s.core.ringWords h m.slot))

/-! ### CHB, CHHOLD and CHREADY (R243, R258) -/

/-- Whether two ranges meet. -/
def rangesMeet (a n b m : Nat) : Bool := decide (a < b + m ∧ b < a + n)

/-- The checks of a bind, in order (R258). A dispatch core has no channels (R292). -/
def bindFault (s : State) (ch : Chan) (a e0 : Word) : Option Cause :=
  let d := chanDecl a.toNat
  let ring := bits e0 0 19
  let n := 128 * d.depth
  let c := s.core
  if isDispatch c.id || c.chans[ch].valid || decide (d.ch ≠ ch.val ∨ d.low ≠ 0 ∨ d.entry % 2 = 1) || !powerOfTwo d.depth 8 ||
      decide (bits e0 19 45 ≠ 0 ∨ ring % 128 ≠ 0) ||
      decide (ring < c.dataEnd ∨ ring + n > c.scratch) || c.regions.any (fun r => rangesMeet ring n r.ofs r.size) ||
      (List.finRange 16).any (fun i => c.chans[i].valid && rangesMeet ring n c.chans[i].ring c.chans[i].ringBytes) then
    some Cause.channelInvalid
  else if d.stage ≠ 0 ∧ !s.stages.any (fun q => decide (q.kernel = s.slot.kernel ∧ q.stage = d.stage)) then some Cause.groupInvalid
  else none

/-- CHB gA, chN, v (R258): at once for a resident task, at END for an activation. -/
def execChb (ch : Chan) (v : Bool) (a : GReg) (s : State) : Out :=
  issue (.chb ch v a) s fun s =>
    match (if v then bindFault s ch (s.g a) (s.e 0) else none) with
    | some c => trap c (s.g a) s
    | none =>
      if s.sel = .act then
        let f := s.fresh
        retire 4 (f.2.sendOut [s.msgOf f.1 false s.core.id (.bind ch v (s.g a) (s.e 0))])
      else retire 4 { s with core := s.core.applyBind ch v (s.g a) (s.e 0) }

/-- CHHOLD and CHREADY (R243): a resident task's operation on its own core takes effect at once; another core's travels as
a message. -/
def channelOp (i : Instr) (body : MsgBody) (own : Core → Core) (a : GReg) (s : State) : Out :=
  issue i s fun s =>
    match s.destination false (s.g a) with
    | .error c => trap c (s.g a) s
    | .ok dst =>
      if dst = (s.core.id, none) then
        if s.sel = .act then
          let f := s.fresh
          retire 4 (f.2.sendOut [s.msgTo f.1 false dst body])
        else retire 4 { s with core := own s.core }
      else takeEntry false (s.g a) s fun e t => retire 4 (t.sendOut [s.msgTo e false dst body])

/-- CHHOLD gA, chN, v (R243). -/
def execChhold (ch : Chan) (v : Bool) (a : GReg) (s : State) : Out :=
  channelOp (.chhold ch v a) (.hold ch v) (fun c => c.applyHold ch v) a s

/-- CHREADY gA, chN, v (R243). -/
def execChready (ch : Chan) (v : Bool) (a : GReg) (s : State) : Out :=
  channelOp (.chready ch v a) (.ready ch v) (fun c => c.applyReady ch v) a s

/-! ### Arrival (R236, R240, R241, R252 to R255) -/

/-- Whether a message's place among those of its lane is known: it was sent on this device, or its sequence has been noted (R352). -/
def Msg.placed (m : Msg) : Bool := match m.origin with
  | some o => o.noted
  | none => true

/-- Whether an earlier message of the same slot to the same core on the same network has yet to take effect (R240). -/
def State.overtakes (s : State) (m : Msg) : Bool :=
  s.msgs.any fun x => x.placed && decide (x.origin.map (fun o => o.dev) = m.origin.map fun o => o.dev) &&
    decide (x.src = m.src ∧ x.sel = m.sel ∧ x.reply = m.reply ∧ x.dst = m.dst ∧ x.far = m.far ∧ x.refusal = m.refusal
    ∧ x.entry < m.entry) && (match x.body with
      | .spawn _ _ _ _ => false
      | _ => true)

/-- Removes message n. -/
def State.dropMsg (s : State) (n : Nat) : State := { s with msgs := dropAt s.msgs n }

/-- Whether a core serves a kernel of another function than the sender's (R253). -/
def Core.alien (c : Core) (vf : Nat) : Bool :=
  match c.alloc with
  | some a => decide (a.vf ≠ vf)
  | none => false

/-- Turns request message n into its refusal, on its way back to the sender (R253). -/
def State.refuseMsg (s : State) (n : Nat) (m : Msg) (env : Word) (payload : List Word) (by_ : Nat) : State :=
  let f := s.fresh
  let e := envelope (s.endpoint by_) (bits env 28 4) (bits env 24 4) (bits env 32 4) true true
  let r : Msg := { m with entry := f.1, src := by_, sel := .task, reply := true, dst := m.src, far := m.origin.map (fun o => o.dev),
                          origin := none, body := .message e payload, waiting := false }
  { f.2.dropMsg n with msgs := (f.2.dropMsg n).msgs ++ [r] }

/-- Channel number of an envelope (R238). -/
def envChan (env : Word) : Chan := ⟨bits env 28 4, Nat.mod_lt _ (by decide)⟩

/-- The waiting messages that arrived before message n: those before it in the list, or for one still on its way all of them (R254). -/
def State.waitAhead (s : State) (n : Nat) (m : Msg) : List Msg := (if m.waiting then s.msgs.take n else s.msgs).filter (·.waiting)

/-- Whether a message that arrived earlier waits for the same ring (R254). -/
def State.othersWait (s : State) (n : Nat) (m : Msg) (ch : Chan) : Bool :=
  (s.waitAhead n m).any fun x => decide (x.dst = m.dst) && (match x.body with
    | .message env _ => decide (envChan env = ch)
    | _ => false)

/-- Whether a message that arrived earlier waits for the same stage's queue (R254, R288). -/
def State.othersWaitStage (s : State) (n : Nat) (m : Msg) (stage : Nat) : Bool :=
  (s.waitAhead n m).any fun x => decide (x.kernel = m.kernel) && (match x.body with
    | .stage k _ _ _ => decide (k = stage)
    | _ => false)

/-- Marks message n waiting; waiting messages stand in arrival order, from the VT on at which they arrived (R252, R254). -/
def State.waitMsg (s : State) (n : Nat) (m : Msg) : State :=
  if m.waiting then s else { s.dropMsg n with msgs := (s.dropMsg n).msgs ++ [{ m with waiting := true, since := s.vt }] }

/-- Whether a core's tenant, of a function, has been saved and no other has the core: messages for it keep waiting (R261). -/
def State.tenantSaved (s : State) (core vf : Nat) : Bool :=
  (s.coreOf core).alloc.isNone && s.saved.any fun x => decide (x.core = core ∧ (s.context x.slot.ctx).vf = vf) && x.image.isSome

/-- Message n meets its channel: placed, refused, discarded or made to wait (R236, R241, R253 to R255, R261). -/
def State.meetChannel (s : State) (n : Nat) (m : Msg) (env : Word) (payload : List Word) : State :=
  let c := s.coreOf m.dst
  let ch := envChan env
  let h := c.chans[ch]
  if s.tenantSaved m.dst m.vf then s.waitMsg n m
  else if c.alien m.vf || !h.valid then (if m.reply then s.dropMsg n else s.refuseMsg n m env payload m.dst)
  else if h.full then (if !m.reply && h.refuse then s.refuseMsg n m env payload m.dst else s.waitMsg n m)
  else if (m.reply || !h.refuse) && s.othersWait n m ch then s.waitMsg n m
  else (s.dropMsg n).setCore m.dst (c.place ch env payload m none)

/-- The cores of a kernel's stage in rising order (R287). -/
def State.stageCores (s : State) (kernel stage : Nat) : List Nat :=
  match tabGet s.kernels kernel with
  | none => []
  | some k => (sortNat k.cores).filter fun c => match (s.coreOf c).alloc with
    | some a => decide (a.kernel = kernel ∧ a.stage = stage)
    | none => false

/-- A stage's queue whose head has just come there: the core it goes to is core KEY mod n of the stage's cores (R288). -/
def State.choose (s : State) (q : StageQueue) : StageQueue :=
  { q with pick := match q.msgs with
      | { body := .stage _ key _ _, .. } :: _ =>
        (s.stageCores q.kernel q.stage)[key.toNat % (s.stageCores q.kernel q.stage).length]?
      | _ => none }

/-- The policy a stage's channel declares (R25, R288). -/
def State.stageRefuses (s : State) (kernel : Nat) (ch : Chan) : Bool :=
  match (s.kernelHeader kernel).chans.find? fun d => d.ch = ch.val with
  | some d => d.refuse
  | none => false

/-- Message n enters its stage's queue, waits, or is refused (R288). -/
def State.enterStage (s : State) (n : Nat) (m : Msg) (stage : Nat) (env : Word) (payload : List Word) : State :=
  match s.stages.findIdx? fun q => decide (q.kernel = m.kernel ∧ q.stage = stage) with
  | none => s.refuseMsg n m env payload hubEndpoint
  | some i => match s.stages[i]? with
    | none => s
    | some q =>
      let refuses := s.stageRefuses m.kernel (envChan env)
      if q.msgs.length ≥ q.depth then (if refuses then s.refuseMsg n m env payload hubEndpoint else s.waitMsg n m)
      else if !refuses && s.othersWaitStage n m stage then s.waitMsg n m
      else
        let q1 := { q with msgs := q.msgs ++ [m] }
        { s.dropMsg n with stages := s.stages.set i (if q.msgs = [] then s.choose q1 else q1) }

/-- A message or stage message that may take effect now does (R236, R288). -/
def State.arriveMsg (s : State) (n : Nat) (m : Msg) : State :=
  if s.overtakes m then s
  else match m.body with
    | .message env payload => s.meetChannel n m env payload
    | .stage stage _ env payload => s.enterStage n m stage env payload
    | _ => s

/-! ### Messages over the span fabric (R343, R344, R352) -/

/-- Which of a gateway's sequences a message takes: by source slot, network and destination core (R352). -/
def Msg.lane (m : Msg) (dev : Nat) : Nat :=
  ((m.src * 2 + (match m.sel with | .task => 0 | .act => 1)) * 2 + (if m.reply then 1 else 0)) * 2 ^ 21 + dev * 8192 + m.dst

/-- Message n leaves for another device: the sending gateway gives it a sequence and keeps it; while the route entry is frozen it stays
at its source, and without a route its copy does not leave (R344, R352). -/
def State.leaveFar (s : State) (n : Nat) (m : Msg) (dev : Nat) : State :=
  if (s.routeEntry m.src dev).getLsbD 62 then s
  else
    let seq := tabGetD s.msgSeqs (m.lane dev) 0 + 1
    let r := s.route m.src dev m.dst
    { s.dropMsg n with
      msgSeqs := tabPut s.msgSeqs (m.lane dev) seq
      kept := s.kept ++ [{ msg := m, seq := seq, sent := s.vt, link := r.getD 31, out := r.isSome }] }

/-- Whether a mark is that of a message's source slot and network at its destination core. -/
def MsgMark.isFor (k : MsgMark) (m : Msg) (dev : Nat) : Bool :=
  decide (k.core = m.dst ∧ k.dev = dev ∧ k.src = m.src ∧ k.sel = m.sel ∧ k.reply = m.reply)

/-- The interface notes message n's sequence in a mark, which it makes where there is none: the message has arrived (R352). -/
def State.noteMsg (s : State) (n : Nat) (m : Msg) (o : FarOrigin) : State :=
  let f := s.fresh
  { f.2 with
    msgMarks := (f.2.msgMarks.filter fun k => !k.isFor m o.dev) ++
      [{ core := m.dst, dev := o.dev, src := m.src, sel := m.sel, reply := m.reply, seq := o.seq, vt := s.vt }]
    msgs := f.2.msgs.set n { m with entry := f.1, origin := some { o with noted := true } } }

/-- Message n from another device meets its core's interface: a duplicate, at or behind the mark within a window of 2^15, is discarded; the
next in sequence is noted; one past it waits for those before; one without a mark needs one of the core's 64 (R142, R352; log entry 91). -/
def State.meetMark (s : State) (n : Nat) (m : Msg) (o : FarOrigin) : State :=
  match s.msgMarks.find? (·.isFor m o.dev) with
  | some k =>
    if (k.seq - o.seq).toNat < 2 ^ 15 then s.dropMsg n
    else if o.seq = k.seq + 1 then s.noteMsg n m o
    else s
  | none => if (s.msgMarks.filter fun k => decide (k.core = m.dst)).length < 64 then s.noteMsg n m o else s

/-- MESSAGE_PLACE: message n arrives at its destination, or at the gateway by which it leaves the device; one from another device is noted
first (R236, R253, R352). -/
def execMessagePlace (n : Nat) (s : State) : Out :=
  match s.msgs[n]? with
  | none => .next s
  | some m =>
    if m.waiting then .next s
    else match m.far with
      | some dev => if s.overtakes m then .next s else .next (s.leaveFar n m dev)
      | none => match m.origin with
        | some o => .next (if o.noted then s.arriveMsg n m else s.meetMark n m o)
        | none => .next (s.arriveMsg n m)

/-- WAITING_MESSAGE_ENTER: waiting message n enters as soon as a slot is free; at a channel that has been unbound it is
refused or discarded (R254). -/
def execWaitingMessageEnter (n : Nat) (s : State) : Out :=
  match s.msgs[n]? with
  | none => .next s
  | some m => if m.waiting then .next (s.arriveMsg n m) else .next s

/-- CHANNEL_OPERATION_APPLY: operation n takes effect at its core, none on an invalid channel or a core that serves another
function (R243, R253). -/
def execChannelOperationApply (n : Nat) (s : State) : Out :=
  match s.msgs[n]? with
  | none => .next s
  | some m =>
    let c := s.coreOf m.dst
    if s.overtakes m ∨ !m.placed ∨ m.far.isSome ∨ s.tenantSaved m.dst m.vf then .next s
    else match m.body with
      | .hold ch v => .next (if c.alien m.vf then s.dropMsg n else (s.dropMsg n).setCore m.dst (c.applyHold ch v))
      | .ready ch v => .next (if c.alien m.vf then s.dropMsg n else (s.dropMsg n).setCore m.dst (c.applyReady ch v))
      | _ => .next s

/-- Names a kernel killed for a lost message (R331, R352). -/
def State.loseKept (s : State) (n : Nat) (k : Kept) : State :=
  { s with kept := dropAt s.kept n }.mustKill k.msg.kernel Cause.streamLost

/-- MESSAGE_RESEND: a message the gateway has kept for 32,768 cycles since it was sent is sent again, over the route of the moment, up to
24 times (R344, R352). -/
def execMessageResend (n : Nat) (s : State) : Out :=
  match s.kept[n]? with
  | none => .next s
  | some k =>
    if (s.vt - k.sent).toNat < Config.streamTimeout then .next s
    else if k.msg.sends ≥ 24 then .next (s.loseKept n k)
    else
      let r := s.route k.msg.src (k.msg.far.getD 0) k.msg.dst
      .next { s with kept := s.kept.set n { k with msg := { k.msg with sends := k.msg.sends + 1 }, sent := s.vt, link := r.getD 31, out := r.isSome } }

/-- GATEWAY_ACKNOWLEDGE: the destination's gateway has received a copy of kept message n and acknowledged it; that frees its queue entry
(R240, R352; log entry 57). -/
def execGatewayAcknowledge (n : Nat) (s : State) : Out :=
  match s.kept[n]? with
  | none => .next s
  | some k => if k.out ∧ s.arrives (some k.link) then .next { s with kept := dropAt s.kept n } else .next s

end Sys2Proof.Machine
end

