-- ==== Sys2Proof/Machine/Tasks.lean ====
section
/-! DEFINITION. Tasks and activations: GTIDs (R279), starting and ending (R8, R69, R237, R244, R248, R281), SPAWN, MIGR
(R282), OVLD (R274) and the pipeline's dealing, rebinding and stealing (R287 to R290). -/

namespace Sys2Proof.Machine

/-! ### GTIDs (R279) -/

/-- The serial after one: it wraps to 1 and is never 0. -/
def serialAfter (x : BitVec 32) : BitVec 32 := if x = 0xFFFFFFFF then 1 else x + 1

/-- The GTID of a serial (R51). -/
def State.gtidOf (s : State) (x : BitVec 32) : Word := BitVec.ofNat 64 (s.device.toNat * 2 ^ 32 + x.toNat)

/-- GTIDs of tasks created and not ended: in slots, in saved contexts and in spawns (R279). -/
def State.liveGtids (s : State) : List Word :=
  (s.allCores.flatMap fun c =>
    (if c.task.run = .free then [] else [c.task.gtid]) ++ (if c.act.run = .free then [] else [c.act.gtid]) ++
      c.act.held.filterMap fun m => match m.body with
        | .spawn g _ _ _ => some g
        | _ => none) ++
  (s.saved.map fun x => x.slot.gtid) ++
  s.msgs.filterMap fun m => match m.body with
    | .spawn g _ _ _ => some g
    | _ => none

/-- The first serial from x on that no live task holds. -/
def freeSerial (s : State) (live : List Word) : Nat → BitVec 32 → BitVec 32
  | 0, x => x
  | fuel + 1, x => if live.contains (s.gtidOf x) then freeSerial s live fuel (serialAfter x) else x

/-- A new GTID (R279). -/
def State.newGtid (s : State) : State × Word :=
  let live := s.liveGtids
  let x := freeSerial s live (live.length + 1) s.serial
  ({ s with serial := serialAfter x }, s.gtidOf x)

/-! ### Starting a resident task (R8, R69, R94, R107, R334) -/

/-- Whether a resident task can be placed on a core: its slot is free, the stores of the last task have settled and its copies completed
(R69), no activation there uses the vector or matrix state, and none left work in the engines (R93, R94, R107). -/
def State.vacant (s : State) (core : Nat) : Bool :=
  let c := s.coreOf core
  decide (c.task.run = .free) && c.task.request.isNone && c.matrix.isEmpty && c.vector.isEmpty &&
    !(s.stores.any fun x => decide (x.src = core ∧ x.origin = 0)) &&
    !(c.copy.queue.any (fun k => k.sel = .task) || c.copy.running.any (fun a => a.cmd.sel = .task) ||
      c.copy.settling.any (fun a => a.cmd.sel = .task)) &&
    (decide (c.act.run = .free) ||
      (!c.act.usedVector && c.accd.toList.all (· = 0) && c.mshape.toList.all (· = 0)))

/-- Whether a core accepts a new resident task: it can be placed there, and the core is not reserved for another (R282). -/
def State.accepts (s : State) (core : Nat) : Bool := s.vacant core && !(s.coreOf core).reserved

/-- A fresh slot for a task: registers zero, null witnesses; streams belong to the slot (R8, R140). -/
def Slot.fresh (t : Slot) : Slot := { Slot.reset with streams := t.streams }

/-- g16 to g23 from eight parameters (R8). -/
def Slot.withParams (t : Slot) (params : List Word) : Slot :=
  { t with g := Vector.ofFn fun (i : Fin 32) => if 16 ≤ i.val ∧ i.val ≤ 23 then params.getD (i.val - 16) 0 else t.g[i] }

/-- Starts a resident task; where its kernel's attachment holds it, it halts before its first instruction (R8, R332). -/
def State.startTask (s : State) (core : Nat) (gtid : Word) (pc : Word) (params : List Word) (kernel ctx : Nat) (priv : Bool)
    (rect : Word) : State :=
  let hold := s.heldAtStart kernel
  let pts := s.pointsFor kernel gtid
  let base := (s.coreOf core).fetchbase
  let s1 := s.onSlot core .task fun t =>
    { (t.fresh.withParams params) with
      gtid := gtid, pc := pc, kernel := kernel, ctx := ctx, priv := priv, rect := rect, points := pts, pointsVt := s.vt, fetchbase := base,
      run := if hold then .halted (.preempted Cause.debugHalt) else .running, haltVt := s.vt }
  if hold then
    { s1 with stops := s1.stops ++ [{ core := core, sel := .task, gtid := gtid, kernel := kernel, cause := Cause.debugHalt,
                                      tpc := pc, tval := 0, vt := s.vt, dump := none }] }
  else s1

/-! ### Ending (R69, R244) -/

/-- The engines of a core without a resident task hold nothing of it: v, k, ACCD, MSHAPE and landings read zero (R50, R69,
R107). -/
def Core.clearEngines (c : Core) : Core :=
  { c with
    v := Vector.replicate 16 (Vector.replicate 64 0), k := Vector.replicate 4 0, accd := Vector.replicate 4 0
    mshape := Vector.replicate 8 0, net := Vector.replicate 8 { read := false, due := none, refused := false }, flaws := [] }

/-- What an ending task leaves behind it: its groups, its debug entries, its loads sent early and what was detected for
it. -/
def State.forget (s : State) (core : Nat) (sel : SlotSel) : State :=
  let t := (s.coreOf core).slot sel
  let s1 := (s.leaveAll core t.gtid).clearPoints t.gtid
  let s2 := s1.onCore core fun c => { c with detected := c.detected.filter fun d => d.1 ≠ sel }
  { s2 with early := s2.early.filter (fun e => !(decide (e.core = core) && decide (e.sel = sel)))
            results := s2.results.filter fun r => !r.isOf core sel
            stops := s2.stops.filter fun p => !(decide (p.core = core) && decide (p.sel = sel))
            trapRecords := s2.trapRecords.filter fun p => !(decide (p.core = core) && decide (p.sel = sel)) }

/-- The resident task of a core ends: its slot is free (R69). -/
def State.endTask (s : State) (core : Nat) : State :=
  (s.forget core .task).onCore core fun c => { c.clearEngines with task := c.task.fresh }

/-- Whether every earlier instruction of the slot in focus has retired: queues, long-latency results and landings (R69). -/
def State.retiredAll (s : State) : Bool :=
  decide (s.queued = []) &&
    (decide (s.sel = .act) || !(s.copies.any fun c => decide (c.kernel = s.slot.kernel ∧ c.src = s.core.id) && (s.rectAt c.kernel c.dst).isSome))

/-- Whether a held message is an operation on the activation's own core, of this device (R243, R258). -/
def Msg.ownOp (m : Msg) (core : Nat) : Bool :=
  decide (m.dst = core) && m.far.isNone && match m.body with
    | .hold _ _ => true
    | .ready _ _ => true
    | .bind _ _ _ _ => true
    | _ => false

/-- Applies one of an activation's held operations on its own core (R243, R244, R258). -/
def State.applyHeld (s : State) (core : Nat) (m : Msg) : State :=
  match m.body with
  | .hold ch v => s.onCore core fun c => c.applyHold ch v
  | .ready ch v => s.onCore core fun c => c.applyReady ch v
  | .bind ch v a e0 => s.onCore core fun c => c.applyBind ch v a e0
  | _ => s

/-- Removes a trigger or taken message from its ring. -/
def State.removeMessage (s : State) (core : Nat) (x : Nat × Nat) : State :=
  s.onCore core fun c =>
    if h : x.1 < 16 then
      let n : Chan := ⟨x.1, h⟩
      c.setChan n { c.chans[n] with msgs := c.chans[n].msgs.filter fun m => !(decide (m.slot = x.2) && m.taken) }
    else c

/-- The messages an activation holds taken: its trigger and those of its RECVs. -/
def Slot.takenMessages (t : Slot) : List (Nat × Nat) :=
  (match t.chan, t.trigger with
    | some ch, some k => [(ch.val, k)]
    | _, _ => []) ++ t.took

/-- The channel of an activation that ends is no longer Active; an unbind that waited takes effect (R251). -/
def Core.deactivate (c : Core) (ch : Option Chan) : Core :=
  match ch with
  | none => c
  | some n =>
    let h := c.chans[n]
    if h.unbind then Core.wake (c.setChan n .reset) else c.setChan n { h with active := false }

/-- The slot of an activation is cleared; with no resident task the engines are too (R50, R107, R244). -/
def State.clearAct (s : State) (core : Nat) : State :=
  (s.forget core .act).onCore core fun c =>
    let c1 := if c.task.run = .free then c.clearEngines else c
    { c1 with act := c1.act.fresh }

/-- END of the activation of a core, once it may (R244, R258): held messages go, then the operations on its own core's channels take
effect, each in issue order (log entry 57); then the trigger and the taken messages are removed, and the slot is free. -/
def State.endActivation (s : State) (core : Nat) : State :=
  let t := (s.coreOf core).act
  let s1 := { s with msgs := s.msgs ++ t.held.filter fun (m : Msg) => !m.ownOp core }
  let s2 := (t.held.filter fun (m : Msg) => m.ownOp core).foldl (fun s m => s.applyHeld core m) s1
  let s3 := t.takenMessages.foldl (fun s x => s.removeMessage core x) s2
  (s3.onCore core fun c => c.deactivate t.chan).clearAct core

/-- Whether a store of the activation to its own core's SRAM has not committed (R244). -/
def State.ownUncommitted (s : State) : Bool :=
  s.stores.any fun x => x.isOf s.core.id s.sel && decide (x.phase = .issued) && decide (x.place.base = (0, s.core.id, 0))

/-- EXIT and END: in the task slot the task ends, in an activation the activation does, each after its waits (R69, R244);
a poisoned result is reported here (R327). -/
def leaveSlot (i : Instr) (s : State) : Out :=
  issue i s fun s => resultsReady s
    (if !s.retiredAll then stall s
    else match s.sel with
      | .task => .next (s.endTask s.core.id)
      | .act => if s.ownUncommitted then stall s else .next (s.endActivation s.core.id))

/-- EXIT (R69). -/
def execExit (s : State) : Out := leaveSlot .exit s

/-- END (R244). -/
def execEndAct (s : State) : Out := leaveSlot .endAct s

/-! ### Starting an activation (R237, R248) -/

/-- The lowest-numbered Pending channel (R237, R251). -/
def Core.pick (c : Core) : Option Chan := (List.finRange 16).find? fun n => c.chans[n].pending

/-- g15 to g23 of an activation: the envelope and the payload words (R237). -/
def Slot.withMessage (t : Slot) (l : List Word) : Slot :=
  { t with g := Vector.ofFn fun (i : Fin 32) => if 15 ≤ i.val ∧ i.val ≤ 23 then l.getD (i.val - 15) 0 else 0 }

/-- Context and privilege of the kernel a core serves. -/
def State.serving (s : State) (c : Core) : Nat × Nat × Bool :=
  match c.alloc with
  | some a => match tabGet s.kernels a.kernel with
    | some k => (a.kernel, k.ctx, k.priv)
    | none => (a.kernel, c.task.ctx, c.task.priv)
  | none => (c.task.kernel, c.task.ctx, c.task.priv)

/-- Starts an activation on a channel (R237, R248). A poisoned trigger is reported at its first instruction (R327). -/
def State.activate (s : State) (core : Nat) (n : Chan) : State :=
  let r := s.newGtid
  let c := r.1.coreOf core
  let h := c.chans[n]
  let k := r.1.serving c
  let words := match h.oldest with
    | some m => c.ringWords h m.slot
    | none => []
  let trig := h.oldest.map (·.slot)
  let bad := match trig with
    | some x => if c.ringPoisoned h x then [(SlotSel.act, mkTa 0 (h.slotOfs x))] else []
    | none => []
  let h1 := match trig with
    | some x => h.take x
    | none => h
  let t := { (c.act.fresh.withMessage words) with
    gtid := r.2, pc := h.entry.zeroExtend 64, kernel := k.1, ctx := k.2.1, priv := k.2.2, chan := some n, trigger := trig,
    points := r.1.pointsFor k.1 r.2, pointsVt := r.1.vt, fetchbase := c.fetchbase, run := .running }
  r.1.setCore core { c.setChan n { h1 with active := true } with act := t, detected := c.detected ++ bad }

/-- ACTIVATION_START: a free activation slot starts an activation on its lowest-numbered Pending channel (R237). -/
def execActivationStart (core : Nat) (s : State) : Out :=
  if core ≥ Config.cores then .fault .noSuchAgent
  else if (s.coreOf core).act.run ≠ .free then .next s
  else match (s.coreOf core).pick with
    | none => .next s
    | some n => .next (s.activate core n)

/-! ### SPAWN (R281) -/

/-- The kernel of the slot in focus asks this of a core's FEAT. -/
def State.featReq (s : State) (kernel : Nat) : BitVec 3 :=
  match tabGet s.kernels kernel with
  | some k => k.featreq
  | none => 0

/-- Whether a core belongs to a kernel's allocation and its FEAT covers FEATREQ (R279). -/
def State.eligible (s : State) (kernel core : Nat) : Bool :=
  (match (s.coreOf core).alloc with
    | some a => decide (a.kernel = kernel)
    | none => false) && decide (s.featReq kernel &&& ~~~(s.coreOf core).feat = 0)

/-- A target operand: all ones, or a core of the allocation (0x16) (R281, R282). -/
def State.target (s : State) (x : Word) : Except Cause (Option Nat) :=
  if x = BitVec.allOnes 64 then .ok none
  else if bits x 21 43 ≠ 0 ∨ bits x 13 8 ≠ s.device.toNat ∨ bits x 0 13 ≥ 4096 ∨ !s.eligible s.slot.kernel (bits x 0 13) then
    .error Cause.outsideWindow
  else .ok (some (bits x 0 13))

/-- SPAWN gD, gA, gB (R281). -/
def execSpawn (d a b : GReg) (s : State) : Out :=
  issue (.spawn d a b) s fun s =>
    if bits (s.g a) 32 32 ≠ 0 ∨ (s.g a).toNat ≥ s.core.exb.toNat then trap Cause.sizeOrStride (s.g a) s
    else if (s.g a).getLsbD 0 then trap Cause.misaligned (s.g a) s
    else match s.target (s.g b) with
      | .error c => trap c (s.g b) s
      | .ok tgt => takeEntry false (s.g a) s fun e t =>
          let r := t.newGtid
          retire 4 ((r.1.sendOut [s.msgOf e false (tgt.getD hubEndpoint)
            (.spawn r.2 (s.g a) ((block 16 8).map s.g) tgt)]).setG d r.2)

/-- The lowest-numbered core of a kernel's allocation that can take a task (R281). -/
def State.freeCore (s : State) (kernel : Nat) (ok : Nat → Bool) : Option Nat :=
  (List.range Config.cores).find? fun c => s.eligible kernel c && s.accepts c && ok c

/-- SPAWN_START: waiting spawn n starts its task on a core of the allocation (R279), those for any core in arrival order (R281). -/
def execSpawnStart (n : Nat) (s : State) : Out :=
  match s.msgs[n]? with
  | none => .next s
  | some m => match m.body with
    | .spawn gtid entry params tgt =>
      let first := !((s.msgs.take n).any fun x => decide (x.kernel = m.kernel) && (match x.body with
        | .spawn _ _ _ none => true
        | _ => false))
      let core := match tgt with
        | some c => if s.eligible m.kernel c && s.accepts c then some c else none
        | none => if first then s.freeCore m.kernel (fun _ => true) else none
      match core with
      | none => .next s
      | some c =>
        let k := match tabGet s.kernels m.kernel with
          | some k => (k.ctx, k.priv)
          | none => (((s.coreOf m.src).slot m.sel).ctx, ((s.coreOf m.src).slot m.sel).priv)
        .next ((s.dropMsg n).startTask c gtid entry params m.kernel k.1 k.2 0)
    | _ => .next s

/-! ### MIGR (R282) -/

/-- Engine commands a task has issued and that have not ended (R179). -/
def Engine.holds (e : Engine) (gtid : Word) : Bool :=
  e.queue.any (fun c => c.gtid = gtid) || e.running.any (fun a => a.cmd.gtid = gtid) || e.settling.any fun a => a.cmd.gtid = gtid

/-- Whether any engine still holds a command of a task. -/
def State.commandsOf (s : State) (core : Nat) (gtid : Word) : Bool :=
  (s.coreOf core).copy.holds gtid || s.layouts.any fun e => e.2.holds gtid

/-- Whether a slot's stores have all settled (R153). -/
def State.settledAll (s : State) (core : Nat) (sel : SlotSel) : Bool := !s.stores.any fun x => x.isOf core sel

/-- Whether a core may be the target of a move of this one's task: another core with the same PARTW (R282). -/
def State.movable (s : State) (src dst : Nat) : Bool :=
  decide (dst ≠ src) && decide ((s.coreOf dst).partw = (s.coreOf src).partw)

/-- MIGR gA (R282). -/
def execMigr (a : GReg) (s : State) : Out :=
  issue (.migr a) s fun s =>
    if s.sel = .act then trap Cause.blockingInActivation s.word s
    else if s.slot.rect.getLsbD 16 then trap Cause.groupInvalid (s.g a) s
    else match s.target (s.g a) with
      | .error c => trap c (s.g a) s
      | .ok tgt =>
        if (match tgt with
          | some c => !s.movable s.core.id c
          | none => false) then trap Cause.outsideWindow (s.g a) s
        else resultsReady s
          (if s.queued ≠ [] ∨ s.commandsOf s.core.id s.slot.gtid ∨ !s.settledAll s.core.id .task then stall s
          else match (match tgt with
              | some c => if s.accepts c then some c else none
              | none => s.freeCore s.slot.kernel (s.movable s.core.id)) with
            | none => stall s
            | some dst =>
              .next { (s.mapSlot fun t => { t with run := .halted .moving }).onCore dst (fun c => { c with reserved := true }) with
                migrations := s.migrations ++ [{ src := s.core.id, dst := dst }] })

/-- Copies n bytes of one pool to the same offsets of another. -/
def copyPool (src dst : Mem) (o n : Nat) : Mem := memPut dst o (memBytes src o n)

/-- The poisoned lines of a pool after n bytes from an offset have been copied from another: an uncorrectable error is marked in the copy
too, and lines written whole are sound otherwise (R326). -/
def copyPoison (src dst : List Nat) (o n : Nat) : List Nat :=
  (dst.filter fun l => !(decide (o ≤ 64 * l) && decide (64 * l + 64 ≤ o + n))) ++
    src.filter fun l => decide (64 * l < o + n) && decide (o < 64 * l + 64) && decide (0 < n)

/-- The bytes of a core's pool that go with its task: every non-empty tile and accumulator region (R270, R282). -/
def Core.matrixRanges (a : Core) : List (Nat × Nat) :=
  ((List.finRange 8).filterMap fun i => if shNonempty a.mshape[i] then some (a.tileOfs a.mshape[i], shBytes a.mshape[i]) else none) ++
    (List.finRange 4).filterMap fun i =>
      if accBytes a.accd[i] ≠ 0 then some (a.accBase + accOfs a.accd[i], accBytes a.accd[i]) else none

/-- The destination's pool with every non-empty tile and accumulator region of the source's task (R282). -/
def moveMatrix (a b : Core) : Mem := a.matrixRanges.foldl (fun m r => copyPool a.sram m r.1 r.2) b.sram

/-- The destination's poisoned lines after such a move (R326). -/
def movePoison (a b : Core) : List Nat := a.matrixRanges.foldl (fun l r => copyPoison a.poison l r.1 r.2) b.poison

/-- A core's tile registers with the landings due from a core due from another one instead. -/
def renameDues (net : Vector TileNet 8) (src dst : Nat) : Vector TileNet 8 :=
  net.map fun n => if n.due = some src then { n with due := some dst } else n

/-- Landings and copies of a kernel's rectangle follow a member from one core to another (R14, R270). -/
def State.renameCopies (s : State) (kernel src dst : Nat) : State :=
  let at_ := fun (c : Nat) => if c = src then dst else c
  let copy := fun (c : TileCopy) => if c.kernel = kernel then { c with src := at_ c.src, dst := at_ c.dst } else c
  let net := fun (k : Core) => if k.task.kernel = kernel then { k with net := renameDues k.net src dst } else k
  { s with
    core := net s.core
    others := s.others.map fun k => (k.1, net k.2)
    saved := s.saved.map fun x =>
      if x.slot.kernel = kernel then { x with net := renameDues x.net src dst, copies := x.copies.map copy } else x
    copies := s.copies.map copy }

/-- A slot after MIGR has executed: no pair is in progress, so REPC is zero; a handler's own REPC stays (R66, R282; log entry 31). -/
def Slot.migrated (t : Slot) : Slot :=
  let u := (t.advance 4).settle
  { u with repc := if t.inh then t.repc else 0 }

/-- Moves the context of a resident task, with its vector and matrix state, an overlay load and its noted errors, to another core (R270,
R271, R282): its results, its groups and its trap records go with it. A shootdown that has reached the task has reached it on the new
core too (R178, R371). -/
def State.moveTask (s0 : State) (src dst : Nat) (f : Slot → Slot) : State :=
  let s := s0.reachAs src dst
  let a := s.coreOf src
  let b := s.coreOf dst
  let own := match a.ovld with
    | some (_, .task) => true
    | _ => false
  let b1 : Core := { b with
    task := { f a.task with streams := b.task.streams }
    v := a.v, k := a.k, accd := a.accd, mshape := a.mshape, net := a.net, matrix := a.matrix, mrun := a.mrun, vector := a.vector
    sram := moveMatrix a b, poison := movePoison a b, reserved := false, flaws := a.flaws
    ovld := if own then a.ovld else b.ovld
    detected := b.detected ++ a.detected.filter fun d => d.1 = .task }
  let a1 : Core := { a.clearEngines with
    task := a.task.fresh, matrix := [], mrun := false, vector := [], ovld := if own then none else a.ovld
    detected := a.detected.filter fun d => d.1 ≠ .task }
  let at_ := fun (c : Nat) (sel : SlotSel) => if c = src ∧ sel = .task then dst else c
  let s1 := ((s.setCore src a1).setCore dst b1).renameCopies a.task.kernel src dst
  { s1 with
    results := s1.results.map fun r => { r with core := at_ r.core r.sel }
    groups := s1.groups.map fun g => { g with members := g.members.map fun m => if m.2.2.1 = a.task.gtid then (dst, m.2) else m }
    trapRecords := s1.trapRecords.map fun r => { r with core := at_ r.core r.sel }
    stops := s1.stops.map fun r => { r with core := at_ r.core r.sel }
    early := s1.early.filter fun e => !(decide (e.core = src) && decide (e.sel = .task)) }

/-- MIGRATION_MOVE_COMPLETE: the task goes on on the target after its MIGR, once no activation there uses the vector or matrix state; the
points that apply are loaded there (R94, R282, R334). Where the target has left the allocation, or its FEAT no longer covers FEATREQ, the
reservation falls and MIGR executes again (R279; log entry 76). -/
def execMigrationMoveComplete (n : Nat) (s : State) : Out :=
  match s.migrations[n]? with
  | none => .next s
  | some m =>
    let t := (s.coreOf m.src).task
    if !s.eligible t.kernel m.dst then
      .next (({ s with migrations := dropAt s.migrations n }.onCore m.dst fun c => { c with reserved := false }).onSlot m.src .task
        fun x => { x with run := .running })
    else if !s.vacant m.dst then .next s
    else .next (({ s with migrations := dropAt s.migrations n }).moveTask m.src m.dst fun x =>
        { s.loadPoints x.migrated with run := .running, fetchbase := (s.coreOf m.dst).codebase })

/-! ### CSYNC and OVLD (R274) -/

/-- CSYNC: waits until every earlier instruction of the task has retired and no OVLD of the core is in progress; fetch of the slot
goes on with CODEBASE as last written (R52, R274). -/
def execCsync (s : State) : Out :=
  issue .csync s fun s => resultsReady s
    (if !s.retiredAll || s.core.ovld.isSome then stall s
    else retire 4 ({ s with core := { s.core with fetchbase := s.core.codebase } }.mapSlot
      fun t => { t with fetchbase := s.core.codebase }))

/-- OVLD gA: it waits for every earlier instruction, then fetch of both slots stalls until the window lands (R274). -/
def execOvld (a : GReg) (s : State) : Out :=
  issue (.ovld a) s fun s =>
    if s.actBesideTask then trap Cause.engineInActivation s.word s
    else if bits (s.g a) 32 32 ≠ 0 ∨ bits (s.g a) 0 8 ≠ 0 ∨ (s.g a).toNat ≥ s.core.dataOfs then trap Cause.sizeOrStride (s.g a) s
    else resultsReady s
      (if !s.retiredAll || s.core.ovld.isSome then stall s
      else .next { s with core := { s.core with ovld := some (BitVec.ofNat 32 (s.g a).toNat, s.sel) } })

/-- The bytes of an overlay window: image bytes from its base, zero at or past DATAOFS (R274). -/
def windowBytes (image : List Byte) (dataOfs base exb : Nat) : List Byte :=
  let l := (image.take dataOfs).drop base |>.take exb
  l ++ List.replicate (exb - l.length) 0

/-- The slot of an OVLD whose window has landed: it retires, and where the slot has halted meanwhile the windows that LAW holds pass one
position (R44, R271, R274). -/
def Slot.landed (t : Slot) : Slot :=
  match t.run with
  | .halted _ =>
    if t.inh then (t.advance 4).settle
    else { (t.advance 4).settle with law := BitVec.ofNat 64 (packWindows 0 (tickWindows (unpackWindows t.law))) }
  | _ => (t.advance 4).settle

/-- OVERLAY_WINDOW_LANDED: the window is in SRAM, CODEBASE names it for both slots, and the OVLD retires; where the program object is
poisoned there the kernel is killed with 0x2F (R274, R329). -/
def execOverlayWindowLanded (core : Nat) (s : State) : Out :=
  if core ≥ Config.cores ∧ !isDispatch core then .fault .noSuchAgent
  else match (s.coreOf core).ovld with
  | none => .next s
  | some (base, sel) =>
    let c := s.coreOf core
    let k := match c.alloc with
      | some a => a.kernel
      | none => c.task.kernel
    if s.programPoisoned c.program base.toNat (min c.exb.toNat (c.dataOfs - base.toNat)) then
      (if s.kills.any fun x => x.kernel = k then .next s else .next (s.mustKill k Cause.errorConsumed))
    else .next ((s.setCore core { c with
        sram := memPut (memClear c.sram 0 c.exb.toNat) 0 (windowBytes (s.kernelImage k) c.dataOfs base.toNat c.exb.toNat)
        poison := c.poison.filter fun l => !(decide (64 * l < c.exb.toNat))
        task := { c.task with fetchbase := base }, act := { c.act with fetchbase := base }
        codebase := base, fetchbase := base, ovld := none }).onSlot core sel Slot.landed)

/-! ### Pipelines (R287 to R290) -/

/-- The channels of a stage's mask. -/
def StageQueue.chans (q : StageQueue) : List Chan := (List.finRange 16).filter fun n => q.mask.getLsbD n.val

/-- A stage's queue whose head has left. -/
def State.popped (s : State) (i : Nat) (q : StageQueue) (rest : List Msg) : State :=
  { s with stages := s.stages.set i (s.choose { q with msgs := rest }) }

/-- STAGE_DELIVERY: the head of a stage's queue goes to the core chosen as it came to the head; a full ring keeps it there, and
a channel that is not valid, or a core that serves another function by now, refuses it (R253, R288). -/
def execStageDelivery (kernel stage : Nat) (s : State) : Out :=
  match s.stages.findIdx? fun q => decide (q.kernel = kernel ∧ q.stage = stage) with
  | none => .next s
  | some i => match s.stages[i]? with
    | none => .next s
    | some q => match q.msgs, q.pick with
      | [], _ => .next s
      | _ :: _, none => .next { s with stages := s.stages.set i (s.choose q) }
      | m :: rest, some dst => match m.body with
        | .stage _ key env payload =>
          let c := s.coreOf dst
          let ch := envChan env
          if s.tenantSaved dst m.vf then .next s
          else if c.alien m.vf || !c.chans[ch].valid then
            let out := s.popped i q rest
            let t : State := { out with msgs := out.msgs ++ [m] }
            .next (t.refuseMsg (t.msgs.length - 1) m env payload dst)
          else if c.chans[ch].full then .next s
          else .next ((s.popped i q rest).setCore dst (c.place ch env payload m (some key)))
        | _ => .next s

/-- Untaken messages of a stage's cores in its channels, with those in its queue (R289). -/
def State.stageLoad (s : State) (q : StageQueue) : Nat :=
  q.msgs.length + ((s.stageCores q.kernel q.stage).map fun c =>
    (q.chans.map fun n => ((s.coreOf c).chans[n].msgs.filter fun m => !m.taken).length).foldl (· + ·) 0).foldl (· + ·) 0

/-- Of stages in rising order, with load and core count: the one whose quotient is greatest, or least; ties to the lower. -/
def extreme (most : Bool) : List (Nat × Nat × Nat) → Option (Nat × Nat × Nat)
  | [] => none
  | x :: l => match extreme most l with
    | none => some x
    | some y =>
      let better := if most then y.2.1 * x.2.2 > x.2.1 * y.2.2 else y.2.1 * x.2.2 < x.2.1 * y.2.2
      if better then some y else some x

/-- Whether a core may be rebound: no resident task, no untaken message, no running activation (R289). -/
def State.rebindable (s : State) (core : Nat) : Bool :=
  let c := s.coreOf core
  decide (c.task.run = .free) && decide (c.act.run = .free) && !c.reserved &&
    c.chans.toList.all fun h => h.msgs.all fun m => m.taken

/-- A core passes to another stage: the old stage's channels are unbound, the new one's bound, Idle (R289). -/
def State.rebind (s : State) (core : Nat) (kernel : Nat) (old new : StageQueue) : State :=
  let h := s.kernelHeader kernel
  s.onCore core fun c =>
    let fresh := h.channels new.stage false
    { c with
      chans := Vector.ofFn fun (n : Fin 16) =>
        if new.mask.getLsbD n.val then fresh[n] else if old.mask.getLsbD n.val then .reset else c.chans[n]
      alloc := c.alloc.map fun a => { a with stage := new.stage } }

/-- The queue of a kernel's stage. -/
def State.stageOf (s : State) (kernel stage : Nat) : Option StageQueue :=
  s.stages.find? fun q => decide (q.kernel = kernel ∧ q.stage = stage)

/-- The core that is to be rebound at a moment, with the stage it leaves and the one it joins: where the busiest stage's load is at least
8 and at least four times the least loaded one's (R289). -/
def State.rebindChoice (s : State) (kernel : Nat) : Option (Nat × Nat × Nat) :=
  let qs := (List.range 16).filterMap (s.stageOf kernel)
  let loads := qs.map fun q => (q.stage, s.stageLoad q, (s.stageCores kernel q.stage).length)
  match extreme true loads, extreme false loads with
  | some b, some u =>
    if b.2.1 ≥ 8 * b.2.2 ∧ b.2.1 * u.2.2 ≥ 4 * u.2.1 * b.2.2 ∧ u.2.2 ≥ 2 ∧ b.1 ≠ u.1 then
      ((s.stageCores kernel u.1).reverse.find? s.rebindable).map fun c => (c, u.1, b.1)
    else none
  | _, _ => none

/-- HOLD of the channels of a mask. -/
def Core.holdChans (c : Core) (mask : BitVec 16) (f : Fin 16 → Bool) : Core :=
  { c with chans := Vector.ofFn fun (n : Fin 16) => if mask.getLsbD n.val then { c.chans[n] with hold := f n } else c.chans[n] }

/-- The messages that stand in a core's rings of a stage go back to the stage's queue: ring by ring, each in its order (R289). A message
sent to the core itself has no key (log entry 43). -/
def State.returned (s : State) (core : Nat) (q : StageQueue) : List Msg :=
  let c := s.coreOf core
  (q.chans.flatMap fun n => (c.chans[n].msgs.filter fun m => !m.taken).map fun m => (n, m)).map fun x =>
    let w := c.ringWords c.chans[x.1] x.2.slot
    { entry := 0, src := core, sel := .task, reply := false, dst := hubEndpoint, kernel := q.kernel,
      vf := ((tabGet s.kernels q.kernel).map (·.vf)).getD 32, sends := 0, waiting := false, since := s.vt, far := none, origin := none, poisoned := c.ringPoisoned c.chans[x.1] x.2.slot,
      body := .stage q.stage (x.2.key.getD (Config.returnedKey s.tick)) (w.headD 0) ((w.drop 1).take (bits (w.headD 0) 32 4)) }

/-- The rebinding under way goes on once no activation is running on its core: what arrived meanwhile goes back to the head of the old
stage's queue, and the core passes to the new stage; a core that has got a task meanwhile, or has left the kernel, is not rebound (R289). -/
def State.rebindOn (s : State) (r : Rebind) : State :=
  let c := s.coreOf r.core
  let s1 := { s with rebinding := none }
  match s.stageOf r.kernel r.src, s.stageOf r.kernel r.dst with
  | some qu, some qb =>
    if !(s.stageCores r.kernel r.src).contains r.core then s1
    else if c.task.run ≠ .free then s1.setCore r.core (c.holdChans qu.mask fun n => r.held.getLsbD n.val)
    else if c.act.run ≠ .free then s
    else
      let back := s.returned r.core qu
      let s2 := s1.rebind r.core r.kernel qu qb
      let q := { qu with msgs := back ++ qu.msgs }
      { s2 with stages := s2.stages.map fun x =>
          if x.kernel = r.kernel ∧ x.stage = r.src then (if back ≠ [] ∨ x.pick = some r.core then s2.choose q else q) else x }
  | _, _ => s1

/-- STAGE_REBIND: every 4,096 cycles the dispatch logic chooses at most one core of the package to pass to another stage and holds its
channels; later the rebinding goes on (R289). -/
def execStageRebind (kernel : Nat) (s : State) : Out :=
  match s.rebinding with
  | some r => if r.vt = s.vt then .next s else .next (s.rebindOn r)
  | none =>
    if s.vt.toNat % 4096 ≠ 0 then .next s
    else match s.rebindChoice kernel with
      | none => .next s
      | some (c, u, b) =>
        let mask := match s.stageOf kernel u with
          | some q => q.mask
          | none => 0
        .next ({ s with rebinding := some { kernel := kernel, core := c, src := u, dst := b, held := (s.coreOf c).holdMask, vt := s.vt } }.onCore c
          fun k => k.holdChans mask fun _ => true)

/-- Untaken, stealable messages of a channel. -/
def Channel.stealable (h : Channel) : List RingMsg := h.msgs.filter fun m => !m.taken && m.stealable

/-- The stage core with the most stealable messages in a channel, at least two of them, ties to the lower identifier. -/
def State.victim (s : State) (n : Chan) (cores : List Nat) : Option Nat :=
  let best := (cores.map fun c => ((s.coreOf c).chans[n].stealable).length).foldl max 0
  if best < 2 then none else cores.find? fun c => decide (((s.coreOf c).chans[n].stealable).length = best)

/-- STAGE_STEAL: a core of a stage with a free activation slot, no Pending channel and no resident task takes the oldest
stealable message of a stage channel from another core of its stage (R290). -/
def execStageSteal (core : Nat) (s : State) : Out :=
  if core ≥ Config.cores then .fault .noSuchAgent
  else match (s.coreOf core).alloc with
  | none => .next s
  | some a =>
    let c := s.coreOf core
    if c.task.run ≠ .free ∨ c.act.run ≠ .free ∨ c.pick.isSome then .next s
    else match s.stages.find? fun q => decide (q.kernel = a.kernel ∧ q.stage = a.stage) with
      | none => .next s
      | some q =>
        let others := (s.stageCores a.kernel a.stage).filter (· ≠ core)
        match q.chans.findSome? fun n => if c.chans[n].valid && !c.chans[n].full then (s.victim n others).map fun v => (n, v) else none with
        | none => .next s
        | some (n, v) =>
          let vc := s.coreOf v
          match vc.chans[n].stealable with
          | [] => .next s
          | m :: _ =>
            let words := vc.ringWords vc.chans[n] m.slot
            let s1 := s.setCore v (vc.setChan n (vc.chans[n].remove m.slot))
            let t := (s1.coreOf core).placeAs n (words.headD 0) ((words.drop 1).take (bits (words.headD 0) 32 4)) m
            .next (s1.setCore core (t.spoilPlaced n (vc.ringPoisoned vc.chans[n] m.slot)))

end Sys2Proof.Machine
end

