-- ==== Sys2Proof/Machine/Preempt.lean ====
section
/-! DEFINITION. Pre-emption, saved contexts (R104, R105 of spec/06, R271, R272 of spec/17), errors at homes, rollback of
activations and fetching a code block again (R301 of spec/20, R326 to R329 of spec/22). -/

namespace Sys2Proof.Machine

/-! ### Fault records and map entries (R294, R301) -/

/-- Claims and writes a fault record and rings the fault doorbell (R301, R323). -/
def State.faultRecord (s : State) (kind core : Nat) (d1 : Word) : State :=
  let n := s.hubDword (objectBase 3)
  let a := objectBase 3 + 64 + 16 * (n.toNat % 128)
  let s1 := s.hubPut (objectBase 3) (n + 1)
  let s2 := s1.hubPut a (BitVec.ofNat 64 (kind + 2 ^ 8 * core))
  (s2.hubPut (a + 8) d1).hubCount (objectBase 2 + 0x108)

/-- The logical core map entry of a core (R294). -/
def State.mapEntry (s : State) (core : Nat) : Word := s.hubDword (objectBase 0 + 8 * core)

/-- Changes a core map entry. -/
def State.setMapEntry (s : State) (core : Nat) (x : Word) : State := s.hubPut (objectBase 0 + 8 * core) x

/-- ALLOC of a map entry. -/
def mapAlloc : Word := 0x10

/-! ### Uncorrectable errors (R326, R328, R329) -/

/-- A home marks a line poisoned, and each line that becomes so yields a fault record: kind 5 of a core's SRAM line, kind 4 of a slice's
line (R323, R326). -/
def State.lineError (s : State) (home line : Nat) : Out :=
  if home < Config.cores then
    if line ≥ Config.poolBytes / 64 ∨ (s.coreOf home).poison.contains line then .next s
    else .next ((s.onCore home fun c => { c with poison := c.poison ++ [line] }).faultRecord 5 home (BitVec.ofNat 64 (64 * line)))
  else if 0x1000 ≤ home ∧ home < 0x1000 + Config.slices then
    if 64 * line ≥ Config.hbmBytes ∨ sliceOf (64 * line) ≠ home - 0x1000 ∨ s.hbmPoison.contains line then .next s
    else .next ({ s with hbmPoison := s.hbmPoison ++ [line] }.faultRecord 4 (home - 0x1000) (BitVec.ofNat 64 (64 * line)))
  else .fault .noSuchAgent

/-- A register of a slot, or a vector or mask register of a core, has an error from here on; g0 has no storage (R49, R327, R329). -/
def Core.registerError (c : Core) (sel : SlotSel) (r : RegName) : Core :=
  let flaw := fun (c : Core) => c.setSlot sel { c.slot sel with flaws := (c.slot sel).flaws ++ [r] }
  match r with
  | .g x => if x = 0 then c else flaw c
  | .e _ => flaw c
  | .w _ => flaw c
  | .v _ => { c with flaws := c.flaws ++ [r] }
  | .k _ => { c with flaws := c.flaws ++ [r] }

/-- UNCORRECTABLE_ERROR: a line of a home (R326) or a register of a core (R327, R329) becomes uncorrectable; a dispatch core has no vector
or mask registers (R292). -/
def execUncorrectableError (home : Nat) (what : ErrorIn) (s : State) : Out :=
  match what with
  | .line n => s.lineError home n
  | .reg sel r =>
    if home < Config.cores then .next (s.onCore home fun c => c.registerError sel r)
    else if isDispatch home then
      match r with
      | .v _ => .fault .noSuchAgent
      | .k _ => .fault .noSuchAgent
      | _ => .next (s.onCore home fun c => c.registerError sel r)
    else .fault .noSuchAgent

/-- Whether a scratchpad offset lies in a ring of the core (R236). -/
def Core.inRing (c : Core) (o : Nat) : Bool :=
  c.chans.toList.any fun h => h.valid && decide (h.ring ≤ o ∧ o < h.ring + 128 * h.depth)

/-- Whether a rollback escalates (R328): the activation is dirty, its trigger has been rolled back twice, or the error lies
in a ring slot. -/
def State.escalates (s : State) (core : Nat) : Bool :=
  let c := s.coreOf core
  let t := c.act
  t.dirty || (decide (taHandle t.tval = 0) && c.inRing (taOfs t.tval)) ||
    (match t.chan, t.trigger with
      | some n, some k => c.chans[n].msgs.any fun m => decide (m.slot = k ∧ m.rollbacks ≥ 2)
      | _, _ => false)

/-- The messages an activation took are untaken again, in their slots and in ring order; its trigger counts the rollback
(R328). -/
def Core.untake (c : Core) (t : Slot) : Core :=
  let mine := t.takenMessages
  { c with chans := Vector.ofFn fun (n : Fin 16) =>
      { c.chans[n] with msgs := c.chans[n].msgs.map fun m =>
          if mine.contains (n.val, m.slot) then
            { m with taken := false
                     rollbacks := if t.chan = some n ∧ t.trigger = some m.slot then m.rollbacks + 1 else m.rollbacks }
          else m } }

/-- Whether the matrix or vector queue of a core holds an instruction of a slot (R69). -/
def Core.holdsWork (c : Core) (sel : SlotSel) : Bool :=
  c.matrix.any (fun o => decide (o.sel = sel)) || c.vector.any fun o => decide (o.sel = sel)

/-- ACTIVATION_ROLLBACK: an activation that consumed an uncorrectable error is rolled back, once what it has retired into the engines has
ended, as END waits for it (R69, R107, R328); or its kernel is killed with 0x30 (R327, R328). -/
def execActivationRollback (core : Nat) (s : State) : Out :=
  if core ≥ Config.cores then .fault .noSuchAgent
  else
    let t := (s.coreOf core).act
    if t.run = .halted .firmware ∧ bits t.tcause 0 6 = 0x2F then
      if s.escalates core then
        .next ({ s with trapRecords := s.trapRecords.filter fun r => !(decide (r.core = core) && decide (r.sel = SlotSel.act)) }.mustKill
          t.kernel Cause.rolledBack)
      else if (s.coreOf core).holdsWork .act then .next s
      else
        let s1 := s.onCore core fun c => (c.untake t).deactivate t.chan
        .next ((s1.clearAct core).faultRecord 3 core (s.vt.zeroExtend 64))
    else .next s

/-- CODE_BLOCK_REFETCH: a 4 KiB block of a core's code window that has an uncorrectable error is fetched again from the
program object; if that is poisoned, the kernel is killed with 0x2F (R274, R329). -/
def execCodeBlockRefetch (core block : Nat) (s : State) : Out :=
  if core ≥ Config.cores then .fault .noSuchAgent
  else
    let c := s.coreOf core
    let lo := 4096 * block
    let hi := min (lo + 4096) c.exb.toNat
    let k := match c.alloc with
      | some a => a.kernel
      | none => c.task.kernel
    if hi ≤ lo ∨ !(c.poison.any fun l => decide (lo ≤ 64 * l ∧ 64 * l < hi)) then .next s
    else if s.programPoisoned c.program (c.codebase.toNat + lo) (hi - lo) then .next (s.mustKill k Cause.errorConsumed)
    else
      let w := windowBytes (s.kernelImage k) c.dataOfs c.codebase.toNat c.exb.toNat
      .next (s.setCore core { c with
        sram := memPut c.sram lo ((w.drop lo).take (hi - lo))
        poison := c.poison.filter fun l => !(decide (lo ≤ 64 * l) && decide (64 * l < hi)) })

/-! ### Pre-emption (R272) -/

/-- The members of a resident task's rectangle, or its own core alone (R105). -/
def State.rectangleOf (s : State) (core : Nat) : List Nat :=
  let t := (s.coreOf core).task
  match s.groups.find? fun g => g.rect.isSome && g.has t.gtid with
  | some g => g.members.map (·.1)
  | none => [core]

/-- A request arrives at a slot: the first one stands, but it comes before a single step (R266), and a debug halt stops the slot beside
any other (R272, R335). -/
def Slot.asked (t : Slot) (c : Cause) : Slot :=
  match t.request.filter (· ≠ Cause.singleStep) with
  | none => { t with request := some c }
  | some d =>
    if c = Cause.debugHalt ∧ d ≠ Cause.debugHalt then { t with stop := true }
    else if d = Cause.debugHalt ∧ c ≠ Cause.debugHalt then { t with request := some c, stop := true }
    else t

/-- A request arrives at the task slot of a core. -/
def State.request (s : State) (c : Cause) (core : Nat) : State :=
  s.onSlot core .task fun t => if t.run ≠ .free then t.asked c else t

/-- PREEMPTION_REQUEST: a request for a higher-ranked launch, a time slice, a host kill or a debug halt arrives; no
instruction of the task slot issues after it. Pre-emption of one member of a rectangle is pre-emption of all (R105, R272). A dispatch core
takes no part in placement, pre-emption by rank or time slicing (R292). -/
def execPreemptionRequest (core : Nat) (cause : Cause) (s : State) : Out :=
  if core ≥ Config.cores ∧ !isDispatch core then .fault .noSuchAgent
  else if cause = Cause.debugHalt then .next (s.request cause core)
  else if isDispatch core ∧ (cause = Cause.preemption ∨ cause = Cause.timeSlice) then .next s
  else if cause = Cause.preemption ∨ cause = Cause.timeSlice ∨ cause = Cause.hostKill then
    .next ((s.rectangleOf core).foldl (fun s c => s.request cause c) s)
  else .next s

/-- Whether a place is in the package (R272). -/
def Place.inPackage : Place → Bool
  | .sram _ _ => true
  | .hbm _ => true
  | _ => false

/-- Whether a halt waits for a result: one from a home in the package, or from an engine that finishes (R272). -/
def State.awaited (s : State) (r : Result) : Bool :=
  match r.src with
  | .load l => l.places.isEmpty || l.places.any Place.inPackage
  | .reply => s.stores.any fun x => decide (x.reply = some (r.core, r.sel, r.reg)) && x.place.inPackage
  | .engine id => (s.coreOf r.core).vector.any fun o => o.id = id
  | _ => true

/-- Whether the instruction the matrix engine has in execution holds back the halt of a slot: not a multiplication between
strips, nor a TST or MEPI (R104). -/
def Core.matrixHolds (c : Core) (sel : SlotSel) : Bool :=
  match c.matrix with
  | [] => false
  | o :: _ => c.mrun && decide (o.sel = sel) && match o.instr with
    | .mma _ _ _ _ _ _ => decide (o.done ≥ engineSteps o)
    | .mmar _ _ _ _ _ _ => decide (o.done ≥ engineSteps o)
    | .tst _ _ _ _ => false
    | .mepi _ _ _ _ _ _ _ _ _ => false
    | _ => true

/-- The slot as a halt leaves it: windows in LAW and the pair in REPC; inside a handler the live ones are kept beside its
own LAW and REPC (R66, R271, R272; log entry 31). -/
def Slot.park (t : Slot) : Slot :=
  if t.inh then { t with drainVt := none, cwait := none, rows := [] }
  else { t with law := BitVec.ofNat 64 (packWindows 0 t.windows), repc := packRep t.pair, windows := [], rep := none, resume := none,
                drainVt := none, cwait := none, rows := [] }

/-- The slot as it resumes after a halt, as if ERET had run, its event latch set; whether TPC holds a REP is looked at as fetch goes on
there (R66, R271, R275). -/
def Slot.unpark (t : Slot) : Slot :=
  if t.inh then { t with resume := t.pair, rep := none, latch := true, run := .running }
  else { t with
    windows := unpackWindows t.law
    resume := if bits t.repc 0 32 = 0 then none
      else some { done := BitVec.ofNat 32 (bits t.repc 32 32), left := BitVec.ofNat 32 (bits t.repc 0 32), step := 0 }
    repc := 0, latch := true, run := .running }

/-- A debug halt is a stop for the task's debugger (R335, R336). -/
def State.stopFor (s : State) (core : Nat) (sel : SlotSel) (c : Cause) : State :=
  let t := (s.coreOf core).slot sel
  { s with stops := s.stops ++ [{ core := core, sel := sel, gtid := t.gtid, kernel := t.kernel, cause := c, tpc := t.pc,
                                  tval := 0, vt := s.vt, dump := none }] }

/-- A slot halts under its request: registers whose result comes from outside the package are recorded as pending (R272). Where a debug
halt has come too, the slot is stopped and the other request stays with it (R335, R336). -/
def State.halt (s : State) (core : Nat) (sel : SlotSel) (c : Cause) : State :=
  let owed := (s.results.filter fun r => r.isOf core sel).map (·.reg)
  let both := ((s.coreOf core).slot sel).stop
  let s1 := s.within core sel State.dropEarly
  let s2 := s1.onSlot core sel fun t =>
    { t.park with run := .halted (.preempted (if both then Cause.debugHalt else c)), request := if both then some c else none,
                  stop := false, owed := owed, haltVt := s.vt }
  let s3 := if both ∨ c = Cause.debugHalt then s2.stopFor core sel Cause.debugHalt else s2
  if c = Cause.hostKill ∧ !s.kills.any (fun x => x.kernel = ((s.coreOf core).slot sel).kernel) then
    s3.mustKill ((s.coreOf core).slot sel).kernel Cause.hostKill
  else s3

/-- The slot of a core with a request to be reported. -/
def Core.requested (c : Core) : Option (SlotSel × Cause) :=
  match c.task.run, c.task.request with
  | .running, some x => if x ≠ Cause.singleStep then some (.task, x) else none
  | _, _ => match c.act.run, c.act.request with
    | .running, some x => if x ≠ Cause.singleStep then some (.act, x) else none
    | _, _ => none

/-- HALT_REPORTED: the engines' work and the outstanding results of the package are done, and the slot halts; a poisoned
result is raised here instead (R272, R327). -/
def execHaltReported (core : Nat) (s : State) : Out :=
  if core ≥ Config.cores ∧ !isDispatch core then .fault .noSuchAgent
  else
    let c := s.coreOf core
    match c.requested with
    | none => .next s
    | some (sel, x) =>
      let mine := s.results.filter fun r => r.isOf core sel
      match mine.findSome? fun r => r.src.poisoned with
      | some ta => .next (s.within core sel fun s =>
          enterTrap Cause.errorConsumed ta s.slot.pc
            { s with results := s.results.filter fun r => !(r.isOf core sel && r.src.poisoned.isSome) })
      | none =>
        if c.matrixHolds sel || c.vector.any (fun o => o.sel = sel) || mine.any s.awaited then .next s
        else .next (s.halt core sel x)

/-! ### Saving and restoring contexts (R105, R261, R271) -/

/-- Whether the matrix engine executes a TST or MEPI of the task (R104). -/
def Core.storing (c : Core) : Bool :=
  match c.matrix with
  | [] => false
  | o :: _ => c.mrun && decide (o.sel = .task) && engineStores o.instr

/-- Whether a core's engines let the context of its task be taken: no TST or MEPI executes, nothing else is unfinished that runs to its
end, and the vector queue is empty (R104, R108). -/
def Core.drained (c : Core) : Bool := !c.storing && !c.matrixHolds .task && c.vector.isEmpty

/-- Whether a core's task can be saved: its copy engine is empty too, since the core changes tenant (R179). -/
def Core.saveable (c : Core) : Bool := c.drained && c.copy.idle

/-- The cause under which a core is to be saved because it changes hands: its task is halted for that, or has exited and a time slice
has ended (R92, R271, R363). -/
def Core.toSave (c : Core) : Option Cause :=
  let x := match c.task.run, c.task.request with
    | .halted (.preempted p), none => some p
    | .halted .debug, some p => some p
    | .halted .firmware, some p => some p
    | .halted (.preempted _), some p => some p
    | .free, some p => some p
    | _, _ => none
  match x with
  | some p => if p = Cause.preemption ∨ p = Cause.timeSlice then some p else none
  | none => none

/-- Whether every valid channel is Held. -/
def Core.allHeld (c : Core) : Bool := c.chans.toList.all fun h => !h.valid || h.hold

/-- The core after its tenant's context has been saved: no task, channel, tensor record or allocation (R271). -/
def Core.vacate (c : Core) : Core :=
  { c.clearEngines with
    task := c.task.fresh, matrix := [], mrun := false, vector := [], tids := [], chans := Vector.replicate 16 .reset, regions := []
    ovld := none, detected := c.detected.filter fun d => d.1 ≠ .task, alloc := none, heldBefore := none }

/-- The task slot of a core as it is saved; where its task has exited, it names the kernel that holds the core (R271, R363). -/
def State.slotToSave (s : State) (core : Nat) : Slot :=
  let c := s.coreOf core
  match c.task.run, c.alloc with
  | .free, some a => { c.task with request := none, kernel := a.kernel, ctx := (s.kernelRec a.kernel).ctx }
  | _, _ => { c.task with request := none }

/-- Gives a task's outstanding results, the stores that will answer them, and its trap and stop entries another core's name
or a context's key. -/
def State.renameResults (s : State) (old new : Nat) : State :=
  { s with
    trapRecords := s.trapRecords.map fun r => if r.core = old ∧ r.sel = .task then { r with core := new } else r
    stops := s.stops.map fun r => if r.core = old ∧ r.sel = .task then { r with core := new } else r
    results := s.results.map fun r => if r.isOf old .task then { r with core := new } else r
    stores := s.stores.map fun x => { x with reply := x.reply.map fun y => if y.1 = old ∧ y.2.1 = .task then (new, y.2) else y } }

/-- CONTEXT_SAVE: firmware holds every channel, waits for the running activation's END, and then saves the task's context
with the core's SRAM image, since the core passes to another tenant (R92, R261, R271). -/
def execContextSave (core : Nat) (s : State) : Out :=
  if core ≥ Config.cores then .fault .noSuchAgent
  else
    let c := s.coreOf core
    match c.toSave with
    | none => .next s
    | some p =>
      if c.heldBefore = none then
        .next (s.setCore core { c with heldBefore := some c.holdMask, chans := c.chans.map fun h => if h.valid then { h with hold := true } else h })
      else if c.act.run ≠ .free ∨ !c.saveable then .next s
      else
        let key := 8192 * (s.tick + 1) + core
        let t := s.slotToSave core
        let ctx : Saved := { slot := t, v := c.v, k := c.k, mshape := c.mshape, accd := c.accd, net := c.net, matrix := c.matrix,
                             vector := c.vector, copies := s.copies.filter fun x => decide (x.dst = core ∧ x.kernel = t.kernel)
                             ovld := c.ovld.map (·.1), core := core, cause := p, key := key
                             detected := (c.detected.filter fun d => d.1 = .task).map (·.2), image := some c }
        let s1 := (s.setCore core c.vacate).renameResults core key
        .next ({ s1 with
          copies := s1.copies.filter fun x => !decide (x.dst = core ∧ x.kernel = t.kernel)
          saved := s1.saved ++ [ctx] }.setMapEntry core (s.mapEntry core &&& ~~~mapAlloc))

/-! ### Cores a function may hold (R316, R359, R360, R373) -/

/-- Whether an enabled record grants a sector whole (R359). -/
def State.granted (s : State) (sector : Nat) : Bool :=
  (List.range 16).any fun f => decide (s.vfField f 0 1 = 1 ∧ s.vfField f 1 1 = 0 ∧ s.vfField f 2 2 / 2 ^ sector % 2 = 1)

/-- Whether a sector is open to a function: its own for CMODE 0, else one no record grants whole (R360, R363). -/
def State.openSector (s : State) (vf sector : Nat) : Bool :=
  if vf < 16 ∧ s.vfField vf 1 1 = 0 then decide (s.vfField vf 2 2 / 2 ^ sector % 2 = 1) else !s.granted sector

/-- The core quota of a function (R316). -/
def State.coreQuota (s : State) (vf : Nat) : Nat :=
  if vf = pfFunction then Config.cores
  else if vf = 16 then 256 * ((List.range 16).filter fun n => !s.granted n).length
  else if s.vfField vf 1 1 = 0 then 256 * ((List.range 16).filter fun n => decide (s.vfField vf 2 2 / 2 ^ n % 2 = 1)).length
  else s.vfField vf 4 2

/-- Cores a function's kernels hold. -/
def State.coresHeld (s : State) (vf : Nat) : Nat := (s.allCores.filter fun c => match c.alloc with
  | some a => decide (a.vf = vf ∧ c.id < Config.cores)
  | none => false).length

/-- Whether a function may hold one more core: its NCORES with CMODE 1 (R360). -/
def State.mayHold (s : State) (vf core : Nat) : Bool :=
  s.openSector vf (coreSector core) && (decide (¬(vf < 16 ∧ s.vfField vf 1 1 = 1)) || decide (s.coresHeld vf < s.coreQuota vf))

/-- Whether a core's copy engine lets it pass to a context of a function: a core that changes tenant first lets it empty, and the guests
of the time-sliced function are tenants of their own (R179, R363). -/
def Core.passable (c : Core) (vf ctx : Nat) : Bool := decide (c.lastVf = some vf ∧ (vf ≠ 16 ∨ c.lastCtx = ctx)) || c.copy.idle

/-- Whether a core can take a saved context back: empty, in service and unallocated, its copy engine empty, in a sector its function may
use, with the FEAT its kernel asks for and the engines its unfinished work needs, and room in its service log (R104, R108, R179, R270,
R271, R279, R320, R360). -/
def State.restorable (s : State) (x : Saved) (core : Nat) : Bool :=
  let c := s.coreOf core
  decide (x.core = core) && decide (c.task.run = .free) && decide (c.act.run = .free) && c.alloc.isNone && !c.reserved && c.copy.idle &&
    s.mayHold (s.context x.slot.ctx).vf core && decide (c.log.length < 256) && decide (bits (s.mapEntry core) 0 5 = 0) && (x.matrix.isEmpty || c.feat.getLsbD 0) && (x.vector.isEmpty || c.feat.getLsbD 1) &&
    decide ((s.kernelRec x.slot.kernel).featreq &&& ~~~c.feat = 0) &&
    (decide (x.cause ≠ Cause.timeSlice) || decide (s.guest = x.slot.ctx)) &&
    !(s.stores.any fun y => decide (y.src = core ∧ y.kernel ≠ x.slot.kernel))

/-- The service-log entry of a kernel that has a core again: a new one, as when a launch allocates it (R320; log entry 77). -/
def Core.reopen (c : Core) (kernel : Nat) (K : Kernel) (vt : BitVec 48) : List LogEntry :=
  c.log ++ [{ kernel := kernel, queue := K.queue, index := K.index, allocVt := vt, release := none,
              m := ((c.log.reverse.find? fun e => e.kernel = kernel).map (·.m)).getD false }]

/-- The core with a saved context back in it; no tensor record comes with it (R172), and HOLD is as it was before the change of hands, with
the operations since (R261). -/
def Core.refill (c : Core) (x : Saved) (img : Core) (K : Kernel) (vt : BitVec 48) : Core :=
  { img with
    task := { x.slot with streams := c.task.streams }
    act := c.act, v := x.v, k := x.k, mshape := x.mshape, accd := x.accd, net := x.net, matrix := x.matrix, vector := x.vector
    mrun := img.mrun, ovld := x.ovld.map fun b => (b, .task), feat := c.feat, entryFeat := c.entryFeat, hw := c.hw, copy := c.copy, tlb := c.tlb
    tids := [], log := c.reopen x.slot.kernel K vt
    detected := (c.detected.filter fun d => d.1 ≠ .task) ++ x.detected.map fun t => (.task, t)
    chans := Vector.ofFn fun (n : Fin 16) =>
      { img.chans[n] with hold := ((img.heldBefore.getD 0).getLsbD n.val) }
    heldBefore := none, fetchbase := img.codebase }

/-- A restored task takes the points that apply, and goes on if it was pre-empted and is not stopped (R271, R334, R336). -/
def State.goOn (s : State) (core : Nat) : State :=
  s.onCore core fun c =>
    let u := s.loadPoints c.task
    match u.run with
    | .halted (.preempted p) => if p = Cause.debugHalt then c.setSlot .task u else c.reenter .task u.unpark
    | _ => c.setSlot .task u

/-- CONTEXT_RESTORE: saved context n is written back whole, and the task resumes; a rectangle resumes only as a whole, on the
same cores; a stopped task stays stopped (R105, R271, R336). -/
def execContextRestore (n core : Nat) (s : State) : Out :=
  if core ≥ Config.cores then .fault .noSuchAgent
  else match s.saved[n]? with
  | none => .next s
  | some x => match x.image with
    | none => .next s
    | some img =>
      if !s.restorable x core then .next s
      else
        let s1 := { s with saved := dropAt s.saved n }.setMapEntry core (s.mapEntry core ||| mapAlloc)
        let s2 := (s1.setCore core ((s1.coreOf core).refill x img (s.kernelRec x.slot.kernel) s.vt)).renameResults x.key core
        let s3 := { s2 with copies := s2.copies ++ x.copies }
        let team := s3.rectangleOf core
        .next (if team.all fun c => decide ((s3.coreOf c).task.run ≠ .free) && (s3.coreOf c).alloc.isSome && !(s3.saved.any fun y => y.core = c && team.contains y.core && decide (y.slot.kernel = x.slot.kernel))
          then team.foldl State.goOn s3 else s3)

end Sys2Proof.Machine
end

