-- ==== Sys2Proof/Machine/Flags.lean ====
section
/-! DEFINITION. Conditions and integer results. The architecture has no flags (R54): what another machine keeps in a
status register is a comparison of two registers here, made by the branch or the set instruction itself (R54, R62). -/

namespace Sys2Proof.Machine

/-! ### Comparisons (R54, R62) -/

/-- s(a) < s(b). -/
def ltS (a b : Word) : Bool := decide (a.toInt < b.toInt)

/-- u(a) < u(b). -/
def ltU (a b : Word) : Bool := decide (a.toNat < b.toNat)

/-- A truth value as a word. -/
def boolWord (c : Bool) : Word := if c then 1 else 0

/-! ### Integer results (R54, R55) -/

/-- The shift amount gB[5:0]. -/
def shAmt (b : Word) : Nat := b.toNat % 64

/-- gA × 2^sh. -/
def shl (a : Word) (sh : Nat) : Word := a <<< sh

/-- floor(u(gA) / 2^sh). -/
def shrU (a : Word) (sh : Nat) : Word := a >>> sh

/-- floor(s(gA) / 2^sh). -/
def shrS (a : Word) (sh : Nat) : Word := a.sshiftRight sh

/-- floor(s(gA) × s(gB) / 2^64). -/
def mulHighS (a b : Word) : Word := BitVec.ofInt 64 (a.toInt * b.toInt / 2 ^ 64)

/-- floor(u(gA) × u(gB) / 2^64). -/
def mulHighU (a b : Word) : Word := BitVec.ofNat 64 (a.toNat * b.toNat / 2 ^ 64)

/-- The smaller under signed comparison. -/
def minS (a b : Word) : Word := if ltS a b then a else b

/-- The larger under signed comparison. -/
def maxS (a b : Word) : Word := if ltS a b then b else a

/-- div: truncated; all ones by zero; −2^63 by −1 is −2^63 again (R55). -/
def divS (a b : Word) : Word := if b = 0 then BitVec.allOnes 64 else BitVec.ofInt 64 (a.toInt.tdiv b.toInt)

/-- divu (R55). -/
def divU (a b : Word) : Word := if b = 0 then BitVec.allOnes 64 else BitVec.ofNat 64 (a.toNat / b.toNat)

/-- rem: the sign of the dividend; the dividend by zero (R55). -/
def remS (a b : Word) : Word := if b = 0 then a else BitVec.ofInt 64 (a.toInt.tmod b.toInt)

/-- remu (R55). -/
def remU (a b : Word) : Word := if b = 0 then a else BitVec.ofNat 64 (a.toNat % b.toNat)

/-- movsi: the old value moved up 19 bits, the immediate below (R58). -/
def movsiValue (old : Word) (imm : BitVec 19) : Word := old <<< 19 + imm.zeroExtend 64

end Sys2Proof.Machine
end

