-- ==== Sys2Proof/Machine/Scalar.lean ====
section
/-! DEFINITION. Scalar, address and control instructions (R49 to R68 of spec/04_scalar_instructions.md) and the
trap instructions of major 0x19 but OVLD (R273 to R275 of spec/17_traps_and_preemption.md). -/

namespace Sys2Proof.Machine

/-- An instruction of `len` bytes whose whole effect is to write gD (R49, R54). -/
def writeG (len : Nat) (i : Instr) (d : GReg) (x : State → Word) (s : State) : Out :=
  issue i s fun s => retire len (s.setG d (x s))

/-- A long-latency result that is known when the instruction issues: written later, window per R44. -/
def lateG (i : Instr) (la : BitVec 4) (d : GReg) (x : State → Word) (s : State) : Out :=
  issue i s fun s => retireOpen 4 d la (s.addResult d (.ready (x s)))
/-! ### Register forms (R54, R55) -/

/-- ADD gD, gA, gB (R54). -/
def execAdd (d a b : GReg) (s : State) : Out :=
  writeG 4 (.add d a b) d (fun s => s.g a + s.g b) s

/-- SUB gD, gA, gB (R54). -/
def execSub (d a b : GReg) (s : State) : Out :=
  writeG 4 (.sub d a b) d (fun s => s.g a - s.g b) s

/-- AND gD, gA, gB (R54). -/
def execAnd (d a b : GReg) (s : State) : Out :=
  writeG 4 (.and d a b) d (fun s => s.g a &&& s.g b) s

/-- OR gD, gA, gB (R54). -/
def execOr (d a b : GReg) (s : State) : Out :=
  writeG 4 (.or d a b) d (fun s => s.g a ||| s.g b) s

/-- XOR gD, gA, gB (R54). -/
def execXor (d a b : GReg) (s : State) : Out :=
  writeG 4 (.xor d a b) d (fun s => s.g a ^^^ s.g b) s

/-- SLL gD, gA, gB (R54). -/
def execSll (d a b : GReg) (s : State) : Out :=
  writeG 4 (.sll d a b) d (fun s => shl (s.g a) (shAmt (s.g b))) s

/-- SRL gD, gA, gB (R54). -/
def execSrl (d a b : GReg) (s : State) : Out :=
  writeG 4 (.srl d a b) d (fun s => shrU (s.g a) (shAmt (s.g b))) s

/-- SRA gD, gA, gB (R54). -/
def execSra (d a b : GReg) (s : State) : Out :=
  writeG 4 (.sra d a b) d (fun s => shrS (s.g a) (shAmt (s.g b))) s

/-- MUL gD, gA, gB (R54). -/
def execMul (d a b : GReg) (s : State) : Out :=
  writeG 4 (.mul d a b) d (fun s => s.g a * s.g b) s

/-- MULH gD, gA, gB (R54). -/
def execMulh (d a b : GReg) (s : State) : Out :=
  writeG 4 (.mulh d a b) d (fun s => mulHighS (s.g a) (s.g b)) s

/-- MULHU gD, gA, gB (R54). -/
def execMulhu (d a b : GReg) (s : State) : Out :=
  writeG 4 (.mulhu d a b) d (fun s => mulHighU (s.g a) (s.g b)) s

/-- SLT gD, gA, gB (R54). -/
def execSlt (d a b : GReg) (s : State) : Out :=
  writeG 4 (.slt d a b) d (fun s => boolWord (ltS (s.g a) (s.g b))) s

/-- SLTU gD, gA, gB (R54). -/
def execSltu (d a b : GReg) (s : State) : Out :=
  writeG 4 (.sltu d a b) d (fun s => boolWord (ltU (s.g a) (s.g b))) s

/-- MIN gD, gA, gB (R54). -/
def execMin (d a b : GReg) (s : State) : Out :=
  writeG 4 (.min d a b) d (fun s => minS (s.g a) (s.g b)) s

/-- MAX gD, gA, gB (R54). -/
def execMax (d a b : GReg) (s : State) : Out :=
  writeG 4 (.max d a b) d (fun s => maxS (s.g a) (s.g b)) s

/-- DIV gD, gA, gB: long-latency (R43, R55). -/
def execDiv (la : BitVec 4) (d a b : GReg) (s : State) : Out :=
  lateG (.div la d a b) la d (fun s => divS (s.g a) (s.g b)) s

/-- DIVU gD, gA, gB: long-latency (R43, R55). -/
def execDivu (la : BitVec 4) (d a b : GReg) (s : State) : Out :=
  lateG (.divu la d a b) la d (fun s => divU (s.g a) (s.g b)) s

/-- REM gD, gA, gB: long-latency (R43, R55). -/
def execRem (la : BitVec 4) (d a b : GReg) (s : State) : Out :=
  lateG (.rem la d a b) la d (fun s => remS (s.g a) (s.g b)) s

/-- REMU gD, gA, gB: long-latency (R43, R55). -/
def execRemu (la : BitVec 4) (d a b : GReg) (s : State) : Out :=
  lateG (.remu la d a b) la d (fun s => remU (s.g a) (s.g b)) s

/-- MOV gD, gA (R54). -/
def execMov (d a : GReg) (s : State) : Out :=
  writeG 4 (.mov d a) d (fun s => s.g a) s

/-! ### Address forms (R60) -/

/-- Writes the moved tree address, or traps 0x3B with TVAL gA (R60). -/
def writeOfs (i : Instr) (d a : GReg) (x : State → Int) (s : State) : Out :=
  issue i s fun s =>
    match offsetAdd (s.g a) (x s) with
    | some r => retire 4 (s.setG d r)
    | none => trap Cause.offsetOverflow (s.g a) s

/-- OADD gD, gA, gB (R60). -/
def execOadd (d a b : GReg) (s : State) : Out :=
  writeOfs (.oadd d a b) d a (fun s => (s.g b).toInt) s

/-- OADDI gD, gA, imm (R60). -/
def execOaddi (d a : GReg) (imm : BitVec 14) (s : State) : Out :=
  writeOfs (.oaddi d a imm) d a (fun _ => imm.toInt) s

/-- MKTA gD, gA, gB: traps 0x3B when gA[63:16] or gB[63:48] is nonzero (R60). -/
def execMkta (d a b : GReg) (s : State) : Out :=
  issue (.mkta d a b) s fun s =>
    if bits (s.g a) 16 48 ≠ 0 ∨ bits (s.g b) 48 16 ≠ 0 then trap Cause.offsetOverflow (s.g a) s
    else retire 4 (s.setG d (mkTa (bits (s.g a) 0 16) (bits (s.g b) 0 48)))

/-- HDL gD, gA (R60). -/
def execHdl (d a : GReg) (s : State) : Out :=
  writeG 4 (.hdl d a) d (fun s => BitVec.ofNat 64 (taHandle (s.g a))) s

/-- OFS gD, gA (R60). -/
def execOfs (d a : GReg) (s : State) : Out :=
  writeG 4 (.ofs d a) d (fun s => BitVec.ofNat 64 (taOfs (s.g a))) s

/-! ### Immediate and shift forms (R56 to R58) -/

/-- ADDI gD, gA, imm (R56). -/
def execAddi (d a : GReg) (imm : BitVec 14) (s : State) : Out :=
  writeG 4 (.addi d a imm) d (fun s => s.g a + imm14 imm) s

/-- ANDI gD, gA, imm (R56). -/
def execAndi (d a : GReg) (imm : BitVec 14) (s : State) : Out :=
  writeG 4 (.andi d a imm) d (fun s => s.g a &&& imm14 imm) s

/-- ORI gD, gA, imm (R56). -/
def execOri (d a : GReg) (imm : BitVec 14) (s : State) : Out :=
  writeG 4 (.ori d a imm) d (fun s => s.g a ||| imm14 imm) s

/-- XORI gD, gA, imm (R56). -/
def execXori (d a : GReg) (imm : BitVec 14) (s : State) : Out :=
  writeG 4 (.xori d a imm) d (fun s => s.g a ^^^ imm14 imm) s

/-- SLTI gD, gA, imm (R56). -/
def execSlti (d a : GReg) (imm : BitVec 14) (s : State) : Out :=
  writeG 4 (.slti d a imm) d (fun s => boolWord (ltS (s.g a) (imm14 imm))) s

/-- MULI gD, gA, imm (R56). -/
def execMuli (d a : GReg) (imm : BitVec 14) (s : State) : Out :=
  writeG 4 (.muli d a imm) d (fun s => s.g a * imm14 imm) s

/-- SLLI gD, gA, SHAMT (R57). -/
def execSlli (d a : GReg) (sh : BitVec 6) (s : State) : Out :=
  writeG 4 (.slli d a sh) d (fun s => shl (s.g a) sh.toNat) s

/-- SRLI gD, gA, SHAMT (R57). -/
def execSrli (d a : GReg) (sh : BitVec 6) (s : State) : Out :=
  writeG 4 (.srli d a sh) d (fun s => shrU (s.g a) sh.toNat) s

/-- SRAI gD, gA, SHAMT (R57). -/
def execSrai (d a : GReg) (sh : BitVec 6) (s : State) : Out :=
  writeG 4 (.srai d a sh) d (fun s => shrS (s.g a) sh.toNat) s

/-- MOVI gD, imm (R58). -/
def execMovi (d : GReg) (imm : BitVec 19) (s : State) : Out :=
  writeG 4 (.movi d imm) d (fun _ => imm.signExtend 64) s

/-- MOVSI gD, imm (R58). -/
def execMovsi (d : GReg) (imm : BitVec 19) (s : State) : Out :=
  writeG 4 (.movsi d imm) d (fun s => movsiValue (s.g d) imm) s

/-! ### Extension registers (R59) -/

/-- EMOV eD, gA (R59). -/
def execEmovEG (d : EReg) (a : GReg) (s : State) : Out :=
  issue (.emovEG d a) s fun s => retire 4 (s.setE d (s.g a))

/-- EMOV gD, eA (R59). -/
def execEmovGE (d : GReg) (a : EReg) (s : State) : Out :=
  writeG 4 (.emovGE d a) d (fun s => s.e a) s

/-- EMOV eD, eA (R59). -/
def execEmovEE (d a : EReg) (s : State) : Out :=
  issue (.emovEE d a) s fun s => retire 4 (s.setE d (s.e a))

/-! ### Branches and jumps (R62) -/

/-- A BRANCH offset in bytes: concat(hi, lo) signed, in halfwords (R35). -/
def branchOfs (hi : BitVec 9) (lo : BitVec 5) : Word := ((hi ++ lo : BitVec 14).signExtend 64) <<< 1

/-- A branch: taken to its own offset plus the displacement, else on to the next instruction (R62). -/
def branch (len : Nat) (i : Instr) (ofs : Word) (c : State → Bool) (s : State) : Out :=
  issue i s fun s => if c s then retireTo (s.slot.pc + ofs) s else retire len s

/-- BEQ gA, gB, L (R62). -/
def execBeq (a b : GReg) (hi : BitVec 9) (lo : BitVec 5) (s : State) : Out :=
  branch 4 (.beq a b hi lo) (branchOfs hi lo) (fun s => s.g a == s.g b) s

/-- BNE gA, gB, L (R62). -/
def execBne (a b : GReg) (hi : BitVec 9) (lo : BitVec 5) (s : State) : Out :=
  branch 4 (.bne a b hi lo) (branchOfs hi lo) (fun s => s.g a != s.g b) s

/-- BLT gA, gB, L (R62). -/
def execBlt (a b : GReg) (hi : BitVec 9) (lo : BitVec 5) (s : State) : Out :=
  branch 4 (.blt a b hi lo) (branchOfs hi lo) (fun s => ltS (s.g a) (s.g b)) s

/-- BGE gA, gB, L (R62). -/
def execBge (a b : GReg) (hi : BitVec 9) (lo : BitVec 5) (s : State) : Out :=
  branch 4 (.bge a b hi lo) (branchOfs hi lo) (fun s => !ltS (s.g a) (s.g b)) s

/-- BLTU gA, gB, L (R62). -/
def execBltu (a b : GReg) (hi : BitVec 9) (lo : BitVec 5) (s : State) : Out :=
  branch 4 (.bltu a b hi lo) (branchOfs hi lo) (fun s => ltU (s.g a) (s.g b)) s

/-- BGEU gA, gB, L (R62). -/
def execBgeu (a b : GReg) (hi : BitVec 9) (lo : BitVec 5) (s : State) : Out :=
  branch 4 (.bgeu a b hi lo) (branchOfs hi lo) (fun s => !ltU (s.g a) (s.g b)) s

/-- JAL gD, L: the link is its own offset + 4 (R62). -/
def execJal (d : GReg) (off : BitVec 19) (s : State) : Out :=
  issue (.jal d off) s fun s => retireTo (s.slot.pc + (off.signExtend 64) <<< 1) (s.setG d (s.slot.pc + 4))

/-- JALR gD, gA, imm: a target with bit 0 set traps 0x08 and writes no link (R35, R62). -/
def execJalr (d a : GReg) (imm : BitVec 14) (s : State) : Out :=
  issue (.jalr d a imm) s fun s =>
    if (s.g a + imm14 imm).getLsbD 0 then trap Cause.misaligned (s.g a + imm14 imm) s
    else retireTo (s.g a + imm14 imm) (s.setG d (s.slot.pc + 4))

/-! ### Time and identity (R68) -/

/-- VT with the epoch above it, as a store witness carries them (R68). -/
def State.vtr (s : State) : Word := BitVec.ofNat 64 (s.epoch.toNat * 2 ^ 48 + s.vt.toNat)

/-- VTR gD (R68). -/
def execVtr (d : GReg) (s : State) : Out := writeG 4 (.vtr d) d (fun s => s.vtr) s

/-- The identity word of TID: channel, slot, core and GTID (R68). -/
def State.tidWord (s : State) : Word :=
  BitVec.ofNat 64 ((match s.slot.chan with | some ch => ch.val | none => 0) * 2 ^ 53
    + (if s.sel = .act then 2 ^ 52 else 0) + (if isDispatch s.core.id then 0 else s.core.id) * 2 ^ 40 + bits s.slot.gtid 0 40)

/-- TID gD (R68). -/
def execTid (d : GReg) (s : State) : Out := writeG 4 (.tid d) d (fun s => s.tidWord) s

/-! ### Trap instructions (R273 to R275) -/

/-- TRAP imm: 0x2E, TVAL the immediate, TPC after it (R273). -/
def execTrap (imm : BitVec 9) (s : State) : Out :=
  issue (.trap imm) s fun s => trapAt Cause.trapInstr (imm.zeroExtend 64) (s.slot.pc + 4) s

/-- BKPT imm: 0x2C, TVAL concat(1, imm), TPC after it (R273). -/
def execBkpt (imm : BitVec 9) (s : State) : Out :=
  issue (.bkpt imm) s fun s => trapAt Cause.breakpoint (imm.zeroExtend 64 + 512) (s.slot.pc + 4) s

/-- ERET: 0x01 outside a handler, 0x08 for an odd TPC, else the return (R273). -/
def execEret (s : State) : Out :=
  issue .eret s fun s =>
    if !s.slot.inh then trap Cause.illegal s.word s
    else if s.slot.tpc.getLsbD 0 then trap Cause.misaligned s.slot.tpc s
    else .next (returnFromTrap s)

/-- WFE: waits for the slot's event latch and clears it; 0x06 in an activation (R259, R275). -/
def execWfe (s : State) : Out :=
  issue .wfe s fun s =>
    if s.sel = .act then trap Cause.blockingInActivation s.word s
    else if s.slot.latch then retire 4 (s.mapSlot fun t => { t with latch := false })
    else stall s

/-- The fetched word is no instruction (R47): 0x01 with TVAL the word. -/
def execIllegalEncoding (w : Word32) (s : State) : Out := trap Cause.illegal (w.zeroExtend 64) s

/-- The fetch of an image offset missed the window (R223, R274): 0x11 with TVAL the offset. -/
def execOverlayMiss (ofs : Word) (s : State) : Out := trap Cause.overlayMiss ofs s

/-! ### Compact words (R63) -/

/-- HNOP (R63). -/
def execHnop (s : State) : Out := issue .hnop s fun s => retire 2 s

/-- HMOV gX, gY (R63). -/
def execHmov (x y : GReg) (s : State) : Out :=
  writeG 2 (.hmov x y) x (fun s => s.g y) s

/-- HADD gX, gY (R63). -/
def execHadd (x y : GReg) (s : State) : Out :=
  writeG 2 (.hadd x y) x (fun s => s.g x + s.g y) s

/-- HSUB gX, gY (R63). -/
def execHsub (x y : GReg) (s : State) : Out :=
  writeG 2 (.hsub x y) x (fun s => s.g x - s.g y) s

/-- HAND gX, gY (R63). -/
def execHand (x y : GReg) (s : State) : Out :=
  writeG 2 (.hand x y) x (fun s => s.g x &&& s.g y) s

/-- HOR gX, gY (R63). -/
def execHor (x y : GReg) (s : State) : Out :=
  writeG 2 (.hor x y) x (fun s => s.g x ||| s.g y) s

/-- HXOR gX, gY (R63). -/
def execHxor (x y : GReg) (s : State) : Out :=
  writeG 2 (.hxor x y) x (fun s => s.g x ^^^ s.g y) s

/-- HLI gX, imm (R63). -/
def execHli (x : GReg) (imm : BitVec 5) (s : State) : Out :=
  writeG 2 (.hli x imm) x (fun _ => imm.signExtend 64) s

/-- HADDI gX, imm (R63). -/
def execHaddi (x : GReg) (imm : BitVec 5) (s : State) : Out :=
  writeG 2 (.haddi x imm) x (fun s => s.g x + imm.signExtend 64) s

/-- HSLLI gX, imm (R63). -/
def execHslli (x : GReg) (imm : BitVec 5) (s : State) : Out :=
  writeG 2 (.hslli x imm) x (fun s => shl (s.g x) imm.toNat) s

/-- HSRLI gX, imm (R63). -/
def execHsrli (x : GReg) (imm : BitVec 5) (s : State) : Out :=
  writeG 2 (.hsrli x imm) x (fun s => shrU (s.g x) imm.toNat) s

/-- HSRAI gX, imm (R63). -/
def execHsrai (x : GReg) (imm : BitVec 5) (s : State) : Out :=
  writeG 2 (.hsrai x imm) x (fun s => shrS (s.g x) imm.toNat) s

/-- HBEQZ gX, L (R63). -/
def execHbeqz (x : GReg) (off : BitVec 5) (s : State) : Out :=
  branch 2 (.hbeqz x off) ((off.signExtend 64) <<< 1) (fun s => s.g x == 0) s

/-- HBNEZ gX, L (R63). -/
def execHbnez (x : GReg) (off : BitVec 5) (s : State) : Out :=
  branch 2 (.hbnez x off) ((off.signExtend 64) <<< 1) (fun s => s.g x != 0) s

/-- HJ L (R63). -/
def execHj (off : BitVec 10) (s : State) : Out :=
  issue (.hj off) s fun s => retireTo (s.slot.pc + (off.signExtend 64) <<< 1) s

/-- HJR gX: 0x08 for a target with bit 0 set (R63). -/
def execHjr (x : GReg) (s : State) : Out :=
  issue (.hjr x) s fun s =>
    if (s.g x).getLsbD 0 then trap Cause.misaligned (s.g x) s else retireTo (s.g x) s

/-- HWNULL wX: a pending register is replaced (R63, R146). -/
def execHwnull (x : WReg) (s : State) : Out := issue (.hwnull x) s fun s => retire 2 (s.setW x .null)

/-! ### Repetition (R40, R41, R64 to R66) -/

/-- A trap of a pair before its first repetition: it records the remaining count (R41, R66). -/
def trapPair (st : BitVec 4) (done left : BitVec 32) (c : Cause) (tval : Word) (s : State) : Out :=
  trapWith (fun s => s.mapSlot fun t => { t with rep := some { done := done, left := left, step := st } }) c tval s

/-- The breakpoint of the slot that stands at an image offset (R333, R334). -/
def Slot.breakAt (t : Slot) (pc : Word) : Option Nat :=
  if t.skip then none else (t.points.find? fun p => p.kind = 0 && p.addr = pc).map (·.index)

/-- What a pair's follower is at fault for before any repetition: an overlay miss, its own decode causes before 0x07, and the last
repetition to run is checked (R41, R64). Of a count of 0 only the first halfword is fetched. A breakpoint at the follower comes before all
of these, and the first repetition meets it (R266). -/
def followerCause (st : BitVec 4) (done left : BitVec 32) (s : State) : Option (Cause × Word) :=
  if left = 0 then
    if (fetchHalf s.core s.sel (s.slot.pc + 2)).isNone then some (Cause.overlayMiss, s.slot.pc + 2) else none
  else if (s.slot.breakAt (s.slot.pc + 2)).isSome then none
  else match fetch s.core s.sel (s.slot.pc + 2) with
    | .miss o => some (Cause.overlayMiss, o)
    | .illegal w => some (Cause.illegal, w.zeroExtend 64)
    | .instr i w _ =>
      if privilegedInstr i && !s.slot.priv then some (Cause.privileged, w.zeroExtend 64)
      else if (match feature i with | some n => !s.core.feat.getLsbD n | none => false) then some (Cause.featureAbsent, w.zeroExtend 64)
      else if (repInstr st (done.toNat + left.toNat - 1) i).isNone then some (Cause.repeatNot, w.zeroExtend 64)
      else none

/-- Starts or resumes a REP pair with STEP bits `st` whose follower is not at fault. A count of 0 skips the follower (R41, R65). -/
def beginRep (st : BitVec 4) (done left : BitVec 32) (s : State) : Out :=
  if left = 0 then
    match fetchHalf s.core s.sel (s.slot.pc + 2) with
    | none => trap Cause.overlayMiss (s.slot.pc + 2) s
    | some h =>
      .next (s.mapSlot fun t => { t with pc := t.pc + 2 + BitVec.ofNat 64 (lengthOf h), resume := none, skip := false })
  else .next (s.mapSlot fun t => { t with rep := some { done := done, left := left, step := st }, resume := none })

/-- The pair's decode causes, the follower's among them, and then what the REP word itself goes on to (R41, R266). The REP word is no
lookahead position (R44). -/
def startRep (st : BitVec 4) (done left : BitVec 32) (s : State) (k : State → Out) : Out :=
  match followerCause st done left s with
  | some (c, v) => if left = 0 then trap c v s else trapPair st done left c v s
  | none => k s

/-- REP COUNT; an interrupted pair resumes without reading the count (R65, R66). -/
def execRepCount (st cnt : BitVec 4) (s : State) : Out :=
  match s.slot.resume with
  | some r => startRep st r.done r.left s fun s => issue (.repCount st cnt) s (beginRep st r.done r.left)
  | none => startRep st 0 (cnt.zeroExtend 32 + 1) s fun s => issue (.repCount st cnt) s (beginRep st 0 (cnt.zeroExtend 32 + 1))

/-- Whether a register's value stands: no window is open on it, no result is on its way to it and it has no error. -/
def State.holdsG (s : State) (x : GReg) : Bool :=
  !s.slot.windowed x && !(s.outstanding.any fun r => r.reg == x) && !s.slot.flaws.contains (.g x)

/-- REP gX: the count is gX[31:0], read once; a resumed pair does not read it (R65, R66). While gX does not stand the count is not known:
an overlay miss on the follower's first halfword, which every count meets, comes before the REP word's own 0x03, wait or 0x2F, and those
before what else the follower would raise (R266; log entry 68). -/
def execRepRegister (st : BitVec 4) (x : GReg) (s : State) : Out :=
  let count (s : State) : BitVec 32 := (s.g x).truncate 32
  match s.slot.resume with
  | some r => startRep st r.done r.left s (beginRep st r.done r.left)
  | none =>
    if s.holdsG x then startRep st 0 (count s) s fun s => issue (.repRegister st x) s (beginRep st 0 (count s))
    else if (fetchHalf s.core s.sel (s.slot.pc + 2)).isNone then trap Cause.overlayMiss (s.slot.pc + 2) s
    else issue (.repRegister st x) s fun s => startRep st 0 (count s) s (beginRep st 0 (count s))

end Sys2Proof.Machine
end

