-- ==== Sys2Proof/Machine/Queues.lean ====
section
/-! DEFINITION. Command queues (R304 to R308), rank programs and the PIFO (R309 to R311), the dispatch cores' fetch and
bookkeeping (R306, R311 to R313) and completion records (R318), of spec/21_command_queues_and_dispatch.md. -/

namespace Sys2Proof.Machine

/-! ### Control blocks (R304) -/

/-- Field of a copy of a shadow half. -/
def shadowField (sh : List Byte) (o n : Nat) : Nat := leNat ((sh.drop o).take n)

/-- The 32 bytes of a queue's shadow half. -/
def State.shadowHalf (s : State) (q : Nat) : List Byte := s.hubBytes (objectBase 4 + 32 * q) 32

/-- STATE of a queue: 0 stopped, 1 running, 2 faulted. -/
def State.queueState (s : State) (q : Nat) : Nat := s.shadowByte q 7
/-- READIDX of a queue. -/
def State.readIdx (s : State) (q : Nat) : Nat := s.shadowNat q 8 8
/-- P of a shadow half: 2^LOGSIZE. -/
def shadowSize (sh : List Byte) : Nat := 2 ^ shadowField sh 4 1
/-- CONTEXT of a shadow half. -/
def shadowCtx (sh : List Byte) : Nat := shadowField sh 0x18 2
/-- VF of a shadow half. -/
def shadowVf (sh : List Byte) : Nat := shadowField sh 6 1

/-- A dword of a queue object: of a line with an uncorrectable error what is not stated (R326; log entry 71). -/
def State.queueDword (s : State) (q ofs : Nat) : Word :=
  match s.placeOf (s.shadowNat q 0 4) ofs with
  | some p => if s.poisonedAt p then Config.poisonedWord s.tick ofs else BitVec.ofNat 64 (s.natAt p 8)
  | none => 0

/-- WRITEIDX, FLAGS and CRADDR of the user half, read at its home. -/
def State.writeIdx (s : State) (q : Nat) : Nat := (s.queueDword q 0).toNat
/-- FLAGS. -/
def State.queueFlags (s : State) (q : Nat) : Word := s.queueDword q 0x10
/-- CRADDR. -/
def State.queueCr (s : State) (q : Nat) : Word := s.queueDword q 0x18

/-- The eight dwords of the packet at an index. -/
def State.slotWords (s : State) (q size i : Nat) : List Word :=
  (List.range 8).map fun k => s.queueDword q (64 + 64 * (i % size) + 8 * k)

/-- The hardware's own writes to a shadow half: READIDX, STEP and STATE 2 (R307). -/
def State.putShadow (s : State) (q ofs n x : Nat) : State :=
  { s with hbm := memPut s.hbm (objectBase 4 + 32 * q + ofs) (natBytes n x) }

/-- The hardware's own write of a dword of a system object, read-only fields among its bits (R6, R310, R341). -/
def State.ownPut (s : State) (pa : Nat) (x : Word) : State := { s with hbm := memPutDword s.hbm pa x }

/-! ### Tokens (R308) -/

/-- RATE [31:16] of a queue: packets per 1,024 cycles, 0 for no limit. -/
def State.rateOf (s : State) (q : Nat) : Nat := s.shadowNat q 0x16 2
/-- The burst of a queue: 0 reads as 1. -/
def State.burstOf (s : State) (q : Nat) : Nat := max 1 (s.shadowNat q 0x14 2)

/-- The hub's record of a queue. -/
def State.queue (s : State) (q : Nat) : Queue := tabGetD s.queues q { tokens := 0, accrued := s.vt, watch := none }

/-- Changes the hub's record of a queue. -/
def State.onQueue (s : State) (q : Nat) (f : Queue → Queue) : State := { s with queues := tabPut s.queues q (f (s.queue q)) }

/-- TOKEN_ACCRUAL: a limited queue's tokens have accrued up to now, at RATE [31:16] per 1,024 cycles, up to the burst. -/
def execTokenAccrual (q : Nat) (s : State) : Out :=
  if (tabGet s.queues q).isNone ∨ s.rateOf q = 0 then .next s
  else .next (s.onQueue q fun k =>
    { k with tokens := min (k.tokens + s.rateOf q * (s.vt - k.accrued).toNat) (1024 * s.burstOf q), accrued := s.vt })

/-- Whether a queue may be ranked: it is not limited, or has a token. -/
def State.hasToken (s : State) (q : Nat) : Bool := decide (s.rateOf q = 0 ∨ (s.queue q).tokens ≥ 1024)

/-- Spends a token of a limited queue. -/
def State.spend (s : State) (q : Nat) : State :=
  if s.rateOf q = 0 then s else s.onQueue q fun k => { k with tokens := k.tokens - 1024 }

/-- The context a function's queue names is created with the function's quotas, its plat root open at 0xFFF0, when the hub first
sees the queue run (R192, R204, R359, R366; log entry 26). -/
def State.openContext (s : State) (ctx vf : Nat) : State :=
  if (tabGet s.contexts ctx).isSome then s
  else
    let c : Context := if vf = pfFunction then pfRoot else
      { vf := vf, priv := false, root := s.vfField vf 0x28 4, handles := [], floor := 0x15, maxHandles := s.vfField vf 0x10 4
        maxEntries := s.vfField vf 0x14 4, maxNodes := s.vfField vf 0x18 4, maxBytes := s.vfField vf 0x20 8, entries := 0, nodes := 0
        bytes := 0 }
    { s with contexts := tabPut s.contexts ctx c }

/-- QUEUE_UPDATE_COMMAND: the hub acts on the first update of queue q: writing STATE 1 starts it, its tokens at the burst,
and posts a doorbell event (R307, R308). -/
def execQueueUpdateCommand (q : Nat) (s : State) : Out :=
  match s.updates.findIdx? fun u => u.1 = q with
  | none => .next s
  | some i => match s.updates[i]? with
    | none => .next s
    | some u =>
      let s1 := { s with updates := dropAt s.updates i }
      if u.2 then .next (((s1.openContext (s.shadowNat q 0x18 2) (s.shadowByte q 6)).onQueue q fun k =>
        { k with tokens := 1024 * s.burstOf q, accrued := s.vt }).postEvent q)
      else .next s1

/-! ### Rank programs (R309, R310) -/

/-- The meaning of an instruction a rank program may use, none for any other (R309). -/
def rankMeaning : Instr → Option (State → Out)
  | .add d a b => some (execAdd d a b)
  | .sub d a b => some (execSub d a b)
  | .and d a b => some (execAnd d a b)
  | .or d a b => some (execOr d a b)
  | .xor d a b => some (execXor d a b)
  | .sll d a b => some (execSll d a b)
  | .srl d a b => some (execSrl d a b)
  | .sra d a b => some (execSra d a b)
  | .mul d a b => some (execMul d a b)
  | .mulh d a b => some (execMulh d a b)
  | .mulhu d a b => some (execMulhu d a b)
  | .slt d a b => some (execSlt d a b)
  | .sltu d a b => some (execSltu d a b)
  | .min d a b => some (execMin d a b)
  | .max d a b => some (execMax d a b)
  | .mov d a => some (execMov d a)
  | .addi d a i => some (execAddi d a i)
  | .andi d a i => some (execAndi d a i)
  | .ori d a i => some (execOri d a i)
  | .xori d a i => some (execXori d a i)
  | .slti d a i => some (execSlti d a i)
  | .muli d a i => some (execMuli d a i)
  | .slli d a n => some (execSlli d a n)
  | .srli d a n => some (execSrli d a n)
  | .srai d a n => some (execSrai d a n)
  | .movi d i => some (execMovi d i)
  | .movsi d i => some (execMovsi d i)
  | .beq a b h l => some (execBeq a b h l)
  | .bne a b h l => some (execBne a b h l)
  | .blt a b h l => some (execBlt a b h l)
  | .bge a b h l => some (execBge a b h l)
  | .bltu a b h l => some (execBltu a b h l)
  | .bgeu a b h l => some (execBgeu a b h l)
  | .hnop => some execHnop
  | .hmov x y => some (execHmov x y)
  | .hadd x y => some (execHadd x y)
  | .hsub x y => some (execHsub x y)
  | .hand x y => some (execHand x y)
  | .hor x y => some (execHor x y)
  | .hxor x y => some (execHxor x y)
  | .hli x i => some (execHli x i)
  | .haddi x i => some (execHaddi x i)
  | .hslli x i => some (execHslli x i)
  | .hsrli x i => some (execHsrli x i)
  | .hsrai x i => some (execHsrai x i)
  | .hbeqz x o => some (execHbeqz x o)
  | .hbnez x o => some (execHbnez x o)
  | _ => none

/-- The target of a branch that stands at an offset, none for an instruction that is no branch (R62). -/
def rankTarget (o : Nat) : Instr → Option Int
  | .beq _ _ h l => some (o + 2 * (h ++ l).toInt)
  | .bne _ _ h l => some (o + 2 * (h ++ l).toInt)
  | .blt _ _ h l => some (o + 2 * (h ++ l).toInt)
  | .bge _ _ h l => some (o + 2 * (h ++ l).toInt)
  | .bltu _ _ h l => some (o + 2 * (h ++ l).toInt)
  | .bgeu _ _ h l => some (o + 2 * (h ++ l).toInt)
  | .hbeqz _ d => some (o + 2 * d.toInt)
  | .hbnez _ d => some (o + 2 * d.toInt)
  | _ => none

/-- The instructions of staged code with their offsets; none where a word is no instruction or code ends inside one. -/
def rankCode : Nat → Nat → List Byte → Option (List (Nat × Instr))
  | _, _, [] => some []
  | 0, _, _ => none
  | fuel + 1, o, l => match decode l with
    | .ok (i, n) => if n > l.length then none else (rankCode fuel (o + n) (l.drop n)).map fun r => (o, i) :: r
    | .error _ => none

/-- Whether staged code keeps the limits of R309: at most 32 instructions, each of the allowed ones or EXIT, branch targets
forward and at an instruction of the program. -/
def rankOk (code : List Byte) : Bool :=
  match rankCode 33 0 code with
  | none => false
  | some l => decide (l.length ≤ 32) && l.all fun (o, i) =>
      (decide (i = .exit) || (rankMeaning i).isSome) && match rankTarget o i with
        | none => true
        | some t => decide ((o : Int) < t) && l.any fun x => decide ((x.1 : Int) = t)

/-- The registers of the rank core as it starts (R309). -/
def State.rankInputs (s : State) (q : Nat) : List Word :=
  let p := s.slotWords q (shadowSize (s.shadowHalf q)) (s.readIdx q)
  [p.getD 0 0, p.getD 1 0, s.queueDword q 0, BitVec.ofNat 64 (s.readIdx q), BitVec.ofNat 64 (s.shadowNat q 0 8),
   BitVec.ofNat 64 (s.shadowNat q 0x10 8), s.vt.zeroExtend 64, BitVec.ofNat 64 q]

/-- A scalar machine of its own, at offset 0, with the rank core's inputs. -/
def State.rankCore (s : State) (q : Nat) : State :=
  let c := Core.reset 0
  let t := (Slot.reset.withParams (s.rankInputs q))
  { s with core := { c with task := { t with run := .running } }, others := [], sel := .task, results := [], early := [], stalled := false }

/-- Runs a rank program for at most so many instructions: the rank at EXIT, none for a fault (R309). -/
def rankRun (code : List Byte) : Nat → State → Option (BitVec 32)
  | 0, _ => none
  | fuel + 1, s => match decode (code.drop s.slot.pc.toNat) with
    | .error _ => none
    | .ok (.exit, _) => some ((s.g 1).truncate 32)
    | .ok (i, _) => match rankMeaning i with
      | none => none
      | some f => match f s with
        | .next t => rankRun code fuel t
        | _ => none

/-- The rank of a queue under an event's program; program 0 computes PRIO × 2^29 + VT [47:19] (R309). -/
def State.rankOf (s : State) (e : Event) : Option (BitVec 32) :=
  match e.code with
  | none => some (BitVec.ofNat 32 (s.shadowByte e.queue 5 % 8 * 2 ^ 29 + s.vt.toNat / 2 ^ 19))
  | some code => rankRun code 33 (s.rankCore e.queue)

/-- RANK_PROGRAM_RELOAD: LOAD of slot n is set: the staged code is checked and one dword committed, VERSION + 1 or ERR, LOAD
cleared (R310). -/
def execRankProgramReload (slot : Nat) (s : State) : Out :=
  let a := objectBase 5 + 512 * slot
  let x := s.hubDword a
  let len := bits x 40 8
  let code := s.hubBytes (a + 64) len
  let keep := x &&& 0xFFFFFFFC00000000
  let version := BitVec.ofNat 32 (bits x 0 32)
  if slot ≥ 64 ∨ !x.getLsbD 32 then .next s
  else if slot = 0 ∨ len < 2 ∨ len > 128 ∨ len % 2 = 1 ∨ bits x 48 16 ≠ 0 ∨ bits x 34 6 ≠ 0 ∨ !rankOk code then
    .next (s.ownPut a (keep + 2 ^ 33 + version.zeroExtend 64))
  else
    .next ({ s with rank := tabPut s.rank slot { code := code, version := version + 1 } }.ownPut a (keep + (version + 1).zeroExtend 64))

/-! ### Completion records (R318) -/

/-- Dword 0 of a record: TAG and SEQ from the header, EVENT, CAUSE and CORE. -/
def recordHead (header : Word) (event : Nat) (cause : Cause) (core : Nat) : Word :=
  BitVec.ofNat 64 (bits header 32 16 + bits header 48 16 * 2 ^ 16 + event * 2 ^ 32 + cause.toNat * 2 ^ 40 + core * 2 ^ 48)

/-- Where the records of an index lie, 0 where none are written. -/
def recordAt (cr : Word) (size i : Nat) : Word := if cr = 0 then 0 else cr + BitVec.ofNat 64 (64 * (i % size))

/-- A dword written by the hub at a tree address, 8-byte aligned. -/
def State.recordDwordPut (s : State) (w : HubSource) (ctx : Nat) (ta x : Word) : Except Cause State :=
  s.hubApply w ctx .store (.bytes ((natBytes 8 x.toNat).map some)) ta

/-- Writes dwords at a tree address one after another. -/
def State.recordPut (s : State) (w : HubSource) (ctx : Nat) : List (Word × Word) → Except Cause State
  | [] => .ok s
  | (a, x) :: l => match s.recordDwordPut w ctx a x with
    | .error c => .error c
    | .ok t => t.recordPut w ctx l

/-- A dispatch core writes a record, dwords 1 to 3 first and dword 0 last; a write that fails faults the queue with 0x37 (R318). To host
memory it travels as an RMA Write (R358). -/
def State.writeRecord (s : State) (src q ctx : Nat) (ta : Word) (d0 d1 d2 d3 : Word) : State :=
  if ta = 0 then s
  else match s.recordPut (dcWriter src (.record q)) ctx [(ta + 8, d1), (ta + 16, d2), (ta + 24, d3), (ta, d0)] with
    | .ok t => t
    | .error _ => s.putShadow q 7 1 2

/-! ### Dispatch cores (R306, R311 to R313) -/

/-- Local endpoint of dispatch core n (R312). -/
def dcId (n : Nat) : Nat := 0x1118 + n

/-- Whether a dispatch core holds a firmware task (R292, R312). -/
def State.holdsTask (s : State) (n : Nat) : Bool := decide ((s.coreOf (dcId n)).task.run ≠ .free) || (s.coreOf (dcId n)).alloc.isSome

/-- Whether a dispatch core holds a queue's ordering lock. -/
def State.locked (s : State) (q : Nat) : Bool := s.dispatch.any fun d => decide (d.2.queue = some q)

/-- Whether a dispatch core can take the head entry. -/
def State.idleDc (s : State) (n : Nat) : Bool :=
  let d := s.dispatcher (dcId n)
  !d.down && d.queue.isNone && !s.holdsTask n

/-- A dispatch core lets its queue go (R311). -/
def State.letGo (s : State) (n : Nat) : State :=
  s.onDispatch (dcId n) fun d => { Dispatch.idle with down := d.down, ticket := d.ticket }

/-- Faults a queue: STATE 2 and a failed record for its index; the lock is released (R306). -/
def State.faultQueue (s : State) (n q : Nat) (c : Cause) : State :=
  let d := s.dispatcher (dcId n)
  let head := (s.slotWords q (shadowSize d.shadow) d.index).getD 0 0
  ((s.putShadow q 7 1 2).writeRecord (dcId n) q (shadowCtx d.shadow) (recordAt d.cr (shadowSize d.shadow) d.index)
    (recordHead head 3 c 0) 0 (s.vt.zeroExtend 64) 0).letGo n

/-- NSTEP of a header. -/
def steps (h : Word) : Nat := bits h 12 2
/-- KINDi of a header. -/
def stepKind (h : Word) (i : Nat) : Nat := bits h (16 + 4 * i) 4

/-- Whether a kind is short: WRITE, SIGNAL or WAIT (R314). -/
def shortKind (k : Nat) : Bool := decide (k = 3 ∨ k = 4 ∨ k = 5)

/-- Whether a packet breaks its header's rules (R313). -/
def headerBad (p : List Word) : Bool :=
  let h := p.getD 0 0
  let used := (List.range (steps h)).map (stepKind h)
  decide (bits h 28 4 ≠ 0 ∨ bits h 14 2 ≠ 0 ∨ bits h 0 12 ≠ 0 ∨ steps h = 0) || used.any (fun k => decide (k = 0 ∨ k > 9)) ||
    ((List.range 3).any fun i => decide (i ≥ steps h ∧ stepKind h i ≠ 0)) || (decide (steps h > 1) && !used.all shortKind) ||
    (used.all shortKind && decide (p.getD 7 0 ≠ 0))

/-- The packet the dispatch core has waited for is there: its header and kinds are checked, a token is spent, and it begins or
resumes at its step (R306, R308, R315). -/
def State.accept (s : State) (n q : Nat) (p : List Word) : State :=
  let d := s.dispatcher (dcId n)
  let h := p.getD 0 0
  if headerBad p then s.faultQueue n q Cause.queueFault
  else if (List.range (steps h)).any fun i => !(BitVec.ofNat 16 (shadowField d.shadow 0x10 2)).getLsbD (stepKind h i) then
    s.faultQueue n q Cause.queueLimit
  else
    let st := shadowField d.shadow 0x12 1
    ((s.spend q).onQueue q fun k => { k with watch := none }).onDispatch (dcId n) fun d =>
      { d with packet := p, step := if st ≥ 128 then st % 4 else 0, vt := s.vt, seqWait := none, passing := none, waiting := false, answer := none
               ticket := s.tick }

/-- The fetch of R306 by a dispatch core that has taken a queue's lock. -/
def State.fetchPacket (s : State) (n q : Nat) : State :=
  let d := s.dispatcher (dcId n)
  let size := shadowSize d.shadow
  let w := s.writeIdx q
  if s.queueState q ≠ 1 ∨ (s.queueFlags q).getLsbD 0 ∨ w = d.index then s.letGo n
  else if (w + 2 ^ 64 - d.index) % 2 ^ 64 > size ∨ bits (s.queueFlags q) 1 63 ≠ 0 then s.faultQueue n q Cause.queueFault
  else
    let p := s.slotWords q size d.index
    if shadowField d.shadow 0x12 1 < 128 ∧ bits (p.getD 0 0) 48 16 ≠ d.index % 2 ^ 16 then
      s.onDispatch (dcId n) fun d => { d with seqWait := some s.vt }
    else s.accept n q p

/-- The entry at the head of the PIFO: the lowest rank, then the one inserted first, among queues whose turn it is; the
guests of the time-sliced function take turns (R311, R363). -/
def State.pifoHead (s : State) : Option Nat :=
  let ready := s.pifo.filter fun e => decide (s.shadowByte e.2 6 ≠ 16) || decide (s.shadowNat e.2 0x18 2 = s.guest)
  match ready with
  | [] => none
  | x :: l =>
    let least := l.foldl (fun m e => min m e.1.toNat) x.1.toNat
    (ready.find? fun e => e.1.toNat = least).map (·.2)

/-- PIFO_DISPATCH: the lowest-numbered idle dispatch core that holds no firmware task takes the head entry and its lock, and
fetches (R306, R311, R312). -/
def execPifoDispatch (s : State) : Out :=
  match s.pifoHead, (List.range Config.dispatchCores).find? s.idleDc with
  | some q, some n =>
    let s1 := { s with pifo := s.pifo.filter fun e => e.2 ≠ q }.openContext (s.shadowNat q 0x18 2) (s.shadowByte q 6)
    let s2 := s1.onDispatch (dcId n) fun d =>
      { d with queue := some q, index := s.readIdx q, cr := s.queueCr q, shadow := s.shadowHalf q, packet := [], waiting := false
               answer := none, vt := s.vt }
    .next (s2.fetchPacket n q)
  | _, _ => .next s

/-- SEQ_RECHECK: the packet's slot is read again; after 4,096 cycles the dispatch core gives up and the next doorbell fetches
again (R306). -/
def execSeqRecheck (dc : Nat) (s : State) : Out :=
  if dc ≥ Config.dispatchCores then .fault .noSuchAgent
  else
    let d := s.dispatcher (dcId dc)
    match d.queue, d.seqWait with
    | some q, some t =>
      let p := s.slotWords q (shadowSize d.shadow) d.index
      if bits (p.getD 0 0) 48 16 = d.index % 2 ^ 16 then .next (s.accept dc q p)
      else if (s.vt - t).toNat ≥ 4096 then .next (s.letGo dc)
      else .next s
    | _, _ => .next s

/-- Notes a ranked LAUNCH packet for the scan units whose pattern run it ends (R298). -/
def State.noteRank (s : State) (q : Nat) (r : BitVec 32) : State :=
  let p := s.slotWords q (shadowSize (s.shadowHalf q)) (s.readIdx q)
  if s.writeIdx q ≠ s.readIdx q ∧ stepKind (p.getD 0 0) 0 = 1 then
    { s with scans := s.scans.map fun x => (x.1, match x.2.running with
        | some (_, _, a) => if x.2.abort = none ∧ r.toNat < a.toNat then { x.2 with abort := some (r, q) } else x.2
        | none => x.2) }
  else s

/-- RANK_EVENT: the rank core takes the first event whose queue is not locked and not out of tokens, and ranks it (R308, R309);
a rank once given does not change (R310); a program that runs past its end faults the queue with 0x39. -/
def execRankEvent (s : State) : Out :=
  match s.events.findIdx? fun e => !s.locked e.queue && s.hasToken e.queue with
  | none => .next s
  | some i => match s.events[i]? with
    | none => .next s
    | some e =>
      let s1 := { s with events := dropAt s.events i }
      if s.queueState e.queue ≠ 1 ∨ s.pifo.any fun x => x.2 = e.queue then .next s1
      else match s1.rankOf e with
        | some r => .next ({ s1 with pifo := s1.pifo ++ [(r, e.queue)] }.noteRank e.queue r)
        | none =>
          let sh := s.shadowHalf e.queue
          let idx := s.readIdx e.queue
          .next ((s1.putShadow e.queue 7 1 2).writeRecord hubCore e.queue (shadowCtx sh) (recordAt (s.queueCr e.queue) (shadowSize sh) idx)
            (recordHead ((s.slotWords e.queue (shadowSize sh) idx).getD 0 0) 3 Cause.rankFault 0) 0 (s.vt.zeroExtend 64) 0)

/-! ### The end of a packet (R311, R318) -/

/-- READIDX moves past a finished packet, STEP returns to zero, the lock is released, and a re-rank is posted where packets
remain (R308, R311, R315). -/
def State.passPacket (s : State) (n q : Nat) : State :=
  let d := s.dispatcher (dcId n)
  let s1 := ((s.putShadow q 8 8 ((d.index + 1) % 2 ^ 64)).putShadow q 0x12 1 0).letGo n
  if s1.queueState q = 1 ∧ s1.writeIdx q ≠ (d.index + 1) % 2 ^ 64 then s1.postEvent q else s1

/-- The record at +0 of the packet a dispatch core holds (R318). -/
def State.packetRecord (s : State) (n q : Nat) (event : Nat) (c : Cause) (result : Word) : State :=
  let d := s.dispatcher (dcId n)
  s.writeRecord (dcId n) q (shadowCtx d.shadow) (recordAt d.cr (shadowSize d.shadow) d.index) (recordHead (d.packet.getD 0 0) event c 0)
    result (s.vt.zeroExtend 64) 0

/-- A packet fails: the steps after are not performed, and the queue goes on (R314). -/
def State.failPacket (s : State) (n q : Nat) (c : Cause) (result : Word) : State :=
  (s.packetRecord n q 3 c result).passPacket n q

/-- A step is done: the next one, or the end of the packet (R314). -/
def State.stepDone (s : State) (n q : Nat) (result : Word) : State :=
  let d := s.dispatcher (dcId n)
  if d.step + 1 < steps (d.packet.getD 0 0) then
    s.onDispatch (dcId n) fun d => { d with step := d.step + 1, passing := none, waiting := false, answer := none }
  else (s.packetRecord n q 1 0 result).passPacket n q

/-- A packet yields at its step: STEP is saved, the lock released, and a counter line watched (R315, R316). -/
def State.yieldPacket (s : State) (n q : Nat) (line : Place) : State :=
  let d := s.dispatcher (dcId n)
  ((s.putShadow q 0x12 1 (128 + d.step)).onQueue q fun k => { k with watch := some line.line }).letGo n

/-- FIRMWARE_WATCHDOG: a packet that has run 2^20 cycles without a yield ends with 0x3C and its queue is faulted (R312). -/
def execFirmwareWatchdog (dc : Nat) (s : State) : Out :=
  if dc ≥ Config.dispatchCores then .fault .noSuchAgent
  else
    let d := s.dispatcher (dcId dc)
    match d.queue with
    | some q => if d.packet ≠ [] ∧ (s.vt - d.vt).toNat ≥ 2 ^ 20 then .next (s.faultQueue dc q Cause.watchdog) else .next s
    | none => .next s

/-- DISPATCH_SELF_CHECK: a dispatch core whose check fails leaves service; a packet it holds fails with 0x3D and its queue is
faulted (R312). -/
def execDispatchSelfCheck (dc : Nat) (ok : Bool) (s : State) : Out :=
  if dc ≥ Config.dispatchCores then .fault .noSuchAgent
  else if ok then .next s
  else
    let s1 := match (s.dispatcher (dcId dc)).queue with
      | some q => s.faultQueue dc q Cause.selfCheck
      | none => s
    .next (s1.onDispatch (dcId dc) fun d => { d with down := true })

/-! ### WRITE, SIGNAL and WAIT (R314, R315) -/

/-- The queue of a dispatch core whose packet stands at a step of a kind. -/
def State.atStep (s : State) (n kind : Nat) : Option Nat :=
  let d := s.dispatcher (dcId n)
  if d.packet = [] ∨ d.seqWait.isSome ∨ stepKind (d.packet.getD 0 0) d.step ≠ kind then none else d.queue

/-- Operand A of a short step. -/
def Dispatch.a (d : Dispatch) : Word := d.packet.getD (1 + 2 * d.step) 0
/-- Operand B of a short step. -/
def Dispatch.b (d : Dispatch) : Word := d.packet.getD (2 + 2 * d.step) 0

/-- A dispatch core's store on s0 reaches its home and settles: the step goes on, or the packet fails with the refusal's cause
(R314). -/
def State.dcSettle (s : State) (n q : Nat) : State :=
  let d := s.dispatcher (dcId n)
  match s.refusals.find? fun r => decide (r.1 = dcId n ∧ r.2.1 = 0 ∧ r.2.2.1 = BitVec.ofNat 24 d.ticket) with
  | some r => { s with refusals := s.refusals.filter fun x => x ≠ r }.failPacket n q r.2.2.2 0
  | none =>
    if s.stores.any fun x => decide (x.src = dcId n ∧ x.origin = 0 ∧ x.stream = 0 ∧ x.seq = BitVec.ofNat 24 d.ticket) then s
    else s.stepDone n q 0

/-- A dispatch core issues a store on s0, in its queue's context. -/
def State.dcIssue (s : State) (n q : Nat) (acc : AccOp) (op : StoreOp) (ta : Word) : State :=
  let d := s.dispatcher (dcId n)
  let ctx := shadowCtx d.shadow
  match s.hubReach ctx acc true ta op.length with
  | .error c => s.failPacket n q c 0
  | .ok (t, ps) =>
    if t.unsettled (dcId n) 0 0 ≥ 64 then s
    else (t.dcStore (dcId n) 0 none ctx op ta ps).onDispatch (dcId n) fun d =>
      { d with waiting := true, ticket := (t.dcNext (dcId n) 0).1.toNat }

/-- WRITE: `st` of B at A, 8-byte aligned, on s0; the step is done when the store has settled (R314). -/
def execWrite (dc : Nat) (s : State) : Out :=
  if dc ≥ Config.dispatchCores then .fault .noSuchAgent
  else match s.atStep dc 3 with
  | none => .next s
  | some q =>
    let d := s.dispatcher (dcId dc)
    if d.waiting then .next (s.dcSettle dc q)
    else if taOfs d.a % 8 ≠ 0 then .next (s.failPacket dc q Cause.sizeOrStride 0)
    else .next (s.dcIssue dc q .store (.bytes ((natBytes 8 d.b.toNat).map some)) d.a)

/-- SIGNAL: `cadd` of B to the counter at A on s0 (R158, R314). -/
def execSignal (dc : Nat) (s : State) : Out :=
  if dc ≥ Config.dispatchCores then .fault .noSuchAgent
  else match s.atStep dc 4 with
  | none => .next s
  | some q =>
    let d := s.dispatcher (dcId dc)
    if d.waiting then .next (s.dcSettle dc q)
    else .next (s.dcIssue dc q .cadd (.cadd d.b) d.a)

/-- WAIT: a package-scope CWAIT: once the counter suffices the datum has to pass the line stamp read then; where it falls short the packet
yields and watches its line (R159, R315). -/
def execWait (dc : Nat) (s : State) : Out :=
  if dc ≥ Config.dispatchCores then .fault .noSuchAgent
  else match s.atStep dc 5 with
  | none => .next s
  | some q =>
    let d := s.dispatcher (dcId dc)
    match d.passing with
    | some st => if s.datumPast (dcId dc) .pkg st then .next (s.stepDone dc q 0) else .next s
    | none => match s.hubReach (shadowCtx d.shadow) .crd true d.a 8 with
      | .error c => .next (s.failPacket dc q c 0)
      | .ok (t, ps) => match ps with
        | [p] =>
          if t.poisonedAt p then .next (t.failPacket dc q Cause.errorConsumed 0)
          else if t.natAt p 8 < d.b.toNat then .next (t.yieldPacket dc q p)
          else if t.datumPast (dcId dc) .pkg (t.lineStamp p) then .next (t.stepDone dc q 0)
          else .next (t.onDispatch (dcId dc) fun d => { d with passing := some (t.lineStamp p) })
        | _ => .next (t.failPacket dc q Cause.kindMismatch 0)

end Sys2Proof.Machine
end

