-- ==== Sys2Proof/Machine/Launch.lean ====
section
/-! DEFINITION. The packets LAUNCH, PREPARE, COPY, LAYOUT, TREE and READBACK (R314, R316 of spec/21), placing a kernel's cores
(R9, R287, R292, R294, R320, R360, R373). -/

namespace Sys2Proof.Machine

/-! ### COPY and LAYOUT (R314) -/

/-- A packet's command as an engine sees it: no kernel, no token; its number in place of a GTID. -/
def packetCmd (d : Dispatch) (n q : Nat) (op : CmdOp) (vt : BitVec 48) (a b : Word) (e : List Word) (recs : List Record) : Cmd :=
  { op := op, core := dcId n, sel := .task, gtid := BitVec.ofNat 64 d.ticket, kernel := 0, ctx := shadowCtx d.shadow, stream := 0,
    token := none, wait := .null, a := a, b := b, e := e, recs := recs, dealpat := 0, vt := vt, queue := some q }

/-- Gives a checked command to the layout engine beside its destination's home, when that has room; the packet waits. -/
def State.packetEnqueue (s : State) (n : Nat) (c : Cmd) (dest : Word) : State :=
  let r : EngineRef := .layout (s.layoutHome true c.core c.ctx dest)
  if !(s.engine r).room r then s
  else (s.setEngine r { s.engine r with queue := (s.engine r).queue ++ [c] }).onDispatch (dcId n) fun d => { d with waiting := true }

/-- A packet whose command has ended: its record carries the transfer witness's low dword, or its status as cause (R314,
R318). -/
def State.packetAnswered (s : State) (n q : Nat) : State :=
  match (s.dispatcher (dcId n)).answer with
  | none => s
  | some (c, r) => if c = 0 then s.stepDone n q r else s.failPacket n q c r

/-- COPY: CPY of d3 bytes from d1 to d2 by the layout engine beside the destination's home, on its s0 (R171, R314). -/
def execCopy (dc : Nat) (s : State) : Out :=
  if dc ≥ Config.dispatchCores then .fault .noSuchAgent
  else match s.atStep dc 6 with
  | none => .next s
  | some q =>
    let d := s.dispatcher (dcId dc)
    if d.waiting then .next (s.packetAnswered dc q)
    else
      let c := packetCmd d dc q .packetCopy s.vt (d.packet.getD 1 0) (d.packet.getD 2 0) [d.packet.getD 3 0] []
      match s.copyFault c with
      | some (x, _) => .next (s.failPacket dc q x 0)
      | none => .next (s.packetEnqueue dc c c.b)

/-- One dword of a record for a packet; an aperture of members in the package combines theirs (R162, R314). -/
def State.packetDword (s : State) (ctx : Nat) (op : Option Nat) (ta : Word) : Except Cause Nat :=
  match s.hubReach ctx .load true ta 8 with
  | .error c => .error (recordCause c)
  | .ok (_, ps) => if ps.any s.poisonedAt then .error Cause.errorConsumed else .ok (s.recordDword op ps)

/-- Reads a tensor record for a packet with TIDSET's checks (R128, R314). -/
def State.packetRecordAt (s : State) (ctx : Nat) (ta : Word) : Except Cause Record :=
  if taHandle ta = 0 then .error Cause.handleInvalid
  else match s.reach hubCore ctx .load false ta 96 with
  | .error c => .error (recordCause c)
  | .ok r =>
    if taOfs ta % 8 ≠ 0 then .error Cause.misaligned
    else
      let op := match r with | .aperture o _ _ => some o | _ => none
      match (List.range 12).mapM fun i => s.packetDword ctx op (mkTa (taHandle ta) (taOfs ta + 8 * i)) with
      | .error c => .error c
      | .ok l => match recordOf (l.flatMap (natBytes 8)) with
        | none => .error Cause.recordInvalid
        | some r => .ok r

/-- LAYOUT: LAY with the two records read as TIDSET reads them and d3 as the mapping word (R130, R314). -/
def execLayout (dc : Nat) (s : State) : Out :=
  if dc ≥ Config.dispatchCores then .fault .noSuchAgent
  else match s.atStep dc 7 with
  | none => .next s
  | some q =>
    let d := s.dispatcher (dcId dc)
    let ctx := shadowCtx d.shadow
    if d.waiting then .next (s.packetAnswered dc q)
    else match s.packetRecordAt ctx (d.packet.getD 1 0), s.packetRecordAt ctx (d.packet.getD 2 0) with
      | .error c, _ => .next (s.failPacket dc q c 0)
      | _, .error c => .next (s.failPacket dc q c 0)
      | .ok src, .ok dst =>
        let c := packetCmd d dc q .packetLayout s.vt (d.packet.getD 1 0) (d.packet.getD 2 0) [d.packet.getD 3 0] [src, dst]
        match s.layFault c 0 with
        | some (x, _) => .next (s.failPacket dc q x 0)
        | none => .next (s.packetEnqueue dc c dst.base)

/-! ### TREE and READBACK (R215, R216, R314) -/

/-- What an Ewetal read in a packet does: the source checked as R216 says, 1 to 2^20 bytes, delivered to a tree address of the
queue's context (R314). -/
def State.packetRead (s : State) (n q ctx : Nat) (src dst len : Word) : State :=
  match s.readable ctx src with
  | .error c => s.failPacket n q c 0
  | .ok () =>
    if len = 0 ∨ len.toNat > 2 ^ 20 then s.failPacket n q Cause.sizeOrStride 0
    else
      let put := fun (s : State) (k : Nat) (l : List Byte) => match offsetAdd dst k with
        | some a => s.hubWrite (dcWriter (dcId n) .data) ctx a l
        | none => .error Cause.offsetOverflow
      let x := deliver ctx put (2 ^ 14) s src 0 len.toNat
      if x.1.dataDue (dcId n) then
        x.1.onDispatch (dcId n) fun d => { d with waiting := true, answer := some (x.2.2, BitVec.ofNat 64 x.2.1) }
      else if x.2.2 = 0 then x.1.stepDone n q (BitVec.ofNat 64 x.2.1) else x.1.failPacket n q x.2.2 (BitVec.ofNat 64 x.2.1)

/-- A packet whose data are on their way to host memory: it ends when the last write has been acknowledged, with 0x36 where one is lost
(R143, R216, R318, R358). -/
def State.packetDelivered (s : State) (n q : Nat) : State :=
  match s.refusals.find? fun r => decide (r.1 = dcId n ∧ r.2.1 = 7) with
  | some r => { s with refusals := s.refusals.filter fun x => x ≠ r }.failPacket n q r.2.2.2 0
  | none => if s.dataDue (dcId n) then s else s.packetAnswered n q

/-- A tree operation that answers at once. -/
def State.packetTree (s : State) (n q : Nat) (argOk : Bool) (op : State → TreeOut) : State :=
  if !argOk then s.failPacket n q Cause.illegal 0
  else match op s with
    | .error (c, _) => s.failPacket n q c 0
    | .ok (t, x) => t.stepDone n q x

/-- A tree operation that may be under way for a while. -/
def State.packetLater (s : State) (n q : Nat) (argOk : Bool) (op : State → Later) : State :=
  if !argOk then s.failPacket n q Cause.illegal 0
  else match op s with
    | .fail c => s.failPacket n q c 0
    | .done t _ => t.stepDone n q 0
    | .underway t => t.onDispatch (dcId n) fun d => { d with waiting := true }

/-- TREE: an Ewetal request record without its reply address, in the queue's context (R215, R216, R314). -/
def execTree (dc : Nat) (s : State) : Out :=
  if dc ≥ Config.dispatchCores then .fault .noSuchAgent
  else match s.atStep dc 8 with
  | none => .next s
  | some q =>
    let d := s.dispatcher (dcId dc)
    let ctx := shadowCtx d.shadow
    let x := fun (i : Nat) => d.packet.getD i 0
    let arg := BitVec.ofNat 6 (bits (x 1) 8 6)
    let who : Waiter := .packet (dcId dc) d.ticket
    if d.waiting then .next (s.packetDelivered dc q)
    else if bits (x 1) 14 18 ≠ 0 then .next (s.failPacket dc q Cause.sizeOrStride 0)
    else match bits (x 1) 0 8 with
      | 0 => .next (s.packetTree dc q (decide (arg = 0)) (treeWalk hubCore ctx (x 2) (x 4) (x 5)))
      | 1 => .next (s.packetTree dc q (!arg.getLsbD 5)
          (treeOpen hubCore ctx (x 2) { read := arg.getLsbD 0, write := arg.getLsbD 1, shadow := arg.getLsbD 2 } (arg.getLsbD 3)
            (arg.getLsbD 4)))
      | 2 => .next (s.packetTree dc q (decide (arg = 0)) (treeBind hubCore ctx (x 2) (x 3) (x 4) (x 5)))
      | 3 => .next (s.packetTree dc q (decide (arg = 0)) (treeUnbind hubCore ctx (x 2) (x 4) (x 5)))
      | 4 => .next (s.packetLater dc q (decide (arg = 0)) (closeFor ctx (x 2) who))
      | 5 => .next (s.packetTree dc q (decide (arg = 0)) (treeStat hubCore ctx (x 2)))
      | 6 => .next (s.packetTree dc q (decide (arg.toNat ≤ 8)) (mkobjFor ctx arg.toNat (x 2) (x 4) (x 5) (x 6) (x 7)))
      | 7 => .next (s.packetLater dc q (decide (arg = 0)) (revokeFor ctx (x 3) who))
      | 8 => if arg ≠ 0 then .next (s.failPacket dc q Cause.illegal 0) else .next (s.packetRead dc q ctx (x 2) (x 7) (x 6))
      | 9 => .next (s.packetLater dc q (decide (arg = 0)) (publishFor ctx (x 2) false who))
      | 10 => .next (s.packetLater dc q (decide (arg = 0)) (publishFor ctx (x 2) true who))
      | _ => .next (s.failPacket dc q Cause.illegal 0)

/-- READBACK: the Ewetal read of d3 bytes from d1 to d2; RESULT counts the bytes delivered (R216, R314). -/
def execReadback (dc : Nat) (s : State) : Out :=
  if dc ≥ Config.dispatchCores then .fault .noSuchAgent
  else match s.atStep dc 9 with
  | none => .next s
  | some q =>
    let d := s.dispatcher (dcId dc)
    if d.waiting then .next (s.packetDelivered dc q)
    else .next (s.packetRead dc q (shadowCtx d.shadow) (d.packet.getD 1 0) (d.packet.getD 2 0) (d.packet.getD 3 0))

/-! ### PREPARE (R314) -/

/-- The place of 4 KiB chunk i of an object's contents, written there. -/
def State.putChunks (s : State) (node : Nat) (l : List Byte) : State :=
  (List.range ((l.length + 4095) / 4096)).foldl (fun s i => match s.placeOf node (4096 * i) with
    | some p => s.putAt p (((l.drop (4096 * i)).take 4096).map some)
    | none => s) s

/-- Binds a program object: a memory object that holds the image, read its only right, staged in the code store. -/
def State.bindProgram (s : State) (ctx : Nat) (dir c0 c1 : Word) (header image : List Byte) : Except Cause State :=
  match s.modifiable hubCore ctx dir with
  | .error (c, _) => .error c
  | .ok (n, nd, es) =>
    if !componentOk c0 c1 then .error Cause.nameNotFound
    else if es.any fun e => e.name = componentOf c0 c1 then .error Cause.nameExists
    else
      let c := s.context ctx
      let mk : Making := .object (max 1 image.length) 0 { read := true, write := false, shadow := false }
      if !s.entryRoom nd es || decide (c.nodes + 1 > c.maxNodes) || !s.room ctx mk.bytes then .error Cause.quota
      else
        match s.make hubCore ctx .mem mk with
        | none => .error Cause.quota
        | some r =>
          let s1 := r.1.putChunks r.2.1 image
          .ok ({ s1 with programs := tabPut s1.programs r.2.1 { header := header, image := image } }.enter n nd es
            (componentOf c0 c1) (.own r.2.1) r.2.2)

/-- PREPARE: header and image are read and checked as a launch checks them (0x01), and bound as a program object (R25, R26,
R314). -/
def execPrepare (dc : Nat) (s : State) : Out :=
  if dc ≥ Config.dispatchCores then .fault .noSuchAgent
  else match s.atStep dc 2 with
  | none => .next s
  | some q =>
    let d := s.dispatcher (dcId dc)
    let ctx := shadowCtx d.shadow
    let x := fun (i : Nat) => d.packet.getD i 0
    if x 6 ≠ 0 ∨ x 7 ≠ 0 then .next (s.failPacket dc q Cause.sizeOrStride 0)
    else match s.hubRead ctx (x 1) (x 2).toNat with
      | .error c => .next (s.failPacket dc q c 0)
      | .ok l =>
        let h := parseHeader l
        let n := headerBytes h.nchan h.nregion h.nstage h.npatch
        let image := (l.drop n).take h.imageLen
        if l.length < n + h.imageLen ∨ headerBroken h image then .next (s.failPacket dc q Cause.illegal 0)
        else match s.bindProgram ctx (x 5) (x 3) (x 4) (l.take n) image with
          | .error c => .next (s.failPacket dc q c 0)
          | .ok t => .next (t.stepDone dc q 0)

/-! ### Placing a kernel (R9, R292, R294, R316, R320, R360, R363, R373) -/

/-- Whether a core is in service with the features asked: STATE 0, no reserved bit, FEAT covering (R294). -/
def State.serviceable (s : State) (feat : BitVec 3) (core : Nat) : Bool :=
  let e := s.mapEntry core
  decide (bits e 0 4 = 0 ∧ bits e 8 8 = 0) && decide (feat &&& ~~~(BitVec.ofNat 3 (bits e 5 3)) = 0)

/-- Whether a launch may take a core now (R69, R94, R107, R179, R294, R320). -/
def State.freeFor (s : State) (vf ctx : Nat) (feat : BitVec 3) (core : Nat) : Bool :=
  s.openSector vf (coreSector core) && s.serviceable feat core && decide (bits (s.mapEntry core) 4 1 = 0) &&
    (s.coreOf core).alloc.isNone && s.accepts core && (s.coreOf core).passable vf ctx && decide ((s.coreOf core).log.length < 256)

/-- The cores of an aligned block, row by row. -/
def blockCores (base w h : Nat) : List Nat := (List.range (w * h)).map fun i => base + 32 * (i / w) + i % w

/-- The bases of the aligned W × H blocks of a function's open sectors (R9). -/
def State.blockBases (s : State) (vf w h : Nat) : List Nat :=
  (List.range Config.cores).filter fun c => s.openSector vf (coreSector c) && decide (coreX c % w = 0 ∧ coreY c % h = 0)

/-- How placing stands: refused, waiting for a kernel end, placed as the dispatch core chose, or that choice is not one. -/
inductive Placing where
  | refused (c : Cause)
  | wait
  | found
  | none
  deriving DecidableEq, Repr

/-- Whether n more cores would take a function with CMODE 1 beyond its NCORES (R360). -/
def State.crowded (s : State) (vf n : Nat) : Bool := decide (vf < 16 ∧ s.vfField vf 1 1 = 1 ∧ s.coresHeld vf + n > s.coreQuota vf)

/-- Judges a choice of cores for n tasks, or a W × H rectangle (R9, R316). -/
def State.placing (s : State) (vf ctx : Nat) (feat : BitVec 3) (rect : Option (Nat × Nat)) (n : Nat) (chosen : List Nat) : Placing :=
  let quota := s.coreQuota vf
  let tooMany := s.crowded vf n
  if !s.functionOn vf ∨ n > quota then .refused Cause.queueLimit
  else match rect with
    | some (w, h) =>
      let bases := s.blockBases vf w h
      if !(bases.any fun b => (blockCores b w h).all (s.serviceable feat)) then .refused Cause.groupInvalid
      else if !tooMany && (bases.any fun b => decide (chosen = blockCores b w h)) && chosen.all (s.freeFor vf ctx feat) then .found
      else if tooMany || !(bases.any fun b => (blockCores b w h).all (s.freeFor vf ctx feat)) then .wait
      else .none
    | none =>
      if !tooMany && decide (chosen.length = n) && decide (chosen.eraseDups = chosen) && chosen.all (fun c => decide (c < Config.cores)) &&
          chosen.all (s.freeFor vf ctx feat) then .found
      else if tooMany || decide (((List.range Config.cores).filter (s.freeFor vf ctx feat)).length < n) then .wait
      else .none

/-- What a launch starts from (R316). -/
structure Plan316 where
  program : Nat
  header : Header
  image : List Byte
  params : List Word
  rect : Option (Nat × Nat)
  count : Nat
  deriving DecidableEq, Repr

/-- The program object d1 names (0x26), made by PREPARE and readable (R316). -/
def State.programAt (s : State) (ctx : Nat) (ta : Word) : Except Cause (Nat × Program) :=
  match s.handleOf hubCore ctx (taHandle ta) with
  | .ok h => match h.node with
    | .own n => match tabGet s.programs n with
      | some p => if h.rights.read then .ok (n, p) else .error Cause.kindMismatch
      | none => .error Cause.kindMismatch
    | .remote _ _ => .error Cause.kindMismatch
  | .error _ => .error Cause.kindMismatch

/-! ### Parameter paths (R28, R202, R203; log entry 78) -/

/-- The first free index from one on. -/
def Context.freeFrom (c : Context) (i : Nat) : Option Nat :=
  (List.range (c.handles.length + 1)).findSome? fun j =>
    if (tabGet c.handles (i + j)).isNone ∧ i + j < 0xFFF0 then some (i + j) else none

/-- One component of a path walked: the node and the ceiling of its binding (R202, R206). -/
def State.pathStep (s : State) (x : NodeRef × Rights) (name : Word128) : Except Cause (State × NodeRef × Rights) :=
  let peer (dev : Nat) : Except Cause (State × NodeRef × Rights) :=
    let f := s.fresh
    match Config.peerAnswer s.tick with
    | none => .error Cause.peerRefused
    | some w => .ok ({ f.2 with remotes := tabPut f.2.remotes (dev * 2 ^ 32 + bits w 0 32) (kindOfCode (bits w 32 4), bits (Config.peerWord s.tick) 0 48) },
        .remote dev (bits w 0 32), rightsOf (bits w 36 3))
  if !x.2.read then .error Cause.rights
  else if !componentOk (name.truncate 64) ((name >>> 64).truncate 64) then .error Cause.nameNotFound
  else match x.1 with
    | .remote dev n => if s.kindOf (.remote dev n) = some .dir ∨ s.kindOf (.remote dev n) = some .mount then peer dev else .error Cause.kindMismatch
    | .own n => match s.node n with
      | some { body := .mount dev _, .. } => peer dev
      | some { body := .dir es, .. } => match es.find? fun e => e.name = name with
        | none => .error Cause.nameNotFound
        | some e => .ok (s, e.node, e.ceiling)
      | _ => .error Cause.kindMismatch

/-- A path walked from a directory on. -/
def State.path (s : State) (x : NodeRef × Rights) : List Word128 → Except Cause (State × NodeRef × Rights)
  | [] => .ok (s, x)
  | c :: l => match s.pathStep x c with
    | .error e => .error e
    | .ok (t, y) => t.path y l

/-- The handle of a launch parameter path: read, and write where the node is writable to the context; its CEILING has shadow besides for a
writable memory object (R202). -/
def State.pathHandle (s : State) (r : NodeRef) (ceiling : Rights) : Handle :=
  newHandle r { read := true, write := ceiling.write, shadow := false }
    { read := true, write := ceiling.write, shadow := ceiling.write && decide (s.kindOf r = some .mem) } true none

/-- Inserts a path in parameter order. -/
def insertPath (p : Nat × List Word128) : List (Nat × List Word128) → List (Nat × List Word128)
  | [] => [p]
  | q :: l => if p.1 ≤ q.1 then p :: q :: l else q :: insertPath p l

/-- Opens paths in their order, at the lowest free indices from 0x0011, and answers the dword each one's tree address
replaces (R28, R203). -/
def State.openPaths (s : State) (ctx : Nat) : List (Nat × List Word128) → Except Cause (State × List (Nat × Nat))
  | [] => .ok (s, [])
  | p :: l => match s.path (.own (s.context ctx).root, { read := true, write := true, shadow := false }) p.2 with
    | .error e => .error e
    | .ok (t, r, ceiling) =>
      if !ceiling.read then .error Cause.rights
      else match (t.context ctx).freeFrom 0x11 with
        | none => .error Cause.quota
        | some i =>
          match (t.onContext ctx fun c => { c with handles := tabPut c.handles i (t.pathHandle r ceiling) }).openPaths ctx l with
          | .error e => .error e
          | .ok (u, m) => .ok (u, (p.1, i) :: m)

/-- The floor a launch sets: 0x0015, or one above the highest index it opened (R203). -/
def pathFloor (m : List (Nat × Nat)) : Nat := (m.map fun x => x.2 + 1).foldl max 0x15

/-- A launch's paths opened in parameter order and the floor set; where it names none, only the floor is (R203). -/
def State.withPaths (s : State) (ctx : Nat) (paths : List (Nat × List Word128)) : Except Cause (State × List (Nat × Nat)) :=
  match s.openPaths ctx (paths.foldr insertPath []) with
  | .error e => .error e
  | .ok (t, m) => .ok (t.onContext ctx (fun c => { c with floor := pathFloor m }), m)

/-- Parameter dwords with the tree addresses of the paths in their places (R28). -/
def replaced (params : List Word) (m : List (Nat × Nat)) : List Word := m.foldl (fun l x => l.set x.1 (mkTa x.2 0)) params

/-- The parameter block: zeros where d2 is 0 (R314). -/
def State.paramsAt (s : State) (ctx : Nat) (ta : Word) : Except Cause (List Word) :=
  if ta = 0 then .ok (List.replicate 8 0)
  else match s.hubRead ctx ta 64 with
    | .error c => .error c
    | .ok l => .ok ((List.range 8).map (dwordOf l))

/-- The checks of a LAUNCH that ask for no core (R9, R25, R26, R219, R314). -/
def State.plan316 (s : State) (ctx : Nat) (x : Nat → Word) (paths : List (Nat × Nat)) : Except Cause Plan316 :=
  match s.programAt ctx (x 1) with
  | .error c => .error c
  | .ok (n, p) =>
    let h := parseHeader p.header
    if bits (x 3) 13 51 ≠ 0 ∨ x 7 ≠ 0 then .error Cause.sizeOrStride
    else match (s.paramsAt ctx (x 2)).map fun l => replaced l paths with
      | .error c => .error c
      | .ok params =>
        let rect := h.rect params
        if rect.isNone ∧ (bits (x 3) 0 13 = 0 ∨ bits (x 3) 0 13 > 4096) then .error Cause.sizeOrStride
        else if headerBroken h p.image then .error Cause.illegal
        else match patchImage p.image params h.patches with
          | none => .error Cause.illegal
          | some image =>
            if partitionBroken h then .error Cause.partitionWord
            else match rect with
              | some (w, ht) =>
                if (sideLog w).isNone ∨ (sideLog ht).isNone then .error Cause.groupInvalid
                else .ok { program := n, header := h, image := image, params := params, rect := rect, count := w * ht }
              | none => .ok { program := n, header := h, image := image, params := params, rect := none, count := bits (x 3) 0 13 }

/-- The stage the i-th of an allocation's cores in rising order is dealt to, stage 0 where the header declares none (R287; log entry 49). -/
def Header.stageOf (h : Header) (i : Nat) : Nat :=
  let order := sortNat (h.stages.map (·.stage))
  order.getD (i % order.length) 0

/-- Prepares a core for a kernel and sets its ALLOC and service-log entry (R294, R316, R320). -/
def State.allocCore (s : State) (p : Plan316) (k vf queue index stage core : Nat) : State :=
  let s1 := s.onCore core fun c =>
    { c.prepare p.header p.image k vf (s.kernelRec k).ctx stage p.program with
      log := c.log ++ [{ kernel := k, queue := queue, index := index, allocVt := s.vt, release := none, m := false }] }
  s1.setMapEntry core (s1.mapEntry core ||| mapAlloc)

/-- A dispatch core prepared for a firmware task: no engine, no feature, no channel (R292). -/
def State.allocDispatch (s : State) (p : Plan316) (k : Nat) (core : Nat) : State :=
  s.onCore core fun c =>
    { c.prepare p.header p.image k pfFunction (s.kernelRec k).ctx 0 p.program with feat := 0, hw := 0, chans := Vector.replicate 16 .reset }

/-- Starts the task of one core: a GTID, its RECT, its registers (R8, R9, R279). -/
def State.startOn (s : State) (p : Plan316) (k ctx : Nat) (priv : Bool) (blk : Option (Nat × Nat × Nat)) (core : Nat) : State × Word :=
  let r := s.newGtid
  (r.1.startTask core r.2 (BitVec.ofNat 64 p.header.entry) p.params k ctx priv (match blk with
    | some b => rectWord core b
    | none => 0), r.2)

/-- Starts every task; answers the first GTID and the members (R316). -/
def State.startAll (s : State) (p : Plan316) (k ctx : Nat) (priv : Bool) (blk : Option (Nat × Nat × Nat)) : List Nat → State × List Word
  | [] => (s, [])
  | c :: l =>
    let r := s.startOn p k ctx priv blk c
    let t := r.1.startAll p k ctx priv blk l
    (t.1, r.2 :: t.2)

/-- The kernel's record in the hub (R279, R314, R318). -/
def kernelRecord (d : Dispatch) (q vf : Nat) (priv : Bool) (p : Plan316) (cores : List Nat) (vt : BitVec 48) : Kernel :=
  let h := d.packet.getD 0 0
  { queue := q, index := d.index, tag := BitVec.ofNat 16 (bits h 32 16), seq := BitVec.ofNat 16 (bits h 48 16),
    ctx := shadowCtx d.shadow, vf := vf, priv := priv, program := p.program, entry := BitVec.ofNat 32 p.header.entry,
    featreq := BitVec.ofNat 3 p.header.featreq, partw := p.header.partw, cores := cores, params := p.params,
    d4 := d.packet.getD 4 0, d5 := d.packet.getD 5 0, d6 := d.packet.getD 6 0, firstGtid := 0, vtStart := vt, vtEnd := 0,
    state := .running, cause := 0, record := recordAt d.cr (shadowSize d.shadow) d.index,
    stages := if p.header.pipeline then p.header.stages.length else 0, nextGroup := 1,
    reporter := none, leaving := [], counts := false, dumps := none }

/-- Lays out and starts a kernel on the chosen cores (R316 steps 3 and 4). Where the program object has an uncorrectable error in what is
loaded, the lines it fills have it too, and the kernel is killed with 0x2F (R329). -/
def State.startKernel (s : State) (n q vf : Nat) (p : Plan316) (cores : List Nat) : State :=
  let d := s.dispatcher (dcId n)
  let k := s.nextKernel
  let priv := decide (vf = pfFunction)
  let rec0 := kernelRecord d q vf priv p cores s.vt
  let sorted := sortNat cores
  let dcTask := cores.any isDispatch
  let s0 : State := { s with nextKernel := k + 1, kernels := tabPut s.kernels k rec0 }
  let s1 := if dcTask then cores.foldl (fun s c => s.allocDispatch p k c) s0
    else sorted.zipIdx.foldl (fun s x => s.allocCore p k vf q d.index (if p.header.pipeline then p.header.stageOf x.2 else 0) x.1) s0
  let qs := if p.header.pipeline then p.header.stages.map fun x =>
      ({ kernel := k, stage := x.stage, depth := x.depth, mask := BitVec.ofNat 16 x.mask, msgs := [], pick := none } : StageQueue) else []
  let blk := p.rect.map fun r => (cores.headD 0, (sideLog r.1).getD 0, (sideLog r.2).getD 0)
  let r := ({ s1 with stages := s1.stages ++ qs }).startAll p k rec0.ctx priv blk (if p.rect.isSome then cores else sorted)
  let g : List Group := match blk with
    | some b => [{ kernel := k, id := 0, rect := some b,
                   members := (cores.zip r.2).map fun x => (x.1, SlotSel.task, x.2, 0), generation := 0, arrivals := [], broken := false }]
    | none => []
  let t : State := { r.1 with
    groups := r.1.groups ++ g
    kernels := tabPut r.1.kernels k { rec0 with firstGtid := r.2.headD 0 } }
  match s.imageFlaws p.program p.header with
  | [] => t
  | l => (cores.foldl (fun s c => s.onCore c fun k => { k with poison := k.poison ++ l }) t).mustKill k Cause.errorConsumed

/-- Why a dispatch core refuses a kernel (R292). -/
def firmwareFault (p : Plan316) : Option Cause :=
  if p.header.featreq ≠ 0 then some Cause.featureAbsent
  else if p.rect.isSome then some Cause.groupInvalid
  else if p.header.nchan ≠ 0 then some Cause.channelInvalid
  else none

/-- A checked launch is placed on the cores the dispatch core chose, or refused, or yields while too few are free (R9, R316); on one dispatch
core it starts where that holds no task (R292). -/
def State.launch (s t : State) (dc q vf : Nat) (p : Plan316) (cores : List Nat) : State :=
  let firmware := match cores with
    | [c] => if isDispatch c ∧ vf = pfFunction ∧ (p.count = 1 ∨ p.rect.isSome) then some c else none
    | _ => none
  match firmware with
  | some c => match firmwareFault p with
    | some x => s.failPacket dc q x 0
    | none => if s.idleDc (c - dcId 0) then (t.startKernel dc q vf p cores).passPacket dc q else s
  | none => match s.placing vf (shadowCtx (s.dispatcher (dcId dc)).shadow) (BitVec.ofNat 3 p.header.featreq) p.rect p.count cores with
    | .refused x => s.failPacket dc q x 0
    | .wait => s.yieldPacket dc q (.hbm (objectBase 2 + 0x100))
    | .found => (t.startKernel dc q vf p cores).passPacket dc q
    | .none => s

/-- LAUNCH: its parameter paths opened, resolved, checked and placed on the cores the dispatch core chose (R9, R28,
R202, R203, R316; log entries 32 and 78). FEATREQ's bits above 2 are not looked at on a compute core (log entry 49). The packet ends once
every task has started. -/
def execLaunch (dc : Nat) (choice : LaunchChoice) (s : State) : Out :=
  if dc ≥ Config.dispatchCores then .fault .noSuchAgent
  else match s.atStep dc 1 with
  | none => .next s
  | some q =>
    let d := s.dispatcher (dcId dc)
    let ctx := shadowCtx d.shadow
    match s.withPaths ctx choice.paths with
    | .error c => .next (s.failPacket dc q c 0)
    | .ok (t, m) => match s.plan316 ctx (fun i => d.packet.getD i 0) m with
      | .error c => .next (s.failPacket dc q c 0)
      | .ok p => .next (s.launch t dc q (shadowVf d.shadow) p choice.cores)

end Sys2Proof.Machine
end

