-- ==== Sys2Proof/Machine/Dump.lean ====
section
/-! DEFINITION. Dumps of halted tasks: their parts and how they are written (R337, R338 of spec/23_debug_and_trace.md). -/

namespace Sys2Proof.Machine

/-- A slot of a core put in focus to be read; the core need not be one of the package's, a saved image is one too. -/
def State.reading (s : State) (c : Core) (sel : SlotSel) : State := { s with core := c, sel := sel }

/-- The control registers 0x001 to 0x00F of the slot in focus (R42, R337). -/
def State.dumpControls (s : State) : List Word :=
  (List.range 15).map fun i => match ctlOf (BitVec.ofNat 9 (i + 1)) with
    | some r => s.ctlValue r
    | none => 0

/-- Which witness registers are pending, one bit each. -/
def Slot.pendingMask (t : Slot) : Nat :=
  ((List.finRange 16).map fun i => if (t.w[i]).isPending then 2 ^ i.val else 0).foldl (· + ·) 0

/-- The dword after the control registers: pending witnesses, INH and SKIP (R337). -/
def Slot.dumpMask (t : Slot) : Word :=
  BitVec.ofNat 64 (t.pendingMask + (if t.inh then 2 ^ 16 else 0) + (if t.tcause.getLsbD 8 then 2 ^ 17 else 0))

/-- The scalar context (R337). -/
def State.dumpScalar (s : State) : List Byte :=
  dwordBytes (s.slot.g.toList.drop 1 ++ s.slot.e.toList ++ s.dumpControls ++ [s.slot.dumpMask, 0])

/-- The witnesses; a pending one is written as zero (log entry 51). -/
def Slot.dumpWitnesses (t : Slot) : List Byte :=
  t.w.toList.flatMap fun x => match x with
    | .val v => natBytes 16 v.toNat
    | .pending _ _ => natBytes 16 0

/-- The vector registers. -/
def Core.dumpVector (c : Core) : List Byte := c.v.toList.flatMap fun r => r.toList.flatMap fun x => natBytes 4 x.toNat

/-- The masks and the matrix descriptors. -/
def Core.dumpMasks (c : Core) : List Byte := dwordBytes (c.k.toList ++ c.mshape.toList ++ c.accd.toList)

/-- The seven parts of a dump, in order (R337): those of the engines and the pool are empty for a dispatch core and for an
activation beside a resident task. -/
def State.dumpParts (s : State) : List (List Byte) :=
  let c := s.core
  let whole := !(isDispatch c.id || s.actBesideTask)
  let part := fun (l : List Byte) => if whole then l else []
  [ s.dumpScalar, s.slot.dumpWitnesses, part c.dumpVector, part c.dumpMasks,
    part (memBytes c.sram c.tileBase (tileGranules c.partw * 16384)),
    part (memBytes c.sram c.accBase (accGranules c.partw * 16384)),
    part (memBytes c.sram 0 (scratchGranules c.partw * 16384)) ]

/-- How writing a body ended. -/
structure DumpBody where
  state : State
  bytes : Nat
  fault : Option Cause

/-- Writes a body a line at a time, `base` bytes past a tree address, until a write faults or is refused (R338, R342). -/
def writeBody (w : HubSource) (ctx : Nat) (ta : Word) (base : Nat) (l : List Byte) : List (Nat × Nat) → State → Nat → DumpBody
  | [], s, n => { state := s, bytes := n, fault := none }
  | (k, m) :: r, s, n => match offsetAdd ta (base + k) with
    | none => { state := s, bytes := n, fault := some Cause.offsetOverflow }
    | some a => match s.hubReach ctx .store false a m with
      | .error c => { state := s, bytes := n, fault := some c }
      | .ok (t, ps) => match t.applyAll w ctx (.bytes (((l.drop k).take m).map some)) a ps with
        | .error c => { state := t, bytes := n, fault := some c }
        | .ok u => writeBody w ctx ta base l r u (n + m)

/-- Core identifier with DC in bit 12, as in dword 1 of a stop record (R336). -/
def dumpCore (id : Nat) : Nat := if isDispatch id then 4096 + (id - 0x1118) else id % 4096

/-- The 128 bytes of a dump's header, with the first body byte a write faulted at and the cause (R338). -/
def DumpJob.headerBytes (j : DumpJob) (fault : Option (Nat × Cause)) : List Byte :=
  let body := j.parts.foldl (· + ·) 0
  let written := (fault.map (·.1)).getD j.room
  natBytes 2 1 ++ natBytes 1 j.cause.toNat ++ natBytes 1 ((if fault.isNone ∧ j.room < body then 1 else 0) + (if j.act then 2 else 0)) ++
    natBytes 1 (if fault.isSome then 0x3A else 0) ++ natBytes 1 ((fault.map (·.2.toNat)).getD 0) ++ natBytes 2 (dumpCore j.core) ++
    natBytes 8 (bits j.gtid 0 40) ++ natBytes 8 j.vt.toNat ++ natBytes 8 j.tpc.toNat ++
    natBytes 8 (128 + body) ++ natBytes 8 written ++ natBytes 8 (if fault.isSome then 128 + written else 0) ++
    j.parts.flatMap (natBytes 4) ++ natBytes 44 0

/-- Where each dword of a header goes, dword 0 last. -/
def headerDwords (ta : Word) (l : List Byte) : List (Word × Word) :=
  ((List.range 15).map fun i => (ta + BitVec.ofNat 64 (8 * (i + 1)), dwordOf l (i + 1))) ++ [(ta, dwordOf l 0)]

/-- Begins a dump of a slot of a core in a buffer of `len` bytes: dispatch core dc writes its body. One of less than 128 bytes has no
header (R338). -/
def State.beginDump (s : State) (dc ctx : Nat) (ta : Word) (len : Nat) (cause : Cause) (vt : BitVec 48) (c : Core) (sel : SlotSel) :
    State × DumpJob :=
  let r := s.reading c sel
  let body := r.dumpParts.flatten
  let small := decide (len < 128)
  let j : DumpJob := { id := s.fresh.1, ctx := ctx, ta := ta, cause := cause, core := c.id, act := sel == .act, gtid := r.slot.gtid, vt := vt,
                       tpc := r.slot.pc, parts := r.dumpParts.map (·.length), room := min body.length (len - 128), fault := none,
                       header := small, ended := small, failed := small }
  if small then (s.fresh.2, j)
  else
    let w := writeBody (dcWriter dc (.dump j.id false)) ctx ta 128 body (cutLines (j.room / 64 + 2) (taOfs ta + 128) 0 j.room) s.fresh.2 0
    (w.state, { j with fault := w.fault.map fun c => (w.bytes, c) })

/-- The first body byte of a dump that has not been written because a write faulted or was refused, and the cause (R338). -/
def State.dumpFault (s : State) (j : DumpJob) : Option (Nat × Cause) :=
  let l := j.fault.toList ++ s.dumpFaults.filterMap fun f =>
    if f.1 = j.id ∧ f.2.1 = false then some (f.2.2.1 - (taOfs j.ta + 128), f.2.2.2) else none
  l.foldl (fun a b => match a with
    | none => some b
    | some x => some (if b.1 < x.1 then b else x)) none

/-- The header of a dump is written once every body store has settled (R338). -/
def State.dumpHeader (s : State) (dc : Nat) (j : DumpJob) : State × DumpJob :=
  if j.header ∨ s.hubDue (.dump j.id false) then (s, j)
  else match s.recordPut (dcWriter dc (.dump j.id true)) j.ctx (headerDwords j.ta (j.headerBytes (s.dumpFault j))) with
    | .ok t => (t, { j with header := true })
    | .error _ => (s, { j with header := true, ended := true, failed := true })

/-- A dump whose header has been issued is over once that has settled; it has no header where a header store was refused (R338). -/
def State.dumpEnd (s : State) (j : DumpJob) : State × DumpJob :=
  if j.ended ∨ !j.header ∨ s.hubDue (.dump j.id true) then (s, j)
  else
    ({ s with dumpFaults := s.dumpFaults.filter fun f => f.1 ≠ j.id },
      { j with ended := true, failed := s.dumpFaults.any fun f => decide (f.1 = j.id ∧ f.2.1 = true) })

/-- A dump goes on as far as what it has written has settled. -/
def State.dumpOn (s : State) (dc : Nat) (j : DumpJob) : State × DumpJob :=
  let r := s.dumpHeader dc j
  r.1.dumpEnd r.2

/-- Bytes from a tree address to the end of its object, as a context sees it: a window is as long as the pools it shows, and a peer's node
as it told when it was walked (R199, R206, R223, R337). -/
def State.bytesToEnd (s : State) (ctx : Nat) (ta : Word) : Nat :=
  match s.handleOf hubCore ctx (taHandle ta) with
  | .ok h => match h.node with
    | .own n => match s.node n with
      | some nd => (match nd.body with
          | .epwin _ w ht => w * ht * 524288
          | _ => s.sizeOf hubCore n h nd) - taOfs ta
      | none => 0
    | .remote dev n => ((tabGet s.remotes (dev * 2 ^ 32 + n)).map (·.2)).getD 0 - taOfs ta
  | .error _ => 0

end Sys2Proof.Machine
end

