-- ==== Sys2Proof/Machine/Kernels.lean ====
section
/-! DEFINITION. The end of kernels: complete, confirmed or killed (R69, R246, R249, R294, R318, R320 to R325), serving trap
records (R269, R270) and the end of a time slice (R363). -/

namespace Sys2Proof.Machine

/-! ### What a kernel still has in the package -/

/-- The slots that hold a task or an activation of a kernel. -/
def State.slotsOf (s : State) (k : Nat) : List (Nat × SlotSel) :=
  s.allCores.flatMap fun c =>
    (if c.task.run ≠ .free ∧ c.task.kernel = k then [(c.id, SlotSel.task)] else []) ++
      (if c.act.run ≠ .free ∧ c.act.kernel = k then [(c.id, SlotSel.act)] else [])

/-- The cores of the package that belong to a kernel's allocation (R279). -/
def State.allocated (s : State) (k : Nat) : List Core :=
  s.allCores.filter fun c => match c.alloc with
    | some a => decide (a.kernel = k)
    | none => false

/-- Whether a message is a spawn of a kernel. -/
def Msg.spawns (m : Msg) (k : Nat) : Bool :=
  decide (m.kernel = k) && match m.body with
    | .spawn _ _ _ _ => true
    | _ => false

/-- Whether an engine holds a command of a kernel, begun or not. -/
def Engine.serves (e : Engine) (k : Nat) : Bool :=
  e.queue.any (fun c => c.kernel = k) || e.running.any (fun a => a.cmd.kernel = k) || e.settling.any fun a => a.cmd.kernel = k

/-- Whether the traffic of R69 has finished: stores settled, copies and layout commands complete. -/
def State.quiet (s : State) (k : Nat) : Bool :=
  !(s.stores.any fun x => decide (x.kernel = k)) && !(s.allCores.any fun c => c.copy.serves k) && !(s.layouts.any fun e => e.2.serves k)

/-- Whether a channel holds back completion: HOLD 0 with a message or READY (R246). -/
def Channel.busy (h : Channel) : Bool := h.valid && !h.hold && (h.ready || !h.msgs.isEmpty)

/-- Whether a kernel is to be reported complete (R246); a stage's queued messages do not hold it back (log entry 52). -/
def State.finished (s : State) (k : Nat) : Bool :=
  decide (s.slotsOf k = []) && !(s.saved.any fun x => decide (x.slot.kernel = k)) && !(s.msgs.any fun m => m.spawns k) &&
    (s.allocated k).all (fun c => c.chans.toList.all fun h => !h.busy) && s.quiet k

/-! ### Giving cores back and writing records (R249, R294, R318, R320) -/

/-- A core that leaves its kernel's allocation: its channels are invalid and its rings' messages discarded. Its log entry takes the
release VT as ALLOC is cleared (R320). -/
def Core.leaveKernel (c : Core) : Core :=
  { c.clearEngines with
    task := if c.task.run = .free then c.task.fresh else c.task
    matrix := [], mrun := false, vector := [], tids := [], chans := Vector.replicate 16 .reset, regions := [], ovld := none
    detected := [], alloc := none, heldBefore := none }

/-- Changes a kernel's record in the hub. -/
def State.onKernel (s : State) (k : Nat) (f : Kernel → Kernel) : State :=
  match tabGet s.kernels k with
  | some K => { s with kernels := tabPut s.kernels k (f K) }
  | none => s

/-- The dispatch core that reports a kernel: the lowest-numbered one in service that holds no firmware task (log entry 79). -/
def State.reporter (s : State) : Nat :=
  dcId (((List.range Config.dispatchCores).find? fun n => !(s.dispatcher (dcId n)).down && !s.holdsTask n).getD 0)

/-- A dispatch core clears ALLOC of cores by AAND on its stream s0, as far as that has room; answers the cores that are left (R140, R294). -/
def State.clearAllocs (s : State) (dc : Nat) : List Nat → State × List Nat
  | [] => (s, [])
  | c :: l =>
    if s.unsettled dc 0 0 ≥ 64 then (s, c :: l)
    else (s.dcStore dc 0 none pfContext (.atomic .and true (~~~mapAlloc) 0) 0 [.hbm (objectBase 0 + 8 * c)]).clearAllocs dc l

/-- The dispatch core that reports a kernel goes on giving its cores back, then counts a kernel end, all on its s0 (R294). -/
def State.giveOn (s : State) (k : Nat) : State :=
  match tabGet s.kernels k with
  | none => s
  | some K => match K.reporter with
    | none => s
    | some dc =>
      let r := s.clearAllocs dc K.leaving
      if r.2 = [] ∧ K.counts = false then r.1.onKernel k fun K => { K with leaving := [], reporter := none }
      else if r.2 = [] ∧ r.1.unsettled dc 0 0 < 64 then
        (r.1.dcStore dc 0 none pfContext (.cadd 1) 0 [.hbm (objectBase 2 + 0x100)]).onKernel k
          fun K => { K with leaving := [], counts := false, reporter := none }
      else r.1.onKernel k fun K => { K with leaving := r.2 }

/-- Cores leave a kernel, and a dispatch core begins to give them back; `last`: it counts a kernel end then (R294). -/
def State.giveBack (s : State) (k : Nat) (cores : List Nat) (last : Bool) : State :=
  let s1 := cores.foldl (fun s c => s.onCore c Core.leaveKernel) s
  (s1.onKernel k fun K => { K with
    leaving := K.leaving ++ cores.filter (· < Config.cores)
    counts := K.counts || last
    reporter := some (K.reporter.getD s.reporter) }).giveOn k

/-- Gives every core of a kernel back, then counts a kernel end (R294). -/
def State.endAllocation (s : State) (k : Nat) : State := s.giveBack k ((s.allocated k).map (·.id)) true

/-- The kernel's part of a header dword: TAG and SEQ. -/
def Kernel.header (K : Kernel) : Word := BitVec.ofNat 64 (K.tag.toNat * 2 ^ 32 + K.seq.toNat * 2 ^ 48)

/-- A record of a kernel, written by a dispatch core: the first at +0, the second at +32 (R318). -/
def State.kernelNote (s : State) (dc : Nat) (K : Kernel) (second : Bool) (event : Nat) (c : Cause) (core : Nat) : State :=
  s.writeRecord dc K.queue K.ctx (if K.record = 0 then 0 else K.record + (if second then 32 else 0)) (recordHead K.header event c core)
    K.firstGtid (s.vt.zeroExtend 64) (K.vtStart.zeroExtend 64)

/-- A dispatch core adds 1 to a counter a LAUNCH names, where it names one; a counter that faults stays as it is (R314). -/
def State.countAt (s : State) (dc ctx : Nat) (ta : Word) : State :=
  if ta = 0 then s
  else match s.hubApply (dcWriter dc .note) ctx .cadd (.cadd 1) ta with
    | .ok t => t
    | .error _ => s

/-! ### Complete and confirmed (R246, R318, R321) -/

/-- KERNEL_COMPLETE: a kernel that has finished is reported: its channels become invalid, its cores are given back, the first
record says complete and the d4 counter is advanced. While its cores are still being given back, that goes on. -/
def execKernelComplete (kernel : Nat) (s : State) : Out :=
  match tabGet s.kernels kernel with
  | none => .next s
  | some K =>
    if K.reporter.isSome then .next (s.giveOn kernel)
    else if K.state ≠ .running ∨ !s.finished kernel then .next s
    else
      let s1 := (s.endAllocation kernel).onKernel kernel fun K => { K with state := .complete, vtEnd := s.vt }
      let s2 := { s1 with
        stages := s1.stages.filter fun q => q.kernel ≠ kernel
        groups := s1.groups.filter fun g => g.kernel ≠ kernel }
      .next ((s2.kernelNote s.reporter K false 1 0 0).countAt s.reporter K.ctx K.d4)

/-- KERNEL_CONFIRMED: a complete kernel whose cores have all passed since is confirmed; its pending publications come first
(R321, R322). -/
def execKernelConfirmed (kernel : Nat) (s : State) : Out :=
  match tabGet s.kernels kernel with
  | none => .next s
  | some K =>
    if K.state ≠ .complete ∨ !s.confirmedAt kernel K.vtEnd ∨ s.publications.any (fun p => p.kernel = kernel) then .next s
    else .next (((s.onKernel kernel fun K => { K with state := .confirmed }).kernelNote s.reporter K true 2 0 0).countAt s.reporter K.ctx K.d5)

/-! ### Kill (R324, R325) -/

/-- Whether a slot stands halted, as far as a kill needs it (R272, R324). -/
def Run.stopped : Run → Bool
  | .free => true
  | .running => false
  | .halted .firmware => true
  | .halted .debug => true
  | .halted (.preempted _) => true
  | .halted .moving => false
  | .halted .tree => false

/-- Whether a slot has retired vector work that has not completed, or a TST or MEPI in execution (R104, R108, R272). -/
def Core.unfinished (c : Core) (sel : SlotSel) : Bool :=
  c.vector.any (fun o => decide (o.sel = sel)) || match c.matrix with
    | [] => false
    | o :: _ => c.mrun && decide (o.sel = sel) && engineStores o.instr

/-- The cores on which a kernel's task has still to halt, or its task or activation to finish retired work (R272, R324). -/
def State.unhalted (s : State) (k : Nat) : List Nat :=
  (s.allCores.filter fun c =>
    decide (c.task.run ≠ .free ∧ c.task.kernel = k) && (!c.task.run.stopped || c.unfinished .task) ||
      decide (c.act.run ≠ .free ∧ c.act.kernel = k) && c.unfinished .act).map (·.id)

/-- A kill asks a core's task to halt, and stops its activation at an instruction boundary (R324; log entry 47). -/
def Core.haltFor (k : Nat) (c : Core) : Core :=
  { c with
    task := if c.task.run ≠ .free ∧ c.task.kernel = k then c.task.asked Cause.hostKill else c.task
    act := if c.act.run = .running ∧ c.act.kernel = k then { c.act with run := .halted (.preempted Cause.hostKill) } else c.act }

/-- The halted resident tasks of a kernel, on their cores or saved, each with its core's image. -/
def State.dumpable (s : State) (k : Nat) : List Core :=
  (s.allCores.filter fun c => decide (c.task.run ≠ .free ∧ c.task.kernel = k)) ++
    s.saved.filterMap fun x => if x.slot.kernel = k then x.image.map fun c => { c with task := x.slot } else none

/-- Cores in rising order of their tasks' GTIDs. -/
def insertGtid (c : Core) : List Core → List Core
  | [] => [c]
  | d :: l => if c.task.gtid.toNat ≤ d.task.gtid.toNat then c :: d :: l else d :: insertGtid c l

/-- Begins a dump of each task in its part of the buffer (R337). A part past the largest offset is no buffer. -/
def beginDumps (dc ctx : Nat) (ta : Word) (part : Nat) (cause : Cause) : Nat → List Core → State → State × List DumpJob
  | _, [], s => (s, [])
  | i, c :: l, s =>
    let at' := offsetAdd ta (i * part)
    let r := s.beginDump dc ctx (at'.getD ta) (if at'.isSome then part else 0) cause c.task.haltVt c .task
    let t := beginDumps dc ctx ta part cause (i + 1) l r.1
    (t.1, r.2 :: t.2)

/-- The dumps of a kill begin: the buffer from d6 to the end of its object in equal parts (R337). -/
def State.killDump (s : State) (k : Nat) (K : Kernel) (cause : Cause) : State × List DumpJob :=
  let l := (s.dumpable k).foldr insertGtid []
  if K.d6 = 0 ∨ l = [] then (s, [])
  else beginDumps s.reporter K.ctx K.d6 (s.bytesToEnd K.ctx K.d6 / l.length / 64 * 64) cause 0 l s

/-- Dumps go on. -/
def dumpsOn (dc : Nat) : List DumpJob → State → State × List DumpJob
  | [], s => (s, [])
  | j :: l, s =>
    let r := s.dumpOn dc j
    let t := dumpsOn dc l r.1
    (t.1, r.2 :: t.2)

/-- The dumps of a kill: begun where they have not been, and gone on with (R324, R338). -/
def State.killDumps (s : State) (k : Nat) (K : Kernel) (cause : Cause) : State × List DumpJob :=
  match K.dumps with
  | some l => dumpsOn s.reporter l s
  | none => let r := s.killDump k K cause; dumpsOn s.reporter r.2 r.1

/-- Versions of some kind are discarded from the handles that hold them, with the publications of a kind that are not bound. -/
def State.dropVersions (s : State) (off : Publication → Bool) (made : Nat → Nat → Bool) : State :=
  let clear := fun (h : Handle) => match h.node, h.shadow with
    | .own n, some v => if made n v then { h with shadow := none } else h
    | _, _ => h
  let s1 : State := { s with
    publications := s.publications.filter fun p => !off p || p.bound
    contexts := s.contexts.map fun c => (c.1, { c.2 with handles := c.2.handles.map fun h => (h.1, clear h.2) }) }
  s1.sweep

/-- Unpublished shadow versions a kernel made are discarded (R324). -/
def State.dropShadows (s : State) (k : Nat) : State :=
  s.dropVersions (fun p => decide (p.kernel = k)) fun n v => match s.node n with
    | some { body := .object bound vs, .. } => decide (v ≠ bound) && vs.any fun x => decide (x.id = v ∧ x.maker = k)
    | _ => false

/-- The versions of a kernel's pending publications on confirmation are discarded, and the names keep their bindings (R322). -/
def State.dropPending (s : State) (k : Nat) : State :=
  s.dropVersions (fun p => decide (p.kernel = k ∧ p.conf = true)) fun n v =>
    s.publications.any fun p => decide (p.kernel = k ∧ p.conf = true ∧ p.node = n ∧ p.version = v ∧ p.bound = false)

/-- Steps 1 to 5 of a kill once every task has halted: contexts, activations, spawns and commands not begun are discarded. -/
def State.discardKernel (s : State) (k : Nat) : State :=
  let s1 := (s.slotsOf k).foldl (fun s x => match x.2 with
    | .task => s.endTask x.1
    | .act => s.clearAct x.1) s
  let gone := s1.saved.filter fun x => x.slot.kernel = k
  let s2 := gone.foldl (fun s x => s.clearPoints x.slot.gtid) s1
  let cut := fun (e : Engine) => { e with queue := e.queue.filter fun c => c.kernel ≠ k }
  let s3 : State := { s2 with
    core := { s2.core with copy := cut s2.core.copy }
    others := s2.others.map fun c => (c.1, { c.2 with copy := cut c.2.copy })
    layouts := s2.layouts.map fun e => (e.1, cut e.2)
    saved := s2.saved.filter fun x => x.slot.kernel ≠ k
    results := s2.results.filter fun r => !(gone.any fun x => x.key = r.core)
    trapRecords := s2.trapRecords.filter fun r => !(gone.any fun x => x.key = r.core)
    stops := s2.stops.filter fun r => !(gone.any fun x => x.key = r.core)
    msgs := s2.msgs.filter fun m => !m.spawns k
    stages := s2.stages.filter fun q => q.kernel ≠ k
    groups := s2.groups.filter fun g => g.kernel ≠ k }
  (s3.forgetLost k).dropShadows k

/-- Requests for a kill have been answered for a kernel. -/
def State.killDone (s : State) (k : Nat) : State := { s with kills := s.kills.filter fun x => x.kernel ≠ k }

/-- The kill of a running kernel whose tasks have halted and whose dumps are over; `ok`: every one has its header (R324, R338). -/
def State.killRunning (s : State) (k : Nat) (cause : Cause) (core : Nat) (ok : Bool) : State :=
  let s1 := ((s.discardKernel k).endAllocation k).onKernel k
    fun K => { K with state := .killed, cause := cause, vtEnd := s.vt, dumps := none }
  (s1.kernelNote s.reporter (s.kernelRec k) false 3 (if ok then cause else Cause.dumpFault) core).killDone k

/-- KERNEL_KILL: a kernel that is to be killed with this cause, or that the host kills, first has its tasks halted and dumped, then ends;
a complete kernel only has its second record written; a confirmed one is never withdrawn (R321, R324, R325). -/
def execKernelKill (kernel : Nat) (cause : Cause) (s : State) : Out :=
  match tabGet s.kernels kernel with
  | none => .next s
  | some K =>
    let why := s.kills.find? fun x => decide (x.kernel = kernel ∧ x.cause = cause)
    if why.isNone ∧ cause ≠ Cause.hostKill then .next s
    else
      let core := (why.map (·.core)).getD 0
      if K.reporter.isSome then .next (s.giveOn kernel)
      else match K.state with
      | .running =>
        if s.unhalted kernel = [] then
          let r := s.killDumps kernel K cause
          if r.2.all (·.ended) then .next (r.1.killRunning kernel cause core (r.2.all fun j => !j.failed))
          else .next (r.1.onKernel kernel fun K => { K with dumps := some r.2 })
        else .next ((s.unhalted kernel).foldl (fun s c => s.onCore c (Core.haltFor kernel)) s)
      | .complete =>
        .next (((s.onKernel kernel fun K => { K with state := .killed, cause := cause }).dropPending kernel |>.kernelNote s.reporter K true 3 cause core).killDone kernel)
      | _ => .next (s.killDone kernel)

/-! ### Trap records (R269, R270) -/

/-- POLICY of the queue a kernel came from (R304). -/
def State.policyOf (s : State) (k : Nat) : Nat :=
  match tabGet s.kernels k with
  | some K => s.shadowByte K.queue 0x1A
  | none => 0

/-- The FEAT bit the trapped word asks for: the instruction's, or the matrix engine's for the registers it owns (R53). -/
def wordFeature (w : Word) : Option Nat :=
  match decode (natBytes 4 w.toNat) with
  | .ok (i, _) => match feature i with
    | some b => some b
    | none => some 0
  | .error _ => none

/-- Whether FEAT covers the instruction a task trapped at and its unfinished work (R104, R108, R270). -/
def Core.covers (c : Core) (feat : BitVec 3) : Bool :=
  (match wordFeature c.task.tval with
    | some b => feat.getLsbD b
    | none => true) && (c.matrix.isEmpty || feat.getLsbD 0) && (c.vector.isEmpty || feat.getLsbD 1)

/-- FEAT of a core as its map entry holds it (R294). -/
def State.mapFeat (s : State) (core : Nat) : BitVec 3 := BitVec.ofNat 3 (bits (s.mapEntry core) 5 3)

/-- The members of the rectangle a core's task belongs to, each on its core. -/
def State.memberCores (s : State) (core : Nat) : List Core :=
  match s.groups.find? fun g => g.rect.isSome && g.has (s.coreOf core).task.gtid with
  | some g => g.members.map fun m => s.coreOf m.1
  | none => []

/-- What a rectangle's move asks of a new block: FEATREQ, the bit of the trapped word, and the engines the members' unfinished work needs
(R270). -/
def State.moveFeat (s : State) (K : Kernel) (core : Nat) : BitVec 3 :=
  K.featreq ||| (match wordFeature (s.coreOf core).task.tval with
    | some b => 1#3 <<< b
    | none => 0) ||| (if (s.memberCores core).any fun c => !c.matrix.isEmpty then 1 else 0) |||
    if (s.memberCores core).any fun c => !c.vector.isEmpty then 2 else 0

/-- Whether no core can ever run the instruction: of the allocation, or for a rectangle no open block (R270). -/
def State.nowhere (s : State) (core : Nat) : Bool :=
  let c := s.coreOf core
  match tabGet s.kernels c.task.kernel with
  | none => true
  | some K =>
    if c.task.rect.getLsbD 16 then
      !(s.blockBases K.vf (rectW c.task.rect) (rectH c.task.rect)).any fun b =>
        (blockCores b (rectW c.task.rect) (rectH c.task.rect)).all (s.serviceable (s.moveFeat K core))
    else !(s.allocated c.task.kernel).any fun d => c.covers d.feat

/-- Whether policy forwards a trap: a task's, with FORWARD 1, unless it is to be repaired, is a lost error, a double fault or
an absent feature (R269, R270, R327). -/
def forwards (policy : Nat) (r : TrapRecord) : Bool :=
  decide (r.sel = .task) && decide (policy / 2 % 2 = 1) && decide (r.cause ≠ 0x2F ∧ r.cause ≠ 0x3F ∧ r.cause ≠ 0x04) &&
    !(decide (policy % 2 = 1) && decide (r.cause = 0x0E ∨ r.cause = 0x0F))

/-- Whether policy kills for a trap that has not been forwarded (R269, R270, R328). -/
def State.killsFor (s : State) (policy : Nat) (r : TrapRecord) : Bool :=
  !forwards policy r && !(decide (r.cause = 0x2F ∧ r.sel = .act)) &&
    (decide (r.cause ≠ 0x04 ∨ r.sel = .act) || s.nowhere r.core)

/-- The slot of a trap record, on its core or in a saved context. -/
def State.recordSlot (s : State) (r : TrapRecord) : Slot :=
  if r.core < 8192 then (s.coreOf r.core).slot r.sel
  else ((s.saved.find? fun x => x.key = r.core).map (·.slot)).getD Slot.reset

/-- The kernel of a trap record's task, on a core or in a saved context. -/
def State.recordKernel (s : State) (r : TrapRecord) : Nat := (s.recordSlot r).kernel

/-- A trapped slot resumes at TPC as after ERET, with the points it has loaded (R269, R273, R334). -/
def State.resumeTrapped (s : State) (core : Nat) (sel : SlotSel) : State :=
  let t := (s.coreOf core).slot sel
  s.onCore core fun c => c.reenter sel t.repaired

/-! ### Page tables rewritten by firmware (R229, R230, R233) -/

/-- Where the entry stands at which a walk for an offset ends, and the level (R229, R230). -/
def tableEntry (s : State) : Nat → Nat → Nat → Option (Nat × Nat)
  | 0, _, _ => none
  | l + 1, t, o =>
    let a := t + 8 * (o / 2 ^ (12 + 9 * l) % 512)
    let e := memDword s.hbm a
    if !pteOk e ∨ e.getLsbD 59 ∨ l = 0 ∨ bits e 60 3 ≠ 0 then some (a, l) else tableEntry s l (bits e 12 27 * 4096) o

/-- Bytes an entry of a level maps at most: its own span, or that of its page size (R230). -/
def entrySpan (l : Nat) (e : Word) : Nat := max (2 ^ (12 + 9 * l)) (if e.getLsbD 59 then (pageShape (bits e 60 3)).2.2 else 0)

/-- Firmware writes the page-table entry of an offset of a version, then issues a shootdown of the offsets it maps (R233). What it writes is
the pager's choice (log entry 81). -/
def State.rewriteEntry (s : State) (v : Version) (o : Nat) (entry : Word) : State :=
  match v.loc with
  | .hbm root levels => match tableEntry s levels root o with
    | none => s
    | some (a, l) =>
      let span := max (entrySpan l (memDword s.hbm a)) (entrySpan l entry)
      let s1 := s.hubPut a entry
      { s1 with shootdowns := s1.shootdowns ++
          [{ what := .range v.id (o / span * span) (o / span * span + span), why := .firmware, reached := [] }] }
  | _ => s

/-- The version a task reaches through a handle. -/
def State.reached (s : State) (core ctx h : Nat) : Option Version :=
  match s.handleOf core ctx h with
  | .ok hd => match hd.node with
    | .own n => match s.node n with
      | some { body := .object bound vs, .. } => findVersion vs (s.versionOf core n bound hd)
      | _ => none
    | .remote _ _ => none
  | .error _ => none

/-- FIRMWARE_TRAP_SERVICE: firmware serves trap record n as the policy of the kernel's queue says: a repaired translation
fault resumes, once the pager has rewritten what it has to (R233); a forwarded trap waits for the host, which resumes or kills; every other
kills (R269). -/
def execFirmwareTrapService (n : Nat) (choice : FwChoice) (s : State) : Out :=
  match s.trapRecords[n]? with
  | none => .next s
  | some r =>
    let k := s.recordKernel r
    let policy := s.policyOf k
    let gone : State := { s with trapRecords := dropAt s.trapRecords n }
    match choice with
    | .repair =>
      if r.core < 8192 ∧ (r.forwarded ∨ (policy % 2 = 1 ∧ (r.cause = 0x0E ∨ r.cause = 0x0F))) then .next (gone.resumeTrapped r.core r.sel)
      else .next s
    | .page o entry =>
      let t := s.recordSlot r
      if policy % 2 = 1 ∧ (r.cause = 0x0E ∨ r.cause = 0x0F) then
        (match s.reached (r.core % 8192) t.ctx (taHandle t.tval) with
          | some v => .next (s.rewriteEntry v o entry)
          | none => .next s)
      else .next s
    | .forward =>
      if forwards policy r then .next { s with trapRecords := s.trapRecords.set n { r with forwarded := true } } else .next s
    | .kill =>
      if r.forwarded then .next (gone.mustKill k Cause.hostKill)
      else if s.killsFor policy r then .next (gone.mustKill k r.cause)
      else .next s

/-- Whether a task's streams are drained and its engine commands have ended (R270, R282). -/
def State.moveReady (s : State) (core : Nat) : Bool := s.settledAll core .task && !s.commandsOf core (s.coreOf core).task.gtid

/-- The move of one task to a core of its allocation, as MIGR moves it (R270, R282). -/
def State.moveAlone (s : State) (n core target : Nat) : State :=
  let c := s.coreOf core
  if s.eligible c.task.kernel target && s.accepts target && s.movable core target && c.covers (s.coreOf target).feat && s.moveReady core && c.drained then
    (({ s with trapRecords := dropAt s.trapRecords n }).moveTask core target fun x =>
      s.loadPoints x.repaired).onCore target fun c => c.reenter .task c.task
  else s

/-- A member as it goes on in the new block: one that trapped for the feature, or was halted for the move. -/
def Slot.afterMove (t : Slot) : Slot :=
  match t.run with
  | .halted .firmware => if bits t.tcause 0 6 = 0x04 then t.repaired else t
  | .halted (.preempted c) => if c = Cause.featureAbsent then t.unpark else t
  | _ => t

/-- What a launch of a kernel laid out, for a new block (R270, R316). -/
def State.planOf (s : State) (k : Nat) (K : Kernel) : Plan316 :=
  { program := K.program, header := s.kernelHeader k, image := s.kernelImage k, params := K.params, rect := none, count := 0 }

/-- Moves the members of a rectangle one by one, each to the same row and column of the new block. -/
def moveBlock (p : Plan316) (k : Nat) (K : Kernel) (members : List Nat) : List (Nat × Nat) → State → State
  | [], s => s
  | (a, b) :: l, s =>
    let s1 := (s.allocCore p k K.vf K.queue K.index 0 b).onCore b fun c => { c with partw := (s.coreOf a).partw }
    let s2 := if members.contains a then
        (s1.moveTask a b fun x => (s.loadPoints x).afterMove).onCore b fun c => c.reenter .task c.task
      else s1
    moveBlock p k K members l s2

/-- The move of a whole rectangle to a free aligned block: its members halt first, and the old block is released last; a core of it where
another task of the kernel stands stays with the kernel (R270). -/
def State.moveRectangle (s : State) (core target : Nat) : State :=
  let c := s.coreOf core
  match tabGet s.kernels c.task.kernel, s.groups.findIdx? fun g => g.rect.isSome && g.has c.task.gtid with
  | some K, some i => match s.groups[i]? with
    | some g => match g.rect with
      | some (base, lw, lh) =>
        let old := blockCores base (2 ^ lw) (2 ^ lh)
        let new := blockCores target (2 ^ lw) (2 ^ lh)
        let members := g.members.map (·.1)
        let stay := old.filter fun x => !members.contains x && decide ((s.coreOf x).task.run ≠ .free)
        if members.any fun x => !(s.coreOf x).task.run.stopped then
          members.foldl (fun s x => if (s.coreOf x).task.run.stopped then s else s.request Cause.featureAbsent x) s
        else if (s.blockBases K.vf (2 ^ lw) (2 ^ lh)).contains target && !s.crowded K.vf new.length && new.all (s.freeFor K.vf K.ctx (s.moveFeat K core)) &&
            members.all (fun x => s.moveReady x && decide ((s.coreOf x).act.run = .free) && (s.coreOf x).drained) then
          let s1 : State := { s with
            trapRecords := s.trapRecords.filter fun r => !(members.contains r.core && decide (r.sel = .task ∧ r.cause = Cause.featureAbsent))
            groups := s.groups.set i { g with rect := some (target, lw, lh) }
            kernels := tabPut s.kernels c.task.kernel { K with cores := new ++ stay } }
          (moveBlock (s.planOf c.task.kernel K) c.task.kernel K members (old.zip new) s1).giveBack c.task.kernel
            (old.filter fun x => !stay.contains x) false
        else s
      | none => s
    | none => s
  | _, _ => s

/-- FEATURE_ABSENT_MOVE: a task that trapped 0x04 is moved to a core whose FEAT covers the instruction, a rectangle member
with its whole rectangle (R270). -/
def execFeatureAbsentMove (n target : Nat) (s : State) : Out :=
  if target ≥ Config.cores then .fault .noSuchAgent
  else match s.trapRecords[n]? with
  | none => .next s
  | some r =>
    if r.cause ≠ Cause.featureAbsent ∨ r.sel = .act ∨ r.core ≥ Config.cores then .next s
    else if (s.coreOf r.core).task.rect.getLsbD 16 then .next (s.moveRectangle r.core target)
    else .next (s.moveAlone n r.core target)

/-! ### The time-sliced function (R317, R363) -/

/-- The contexts of the time-sliced function's guests, in number order; it runs eight, the lowest numbers (R363; log entry 86). -/
def State.guests (s : State) : List Nat := ((s.contexts.filter fun c => c.2.vf = 16).map (·.1)).take 8

/-- Whether a guest has work: a kernel that runs, or a queue with packets. -/
def State.hasWork (s : State) (g : Nat) : Bool :=
  (s.kernels.any fun k => decide (k.2.ctx = g ∧ k.2.state = .running)) ||
    s.queues.any fun q => decide (s.shadowByte q.1 6 = 16 ∧ s.shadowNat q.1 0x18 2 = g ∧ s.queueState q.1 = 1 ∧ s.writeIdx q.1 ≠ s.readIdx q.1)

/-- The guest whose turn comes next: in number order from the running one on, those without work left out. -/
def State.nextGuest (s : State) : Nat :=
  let l := s.guests.filter s.hasWork
  (l.find? fun g => g > s.guest).getD (l.headD s.guest)

/-- Whether a dispatch core executes a packet of the running guest (R317). -/
def State.guestBusy (s : State) : Bool :=
  s.dispatch.any fun d => decide (d.2.packet ≠ []) && d.2.queue.isSome && decide (shadowVf d.2.shadow = 16 ∧ shadowCtx d.2.shadow = s.guest)

/-- Cycles of a turn of the time-sliced function: SLICEMS milliseconds at 1.3 GHz (R272, R359, R363). -/
def State.sliceCycles (s : State) : Nat := s.vfField 16 0xC 1 * 1300000

/-- Whether the running guest's turn is over: its time is up, or it has no work (R363). -/
def State.turnOver (s : State) : Bool := !s.hasWork s.guest || decide ((s.vt - s.sliceVt).toNat ≥ s.sliceCycles)

/-- Whether a kernel of the running guest holds a core, whether its task there still runs or has exited (R363). -/
def State.heldByGuest (s : State) (c : Core) : Bool :=
  match c.alloc with
  | some a => decide (a.vf = 16 ∧ (s.kernelRec a.kernel).ctx = s.guest)
  | none => false

/-- A core is asked for: its task halts, and where none is resident the core only has to be saved (R363). -/
def State.claim (s : State) (c : Cause) (core : Nat) : State :=
  if (s.coreOf core).task.run = .free then s.onSlot core .task fun t => { t with request := some c } else s.request c core

/-- TIME_SLICE_EXPIRY: the turn is over, and once the guest's packets have finished or yielded, its kernels are pre-empted with 0x33, and
the next guest with work has its turn (R317, R363). -/
def execTimeSliceExpiry (s : State) : Out :=
  if !s.turnOver ∨ s.guestBusy then .next s
  else if s.nextGuest = s.guest then .next { s with sliceVt := s.vt }
  else
    let cores := (s.allCores.filter fun c => decide (c.id < Config.cores) && s.heldByGuest c).map (·.id)
    .next (cores.foldl (fun s c => s.claim Cause.timeSlice c) { s with guest := s.nextGuest, sliceVt := s.vt })

end Sys2Proof.Machine
end

