-- ==== Sys2Proof/Machine/Scans.lean ====
section
/-! DEFINITION. Closure passes (R293 to R302 of spec/20_field_scan.md), the fault doorbell (R323 of spec/22) and FEAT
updates (R294). -/

namespace Sys2Proof.Machine

/-! ### The scan units (R296 to R299) -/

/-- A sector's scan unit. -/
def State.scanUnit (s : State) (sector : Nat) : Scan := tabGetD s.scans sector { served := 0, running := none, abort := none }

/-- Replaces a sector's scan unit. -/
def State.setScan (s : State) (sector : Nat) (x : Scan) : State := { s with scans := tabPut s.scans sector x }

/-- A store of a scan unit: it carries no stamp and leaves line stamps unchanged (R297). -/
def State.scanStore (s : State) (pa : Nat) (op : StoreOp) : State :=
  match s.applyNow { s.hubStore pfContext op 0 (.hbm pa) with covered := false } with
  | .ok t => t
  | .error _ => s

/-- Field of a sector's scan slot (R296). -/
def scanSlot (sector ofs : Nat) : Nat := objectBase 1 + 256 * sector + ofs

/-- Whether a core is idle for a closure pass (R297). -/
def State.scanIdle (s : State) (core : Nat) : Bool :=
  let c := s.coreOf core
  decide (c.task.run = .free ∧ c.act.run = .free) && c.chans.toList.all (fun h => !h.valid) &&
    !(s.stores.any fun x => decide (x.src = core ∧ x.origin ≤ 1)) && c.copy.idle

/-- An answer: RESULT, VTS, VTE and the signatures are written, then the completion count is advanced (R296, R297). -/
def State.scanAnswer (s : State) (sector : Nat) (result : Nat) (vts : BitVec 48) (sig : List Byte) : State :=
  let s1 := s.scanStore (scanSlot sector 0x40) (.bytes ((natBytes 8 result ++ natBytes 8 vts.toNat ++ natBytes 8 s.vt.toNat).map some))
  let s2 := s1.scanStore (scanSlot sector 0x80) (.bytes (sig.map some))
  let s3 := s2.scanStore (objectBase 2 + 0x80 + 8 * sector) (.cadd 1)
  s3.setScan sector { served := (s.scanUnit sector).served + 1, running := none, abort := none }

/-- A core after a pass: every part but the pool is reset, and FEAT is loaded from the entry (R299). The sequences of its streams go on, as
their receive marks do; what firmware and the hub keep about it is no part of the core (R142, R320; log entry 80). -/
def Core.afterPass (c : Core) (feat : BitVec 3) : Core :=
  { Core.reset c.id with
    task := c.task.fresh, act := c.act.fresh, copy := { Engine.reset with streams := c.copy.streams, next := c.copy.next }
    sram := c.sram, poison := c.poison, feat := feat, entryFeat := feat, hw := c.hw, alloc := c.alloc, lastVf := c.lastVf, lastCtx := c.lastCtx
    reserved := c.reserved, heldBefore := c.heldBefore, log := c.log }

/-- The core under test returns to service: it is reset, and STATE is cleared by AAND (R297, R299). -/
def State.returnCore (s : State) (core : Nat) : State :=
  (s.onCore core fun c => c.afterPass (s.mapFeat core)).scanStore (objectBase 0 + 8 * core) (.atomic .and true (~~~3) 0)

/-- SCAN_COMMAND: a unit without a run takes its next command once its doorbell has been rung that often and the package datum
is past the doorbell's stamp; the command is refused, or the pattern run starts (R297). -/
def execScanCommand (sector : Nat) (s : State) : Out :=
  if sector ≥ 16 then .fault .noSuchAgent
  else
    let u := s.scanUnit sector
    let bell := objectBase 2 + 8 * sector
    let cmd := s.hubDword (scanSlot sector 0)
    let c := bits cmd 0 12
    if u.running.isSome ∨ (s.hubDword bell).toNat ≤ u.served ∨ !s.datumPast hubCore .pkg (s.lineStamp (.hbm bell)) then .next s
    else if coreSector c ≠ sector ∨ bits cmd 12 20 ≠ 0 ∨ bits (s.mapEntry c) 0 2 ≠ 1 ∨ !s.scanIdle c then
      .next (s.scanAnswer sector (2 + 256 * c) 0 (List.replicate 64 0))
    else .next (s.setScan sector { u with running := some (c, s.vt, BitVec.ofNat 32 (bits cmd 32 32)), abort := none })

/-- PATTERN_RUN_COMPLETE: the core is returned, and the answer carries the signatures of the run (R296, R297; log entry 21). -/
def execPatternRunComplete (sector : Nat) (s : State) : Out :=
  let u := s.scanUnit sector
  match u.running, u.abort with
  | some (c, vts, _), none =>
    .next ((s.returnCore c).scanAnswer sector (256 * c) vts (natBytes 64 (Config.patternSignature s.tick).toNat))
  | _, _ => .next s

/-- SCAN_ABORT: the pass that a ranked LAUNCH packet abandons: the core is returned, with STATUS 1 (R298). -/
def execScanAbort (sector : Nat) (rank : BitVec 32) (queue : Nat) (s : State) : Out :=
  let u := s.scanUnit sector
  match u.running with
  | some (c, vts, _) =>
    if u.abort = some (rank, queue) then
      .next ((s.returnCore c).scanAnswer sector (rank.toNat * 2 ^ 32 + queue * 2 ^ 20 + 256 * c + 1) vts (List.replicate 64 0))
    else .next s
  | none => .next s

/-! ### The fault doorbell (R301, R323, R325) -/

/-- Names every kernel of a core's log to be killed, of those an entry test picks, and clears the log. -/
def State.killLog (s : State) (core : Nat) (which : LogEntry → Bool) : State :=
  let ks := (((s.coreOf core).log.filter which).map (·.kernel)).eraseDups
  let more : List Kill := ks.map fun k => { kernel := k, cause := Cause.quarantined, core := 0x8000 + core }
  ({ s with kills := s.kills ++ more }).onCore core fun c => { c with log := [] }

/-- Acts on the record in a slot of the fault ring (R323). -/
def State.serveFault (s : State) (n : Nat) : State :=
  let d := s.hubDword (objectBase 3 + 64 + 16 * n)
  let s1 := { s with faultsStored := tabDel s.faultsStored n }
  match bits d 0 8 with
  | 1 => s1.killLog (bits d 8 12) fun _ => true
  | 2 => s1.killLog (bits d 8 12) fun e => e.m
  | _ => s1

/-- The slots of the fault ring whose records have been stored whole and not read, the oldest first (R301). -/
def State.faultSlots (s : State) : List Nat :=
  ((List.range 128).map fun i => ((s.hubDword (objectBase 3)).toNat + i) % 128).filter fun n => tabGetD s.faultsStored n 0 = 3

/-- FAULT_DOORBELL_SERVICE: firmware, once the package datum is past the doorbell's stamp, reads every record stored before the last add and
acts on it (R301, R323). -/
def execFaultDoorbellService (s : State) : Out :=
  let bell := objectBase 2 + 0x108
  if (s.hubDword bell).toNat ≤ s.faultsServed ∨ !s.datumPast hubCore .pkg (s.lineStamp (.hbm bell)) then .next s
  else .next (s.faultSlots.foldl State.serveFault { s with faultsServed := (s.hubDword bell).toNat })

/-- FEAT_UPDATE: FEAT of a core's map entry, once a commit has changed it, reaches its FEAT register (R294). Before the map is built
there are no entries (R366). -/
def execFeatUpdate (core : Nat) (s : State) : Out :=
  if core ≥ Config.cores then .fault .noSuchAgent
  else if s.bringUp.toNat < 4 ∨ (s.coreOf core).entryFeat = s.mapFeat core then .next s
  else .next (s.onCore core fun c => { c with feat := s.mapFeat core, entryFeat := s.mapFeat core })

end Sys2Proof.Machine
end

