-- ==== Sys2Proof/Machine/Debug.lean ====
section
/-! DEFINITION. Debug requests, stops and link snapshots (R332 to R342 of spec/23_debug_and_trace.md). -/

namespace Sys2Proof.Machine

/-! ### Points and requests (R334, R335) -/

/-- A task by core and slot, or by the key of its saved context. -/
def State.taskAt (s : State) (x : Nat × SlotSel) : Slot :=
  if x.1 < 8192 then (s.coreOf x.1).slot x.2
  else ((s.saved.find? fun c => c.key = x.1).map (·.slot)).getD Slot.reset

/-- Changes a task by core and slot, or in its saved context. -/
def State.onTask (s : State) (x : Nat × SlotSel) (f : Slot → Slot) : State :=
  if x.1 < 8192 then s.onSlot x.1 x.2 f
  else { s with saved := s.saved.map fun c => if c.key = x.1 then { c with slot := f c.slot } else c }

/-- The tasks of the kernel an attachment names; none while the attachment is ignored (R332). -/
def State.attachedSlots (s : State) (a : Nat) : List (Nat × SlotSel) :=
  if a = 0 ∨ a ≥ 64 ∨ !s.attachOk a then []
  else ((s.allCores.flatMap fun c => [(c.id, SlotSel.task), (c.id, SlotSel.act)]) ++ s.saved.map fun c => (c.key, SlotSel.task)).filter
    fun x =>
      let t := s.taskAt x
      decide (t.run ≠ .free) && decide (s.attachmentOfKernel t.kernel = some a)

/-- The points of a commit to POINTS that a task applies (R333, R334). -/
def PointCommit.points (c : PointCommit) (gtid : Word) : List Point := pointsOf (fun e i => dwordOf c.table (4 * e + i)) gtid

/-- Whether a commit to POINTS takes effect at an instruction boundary now: 2,000 cycles after it (R334). -/
def State.aged (s : State) (c : PointCommit) : Bool := decide ((s.vt - c.vt).toNat ≥ 2000)

/-- A task as a commit to POINTS takes effect for it; points its core loaded after the commit stand (R334). -/
def Slot.takePoints (t : Slot) (c : PointCommit) : Slot :=
  if (c.vt - t.pointsVt).toNat < 2 ^ 47 then { t with points := c.points t.gtid } else t

/-- A commit to POINTS takes effect for the tasks of its attachment's kernel (R334). -/
def State.takePoints (s : State) (c : PointCommit) : State :=
  (s.attachedSlots c.attachment).foldl (fun s x => s.onTask x fun t => t.takePoints c) s

/-- The commits to POINTS that are due at an instruction boundary take effect, in commit order (R334). -/
def State.pointsDue (s : State) : State :=
  if s.pointCommits.any s.aged then
    (s.pointCommits.filter s.aged).foldl State.takePoints { s with pointCommits := s.pointCommits.filter fun c => !s.aged c }
  else s

/-- POINTS_UPDATE: commits to the POINTS of an attachment that are 2,000 cycles old take effect for its running tasks (R334). -/
def execPointsUpdate (slot : Nat) (s : State) : Out :=
  let due := fun (c : PointCommit) => decide (c.attachment = slot) && s.aged c
  .next ((s.pointCommits.filter due).foldl State.takePoints { s with pointCommits := s.pointCommits.filter fun c => !due c })

/-- Whether a slot is stopped for its debugger (R336). -/
def Slot.stopped (t : Slot) : Bool := decide (t.run = .halted .debug ∨ t.run = .halted (.preempted Cause.debugHalt))

/-- A halted task goes on at TPC as after ERET, with SKIP armed, for one instruction where `one` (R335). -/
def Slot.continue (t : Slot) (one : Bool) : Slot :=
  { (if t.run = .halted .debug then { t.resumed with run := .running } else t.unpark) with skip := true, stepping := one }

/-- A debug halt request reaches a slot that is not halted: it stands beside a pre-emption request (R272, R335). -/
def State.debugHalt (s : State) (x : Nat × SlotSel) : State :=
  s.onTask x fun t =>
    if t.run = .halted .tree ∨ t.run = .halted .moving ∨ t.run = .running then t.asked Cause.debugHalt else t

/-- Continues a stopped task; fetch is synchronised as by CSYNC (R273). One whose context is saved goes on when it is restored
(R336). -/
def State.debugContinue (s : State) (one : Bool) (x : Nat × SlotSel) : State :=
  if !(s.taskAt x).stopped then s
  else if x.1 < 8192 then s.onCore x.1 fun c => c.reenter x.2 ((c.slot x.2).continue one)
  else s.onTask x fun t => { (t.continue one).park with run := .halted (.preempted Cause.preemption) }

/-- Whether a stop of one of these slots has still to be served. -/
def State.unserved (s : State) (l : List (Nat × SlotSel)) : Bool := s.stops.any fun p => l.contains (p.core, p.sel)

/-- The slots a request word names: one task's, or all (R335). -/
def State.requestTargets (s : State) (a : Nat) (w : Word) : List (Nat × SlotSel) :=
  let l := s.attachedSlots a
  if bits w 60 4 ≥ 4 then l else l.filter fun x => bits (s.taskAt x).gtid 0 40 = bits w 0 40

/-- Serves the oldest request, where it is of this kind and from this attachment; one that breaks the table is dropped. A
continue waits until the stop it ends has been served. -/
def serveRequest (slot kind : Nat) (f : State → Nat × SlotSel → State) (s : State) : Out :=
  match s.requests with
  | [] => .next s
  | (a, w) :: rest =>
    if a ≠ slot then .next s
    else if bits w 60 4 = 0 ∨ bits w 60 4 > 5 ∨ bits w 40 20 ≠ 0 then .next { s with requests := rest }
    else if bits w 60 4 ≠ kind then .next s
    else
      let l := s.requestTargets a w
      if kind ≠ 1 ∧ kind ≠ 4 ∧ s.unserved l then .next s
      else .next (l.foldl f { s with requests := rest })

/-- HALT: a debug halt request for one task (R335). -/
def execHalt (slot : Nat) (s : State) : Out := serveRequest slot 1 State.debugHalt s

/-- CONTINUE: one halted task goes on (R335). -/
def execContinueTask (slot : Nat) (s : State) : Out := serveRequest slot 2 (State.debugContinue · false) s

/-- STEP: one halted task goes on for one instruction (R335). -/
def execStepTask (slot : Nat) (s : State) : Out := serveRequest slot 3 (State.debugContinue · true) s

/-- HALT_ALL: a debug halt request for every task of the kernel (R335). -/
def execHaltAll (slot : Nat) (s : State) : Out := serveRequest slot 4 State.debugHalt s

/-- CONTINUE_ALL: every halted task of the kernel goes on (R335). -/
def execContinueAll (slot : Nat) (s : State) : Out := serveRequest slot 5 (State.debugContinue · false) s

/-! ### Stops (R336) -/

/-- The core whose slot a stop is of: as it stands, or saved. -/
def State.stopCore (s : State) (p : Stop) : Core :=
  if p.core < 8192 then s.coreOf p.core
  else match s.saved.find? fun x => x.key = p.core with
    | some x => match x.image with
      | some c => { c with task := x.slot }
      | none => s.coreOf (p.core % 8192)
    | none => s.coreOf (p.core % 8192)

/-- Writes the stop record, and the ring's count after it (R336; log entry 88). -/
def State.stopRecord (s : State) (a : Nat) (p : Stop) (dump : Nat) : State :=
  let ring := s.attach a 8
  if ring = 0 then s
  else
    let n := s.ringCount ring
    let at_ := ring + 64 + BitVec.ofNat 64 (32 * (n % 64))
    let d0 := BitVec.ofNat 64 (p.vt.toNat * 2 ^ 16 + dump * 2 ^ 8 + p.cause.toNat)
    let d1 := BitVec.ofNat 64 (dumpCore (p.core % 8192) * 2 ^ 40 + bits p.gtid 0 40)
    match s.recordPut (dcWriter s.reporter .note) pfContext [(at_ + 8, d1), (at_ + 16, BitVec.ofNat 64 (bits p.tpc 0 32)), (at_ + 24, p.tval),
        (at_, d0), (ring, BitVec.ofNat 64 (n + 1))] with
    | .ok t => t.countRing ring
    | .error _ => s

/-- The record of a stop whose dump is over, and then EVCTR (R336). -/
def State.stopServed (s : State) (a : Nat) (p : Stop) (dump : Nat) : State :=
  let t := s.stopRecord a p dump
  t.countAt t.reporter pfContext (t.attach a 0x10)

/-- A stop's dump, begun or gone on with; none where DUMP is 0 (R336). -/
def State.stopDump (s : State) (a : Nat) (p : Stop) : State × Option DumpJob :=
  let ta : Word := s.attach a 0x28
  match p.dump with
  | some j => let r := s.dumpOn s.reporter j; (r.1, some r.2)
  | none =>
    if ta = 0 then (s, none)
    else
      let b := s.beginDump s.reporter pfContext ta (s.attach a 0x30).toNat p.cause p.vt (s.stopCore p) p.sel
      let r := b.1.dumpOn s.reporter b.2
      (r.1, some r.2)

/-- DEBUG_STOP: stop n is served: its dump, and once that is over its record and EVCTR; without a debugger the kernel is killed with the
cause (R267, R336). -/
def execDebugStop (n : Nat) (s : State) : Out :=
  match s.stops[n]? with
  | none => .next s
  | some p => match s.attachmentOfKernel p.kernel with
    | none => .next ({ s with stops := dropAt s.stops n }.mustKill p.kernel p.cause)
    | some a => match s.stopDump a p with
      | (t, some j) =>
        if j.ended then .next ({ t with stops := dropAt t.stops n }.stopServed a p (if j.failed then 2 else 1))
        else .next { t with stops := t.stops.set n { p with dump := some j } }
      | (t, none) => .next ({ t with stops := dropAt t.stops n }.stopServed a p 0)

/-! ### Link counters (R341, R342) -/

/-- Whether a mesh link of a core faces the package edge: direction 0 east, 1 west, 2 south, 3 north; D0 lies west of D1 and
north of D2 (R342). -/
def facesEdge (core d : Nat) : Bool :=
  let x := coreDie core % 2 * 32 + coreX core
  let y := coreDie core / 2 * 32 + coreY core
  match d with
  | 0 => decide (x = 63)
  | 1 => decide (x = 0)
  | 2 => decide (y = 63)
  | _ => decide (y = 0)

/-- A link counter at a latch: what it has risen by up to each latch since package reset, FLITS and STALLS each wrapping at 2^32 (R341;
log entry 27). -/
def linkTotal (latches : List Nat) (i : Nat) : Word :=
  let sum := fun (o : Nat) => (latches.map fun m => bits (Config.linkCounter m i) o 32).foldl (· + ·) 0
  BitVec.ofNat 64 (sum 0 % 2 ^ 32 + sum 32 % 2 ^ 32 * 2 ^ 32)

/-- The dword of a snapshot from offset 0x40 on: counters of the mesh links, then of the span links; a link that faces the package edge
reads zero (R342). -/
def snapshotDword (latches : List Nat) (i : Nat) : Word :=
  if i < 4096 * 24 ∧ facesEdge (i / 24) (i / 6 % 4) then 0 else linkTotal latches i

/-- A snapshot's bytes from offset 8 on. -/
def State.snapshotBody (s : State) (x : Snap) : List Byte :=
  dwordBytes ([x.vt.zeroExtend 64, BitVec.ofNat 64 s.skipped, 0, 0, 0, 0, 0] ++ (List.range (4096 * 24 + 24 * 6)).map (snapshotDword x.latches))

/-- The control words of the link counters: ENABLE with an INTERVAL in range, SNAPS and LINKBUF as their table says (R341). -/
def State.snapsOk (s : State) : Bool :=
  let c := s.hubDword (objectBase 6)
  c.getLsbD 63 && decide (bits c 14 48 = 0 ∧ 1 ≤ bits c 0 14 ∧ bits c 0 14 ≤ 10000) &&
    decide (1 ≤ (s.hubDword (objectBase 6 + 16)).toNat ∧ (s.hubDword (objectBase 6 + 16)).toNat ≤ 255 ∧
      taOfs (s.hubDword (objectBase 6 + 8)) % 64 = 0)

/-- Whether a sample falls due in this cycle (R342). -/
def State.sampleDue (s : State) : Bool := s.snapsOk && decide (s.vt.toNat % (bits (s.hubDword (objectBase 6)) 0 14 * 1300) = 0)

/-- A snapshot write that faults sets ERR and clears ENABLE (R341). -/
def State.snapFault (s : State) : State :=
  ({ s with snap := none }).ownPut (objectBase 6) ((s.hubDword (objectBase 6) &&& ~~~(2 ^ 63 : Word)) ||| (2 ^ 62 : Word))

/-- Dispatch core 0 as the writer of a snapshot (R342). -/
def snapWriter : HubSource := dcWriter hubCore .snapshot

/-- The next part of a snapshot is written once the part before has settled: dword 0 as zero, the body, SEQ; it is complete once SEQ has
settled (R341, R342). -/
def State.snapOn (s : State) (x : Snap) : State :=
  let ta := s.hubDword (objectBase 6 + 8) + BitVec.ofNat 64 (0x100000 * (s.snapshots % max 1 (s.hubDword (objectBase 6 + 16)).toNat))
  if x.failed then s.snapFault
  else if s.hubDue .snapshot then s
  else match x.stage with
    | 0 => match s.hubWrite snapWriter pfContext ta (natBytes 8 0) with
      | .error _ => s.snapFault
      | .ok t => { t with snap := some { x with stage := 1 } }
    | 1 =>
      let l := s.snapshotBody x
      let w := writeBody snapWriter pfContext ta 8 l (cutLines (l.length / 64 + 2) (taOfs ta + 8) 0 l.length) s 0
      (match w.fault with
        | some _ => w.state.snapFault
        | none => { w.state with snap := some { x with stage := 2 } })
    | 2 => match s.hubWrite snapWriter pfContext ta (natBytes 8 (s.snapshots + 1)) with
      | .error _ => s.snapFault
      | .ok t =>
        if t.hubDue .snapshot then { t with snap := some { x with stage := 3 } } else { t with snap := none, snapshots := t.snapshots + 1 }
    | _ => { s with snap := none, snapshots := s.snapshots + 1 }

/-- LINK_SNAPSHOT: in a cycle whose VT is a multiple of the interval every counter is latched, or the sample is dropped and counted while an
earlier one is still being written; in any other cycle the snapshot in hand goes on (R341, R342). -/
def execLinkSnapshot (s : State) : Out :=
  match s.snap with
  | some x =>
    if s.sampleDue ∧ s.vt ≠ x.due then .next { s with skipped := s.skipped + 1, snap := some { x with due := s.vt } }
    else if x.due = s.vt then .next s
    else .next (s.snapOn x)
  | none =>
    if s.sampleDue then
      .next { s with latches := s.latches ++ [s.tick], snap := some { vt := s.vt, due := s.vt, latches := s.latches ++ [s.tick], stage := 0, failed := false } }
    else .next s

end Sys2Proof.Machine
end

