-- ==== Sys2Proof/Machine/Early.lean ====
section
/-! DEFINITION. Sending loads early, while a task waits for a long-latency result (R182 and R183 of
spec/11_consistency_model.md). -/

namespace Sys2Proof.Machine

/-! ### What the instructions between leave behind -/

/-- A slot's witness registers as an instruction leaves them: engine commands, publications and an epilogue's w15 are pending. -/
def Slot.wAhead (t : Slot) (i : Instr) : Slot :=
  let pend (d : WReg) : Slot := { t with w := t.w.set d (.pending .engine 0) }
  let known (d : Option WReg) : Slot := match d with
    | some d => { t with w := t.w.set d .null }
    | none => t
  match i with
  | .cpy _ _ d _ _ => pend d
  | .cpys _ _ d _ _ => pend d
  | .gath _ _ d _ _ => pend d
  | .fill _ _ d _ _ => pend d
  | .lay _ _ d _ _ => pend d
  | .deal _ _ d _ _ => pend d
  | .pub _ d _ => pend d
  | .mepi _ _ _ wv _ _ _ _ _ => if wv then pend 15 else t
  | .stWitness _ _ w _ _ => known (some w)
  | .postedAadd w _ _ _ _ => known w
  | .postedAand w _ _ _ _ => known w
  | .postedAor w _ _ _ _ => known w
  | .postedAxor w _ _ _ _ => known w
  | .postedAmin w _ _ _ _ => known w
  | .postedAmax w _ _ _ _ => known w
  | .postedAfadd w _ _ _ => known w
  | .xaddFp32 w _ _ _ => known w
  | .xaddBf16 w _ _ _ => known w
  | .xaddFp8 w _ _ _ => known w
  | .cadd w _ _ _ => known w
  | .xclr w _ _ => known w
  | .wmerge d _ _ => known (some d)
  | .wnull d => known (some d)
  | .wstamp _ d => known (some d)
  | .wput d _ _ => known (some d)
  | _ => t

/-- Whether a register's value is settled: no result is outstanding for it and no instruction looked at writes it (R183). -/
def State.gSettled (s : State) (seen : List Instr) (a : GReg) : Bool :=
  !(s.outstanding.any fun r => decide (r.reg = a)) && !seen.any fun i => (gWrites i).contains a

/-- Whether no instruction looked at writes an e register. -/
def eSettled (seen : List Instr) (b : EReg) : Bool :=
  !seen.any fun i => match i with
    | .emovEG d _ => decide (d = b)
    | .emovEE d _ => decide (d = b)
    | _ => false

/-- Whether no instruction looked at writes a shape or an accumulator descriptor. -/
def shapesSettled (seen : List Instr) : Bool :=
  !seen.any fun i => match i with
    | .tshape _ _ => true
    | .ctlw _ _ => true
    | .mrel _ => true
    | .mepi _ _ _ _ _ _ rel _ _ => rel
    | _ => false

/-- The lanes a vector store under a mask writes: every lane where the mask is not settled yet. -/
def State.lanesAhead (s : State) (seen : List Instr) (mask : Option KReg) : List (Fin 64) :=
  match mask with
  | none => List.finRange 64
  | some k =>
    if (s.core.vector.any fun o => maskWrites o.instr k) || seen.any fun i => maskWrites i k then List.finRange 64
    else enabledLanes s.core.k[k]

/-! ### The lines stored to (R182) -/

/-- The lines of an access of n bytes at a tree address; none where they cannot be told yet. -/
def State.lineAhead (s : State) (acc : AccOp) (align : Bool) (ta : Word) (n : Nat) : Option (List Place) :=
  match s.place s.core.id s.slot.ctx acc align ta n with
  | .found _ ps => some (ps.map Place.line)
  | _ => none

/-- The lines of a scalar access at [gA + d]. -/
def State.linesAhead (s : State) (seen : List Instr) (a : GReg) (d : Int) (acc : AccOp) (n : Nat) : Option (List Place) :=
  if !s.gSettled seen a then none else (offsetAdd (s.g a) d).bind fun ta => s.lineAhead acc true ta n

/-- The lines of rows or lanes of n bytes at displacements from gA. -/
def State.rowsAhead (s : State) (seen : List Instr) (a : GReg) (ds : List Int) (n : Nat) : Option (List Place) :=
  if !s.gSettled seen a then none
  else match rowAddresses (s.g a) ds with
    | none => none
    | some tas => ((tas.flatMap fun ta => rowPieces ta n).mapM fun p => s.lineAhead .store false p.1 p.2).map List.flatten

/-- Bytes of an atomic's word. -/
def wordBytes (wide : Bool) : Nat := if wide then 8 else 4

/-- The lines on which an instruction keeps a load behind it: those it stores to, and those an LD reads, since loads of one line keep
program order; none where they cannot be told (R182). -/
def State.storesAhead (s : State) (seen : List Instr) : Instr → Option (List Place)
  | .st _ size disp a _ => s.linesAhead seen a (s.disp disp size.bytes) .store size.bytes
  | .stWitness _ size _ a _ => s.linesAhead seen a 0 .store size.bytes
  | .postedAadd _ _ w a _ => s.linesAhead seen a 0 .posted (wordBytes w)
  | .postedAand _ _ w a _ => s.linesAhead seen a 0 .posted (wordBytes w)
  | .postedAor _ _ w a _ => s.linesAhead seen a 0 .posted (wordBytes w)
  | .postedAxor _ _ w a _ => s.linesAhead seen a 0 .posted (wordBytes w)
  | .postedAmin _ _ w a _ => s.linesAhead seen a 0 .posted (wordBytes w)
  | .postedAmax _ _ w a _ => s.linesAhead seen a 0 .posted (wordBytes w)
  | .postedAfadd _ _ a _ => s.linesAhead seen a 0 .posted 4
  | .retAadd _ _ w a _ _ => s.linesAhead seen a 0 .returning (wordBytes w)
  | .retAand _ _ w a _ _ => s.linesAhead seen a 0 .returning (wordBytes w)
  | .retAor _ _ w a _ _ => s.linesAhead seen a 0 .returning (wordBytes w)
  | .retAxor _ _ w a _ _ => s.linesAhead seen a 0 .returning (wordBytes w)
  | .retAmin _ _ w a _ _ => s.linesAhead seen a 0 .returning (wordBytes w)
  | .retAmax _ _ w a _ _ => s.linesAhead seen a 0 .returning (wordBytes w)
  | .aswap _ _ w a _ _ => s.linesAhead seen a 0 .returning (wordBytes w)
  | .acas _ _ w a _ _ => s.linesAhead seen a 0 .returning (wordBytes w)
  | .retAfadd _ _ a _ _ => s.linesAhead seen a 0 .returning 4
  | .cadd _ _ a _ => s.linesAhead seen a 0 .cadd 8
  | .xaddFp32 _ _ a _ => s.linesAhead seen a 0 .xadd 64
  | .xaddBf16 _ _ a _ => s.linesAhead seen a 0 .xadd 64
  | .xaddFp8 _ _ a _ => s.linesAhead seen a 0 .xadd 64
  | .xclr _ _ a => s.linesAhead seen a 0 .xadd 64
  | .ld _ _ size disp a _ => s.linesAhead seen a (s.disp disp size.bytes) .load size.bytes
  | .tst d a disp b =>
    let sh := s.core.mshape[d]
    if !eSettled seen b || !shapesSettled seen then none
    else if !shNonempty sh then some []
    else s.rowsAhead seen a (tileRows s (shRows sh) disp (s.e b)) (shCols sh * elemSize (shType sh))
  | .mepi _ _ _ _ _ a _ out acc =>
    let x := s.core.accd[acc]
    if !eSettled seen 0 || !shapesSettled seen || s.releasePending acc then none
    else s.rowsAhead seen a ((List.range (if accCols x = 0 then 0 else accRows x)).map fun (r : Nat) => (r : Int) * (s.e 0).toInt)
      (accCols x * out.bytes)
  | .vst mask width _ disp a _ =>
    s.rowsAhead seen a ((s.lanesAhead seen mask).map fun (j : Fin 64) => s.disp disp (64 * width.bytes) + (j.val : Int) * width.bytes)
      width.bytes
  | .vsts mask width _ b a _ =>
    if !eSettled seen b then none
    else s.rowsAhead seen a ((s.lanesAhead seen mask).map fun (j : Fin 64) => (j.val : Int) * (s.e b).toInt) width.bytes
  | _ => some []

/-! ### Looking ahead -/

/-- The instruction and its length at an image offset. -/
def State.peekAt (s : State) (pc : Word) : Option (Instr × Nat) :=
  match fetch s.core s.sel pc with
  | .instr i _ n => some (i, n)
  | _ => none

/-- A load found ahead that may be sent early: its offset, tree address and bytes. -/
structure LoadAhead where
  pc : Word
  ta : Word
  bytes : Nat
  /-- the lines that accesses between touch -/
  lines : List Place

/-- Looks ahead from an offset: the unwitnessed load `ahead` positions on, if nothing between keeps it from being sent and its address
has been computed (R182, R183). -/
def State.lookAhead (s : State) : Nat → Word → List Instr → List Place → Option LoadAhead
  | 0, pc, seen, lines => match s.peekAt pc with
    | some (.ld _ _ size disp a _, _) =>
      if !s.gSettled seen a then none
      else (offsetAdd (s.g a) (s.disp disp size.bytes)).map fun ta => { pc := pc, ta := ta, bytes := size.bytes, lines := lines }
    | _ => none
  | n + 1, pc, seen, lines => match s.peekAt pc with
    | some (i, len) =>
      if stopsEarly (seen.foldl Slot.wAhead s.slot) i then none
      else match s.storesAhead seen i with
        | some ls => s.lookAhead n (pc + BitVec.ofNat 64 len) (seen ++ [i]) (ls ++ lines)
        | none => none
    | none => none

/-- Sends a load found ahead, and has it performed: an LD of the package's HBM whose line nothing earlier has still to touch. One that
would fault is not sent; a translation missing is walked for (R182). -/
def State.sendEarly (s : State) (x : LoadAhead) : State :=
  match s.reach s.core.id s.slot.ctx .load true x.ta x.bytes with
  | .ok (.object n h v o) => match s.locate s.core.id s.slot.ctx false x.ta (.object n h v o) with
    | .wait t => t
    | .found t [.hbm pa] =>
      let ls := (Place.hbm pa).lines x.bytes
      if meet ls x.lines || s.loadHeld ls s.queued || s.unread ls then s
      else
        let v : Source := if s.poisonedAt (.hbm pa) then .poison x.ta else .ready (BitVec.ofNat 64 (s.natAt (.hbm pa) x.bytes))
        { t with early := t.early ++ [{ core := s.core.id, sel := s.sel, pc := x.pc, line := (Place.hbm pa).line, ta := x.ta, value := v }] }
    | _ => s
  | _ => s

/-- EARLY_LOAD_SEND: while the slot in focus waits at an instruction for a long-latency result, the load `ahead` positions past it is
sent early, at most four positions on (R182). -/
def execEarlyLoadSend (ahead : Nat) (s : State) : Out :=
  if s.slot.run = .running ∧ s.slot.request = none ∧ s.slot.rep = none ∧ gate s = .wait ∧ 1 ≤ ahead ∧ ahead ≤ 4 then
    match s.lookAhead ahead s.slot.pc [] [] with
    | none => .next s
    | some x =>
      if s.early.any fun e => decide (e.core = s.core.id ∧ e.sel = s.sel ∧ e.pc = x.pc) then .next s else .next (s.sendEarly x)
  else .next s

end Sys2Proof.Machine
end

