-- ==== Sys2Proof/Machine/Fabric.lean ====
section
/-! DEFINITION. Span links and routes (R343 to R350) and the host's operations at the Ultra Ethernet ports (R354 to R357) of
spec/24_fabric_and_host_link.md. -/

namespace Sys2Proof.Machine

/-! ### Span links (R345 to R349) -/

/-- STATE of a link's dword (R349). -/
def LinkState.code : LinkState → Nat
  | .unused => 0
  | .training => 1
  | .full => 2
  | .erasure => 3
  | .narrow => 4
  | .removed => 5

/-- The dword of a link in `/hv/links` (R349). -/
def Link.dword (k : Link) : Word :=
  BitVec.ofNat 64 (k.retrains.toNat * 2 ^ 48 + k.replays.toNat * 2 ^ 32 + k.good.toNat * 2 ^ 20 +
    (match k.erased with
      | some i => i.val
      | none => 15) * 2 ^ 16 + k.peer.toNat / 32 * 2 ^ 8 + k.peer.toNat % 32 * 2 ^ 3 + k.state.code)

/-- What a removed link has accepted is neither delivered nor acknowledged (R347). -/
def State.dropAccepted (s : State) (l : Nat) : State :=
  { s with
    stores := s.stores.map fun x => if x.via = some l ∧ x.phase = .issued then { x with out := false } else x
    kept := s.kept.map fun k => if k.link = l then { k with out := false } else k }

/-- Replaces a link and its dword. -/
def State.setLink (s : State) (l : Nat) (k : Link) : State :=
  let t := ({ s with links := tabPut s.links l k }).hubPut (objectBase 8 + 8 * l) k.dword
  if k.state = .removed then t.dropAccepted l else t

/-- Lanes or banks of a mask. -/
def maskCount (x : BitVec 9) : Nat := ((List.range 9).filter fun i => x.getLsbD i).length

/-- A lane or bank as a mask. -/
def oneOf (i : Fin 9) : BitVec 9 := 1#9 <<< i.val

/-- A link that has too few lanes, or banks for fewer than 18 flits, is Removed (R347). -/
def Link.check (k : Link) : Link :=
  if maskCount k.good < 5 ∨ 16 * maskCount k.banks < 18 then { k with state := .removed, erased := none } else k

/-- A link begins to train again (R346, R349). -/
def Link.retrain (k : Link) : Link :=
  { k with state := .training, erased := none, retrains := k.retrains + 1, refused := none, again := 0, keep := none }

/-- A link begins to train again at its current width (R348). -/
def Link.retrainAsIs (k : Link) : Link := { k.retrain with keep := some k.state }

/-- The one lane that is not good. -/
def lostLane (good : BitVec 9) : Option (Fin 9) := (List.finRange 9).find? fun i => !good.getLsbD i.val

/-- A link as its training ends with these good lanes: a narrow one that kept its width stays narrow, and one with an erased lane keeps
that (R346, R348). -/
def Link.trained (k : Link) (g : BitVec 9) : Link :=
  let j : Link := { k with good := g, banks := k.banks &&& g, keep := none }
  if maskCount g < 5 then { j with state := .removed }
  else if k.keep = some .narrow then { j with state := .narrow }
  else if k.keep = some .erasure ∧ maskCount g = 8 then { j with state := .erasure, erased := lostLane g }
  else { j with state := if g = 0x1FF then .full else .narrow }

/-- The five lowest-numbered good lanes, which a narrow link uses (R346). -/
def narrowLanes (good : BitVec 9) : List Nat := ((List.range 9).filter fun i => good.getLsbD i).take 5

/-- A lane fails in a link's state; its bank is retired with it (R346, R347). -/
def Link.lose (k : Link) (lane : Fin 9) : Link :=
  let j : Link := { k with good := k.good &&& ~~~(oneOf lane), banks := k.banks &&& ~~~(oneOf lane) }
  match k.state with
  | .full => ({ j with state := .erasure, erased := some lane }).check
  | .erasure => j.retrain.check
  | .narrow => if (narrowLanes k.good).contains lane.val then j.retrain.check else j.check
  | .training => j.check
  | _ => k

/-- LANE_FAILURE: a good lane of a link fails (R346). -/
def execLaneFailure (link : Nat) (lane : Fin 9) (s : State) : Out :=
  if link ≥ Config.links then .fault .noSuchAgent
  else if (s.link link).good.getLsbD lane.val then .next (s.setLink link ((s.link link).lose lane)) else .next s

/-- LINK_TRAINING_COMPLETE: training ends with the lanes found good among those not failed: Full, Narrow or Removed; what is at
the far end is known from then on (R346, R349). -/
def execLinkTrainingComplete (link : Nat) (good : BitVec 9) (s : State) : Out :=
  if link ≥ Config.links then .fault .noSuchAgent
  else
    let k := s.link link
    let g := good &&& k.good
    if k.state ≠ .training then .next s
    else if maskCount g < 5 then .next (s.setLink link (k.trained g))
    else .next (s.setLink link ({ k.trained g with peer := Config.linkPeer link }).check)

/-- LINK_RETRAIN_REQUEST: firmware requests training of a removed link; every lane is tried again (R346). -/
def execLinkRetrainRequest (link : Nat) (s : State) : Out :=
  if link ≥ Config.links then .fault .noSuchAgent
  else if (s.link link).state = .removed then .next (s.setLink link { (s.link link).retrain with good := 0x1FF, banks := 0x1FF })
  else .next s

/-- BANK_RETIRE: a receive bank with an uncorrectable error is retired (R347). -/
def execBankRetire (link : Nat) (bank : Fin 9) (s : State) : Out :=
  if link ≥ Config.links then .fault .noSuchAgent
  else .next (s.setLink link ({ s.link link with banks := (s.link link).banks &&& ~~~(oneOf bank) }).check)

/-- A message from another device as its gateway passes it on, its sequence not yet noted (R352). -/
def arriving (m : FarMsg) (link : Nat) (vt : BitVec 48) : Msg :=
  { entry := 0, src := m.src.toNat, sel := m.sel, reply := m.reply, dst := m.dst.toNat, kernel := 0, vf := m.vf,
    body := match m.body with
      | .message env payload => .message env payload
      | .hold ch v => .hold ch v
      | .ready ch v => .ready ch v
    sends := 0, waiting := false, since := vt, far := none
    origin := some { dev := m.dev.toNat, link := link, seq := m.seq, noted := false }, poisoned := false }

/-- FLIT_RECEIVE: the next flit in sequence is acknowledged, or refused when it cannot be corrected; while a refused flit is
awaited, and out of sequence, flits are discarded (R345, R348). A message for this device that it ends goes on to its core (R343, R352). -/
def execFlitReceive (link : Nat) (seq : BitVec 12) (what : FlitIn) (s : State) : Out :=
  if link ≥ Config.links then .fault .noSuchAgent
  else
    let k := s.link link
    if !k.state.carries ∨ k.refused.isSome ∨ seq ≠ k.expect then .next s
    else
      let taken := s.setLink link { k with expect := k.expect + 1, again := 0 }
      match what with
      | .bad => .next (s.setLink link { k with refused := some seq })
      | .part => .next taken
      | .message m => .next { taken with msgs := taken.msgs ++ [arriving m link s.vt] }

/-- FLIT_REPLAY: the sender sends the refused flit and every later one again; the eighth replay of one flit in succession makes
the link train again at its current width (R348). -/
def execFlitReplay (link : Nat) (seq : BitVec 12) (s : State) : Out :=
  if link ≥ Config.links then .fault .noSuchAgent
  else
    let k := s.link link
    if !k.state.carries ∨ k.refused ≠ some seq then .next s
    else
      let j : Link := { k with refused := none, again := k.again + 1, replays := k.replays + 1 + (Config.flitsAfter s.tick).zeroExtend 16 }
      .next (s.setLink link (if k.again + 1 ≥ 8 then j.retrainAsIs else j))

/-- Whether a packet that was sent at a VT may be discarded so: by its lifetime after 2^17 cycles (R350). -/
def State.discards (s : State) (why : Discard) (sent : BitVec 48) : Bool :=
  decide (why ≠ .lifetime) || decide ((s.vt - sent).toNat ≥ 2 ^ 17)

/-- PACKET_LIFETIME_EXPIRY: the copy of a store, or of a message a gateway keeps, that is on its way is discarded and not acknowledged: in
the fabric after 2^17 cycles, or stomped or with a failed packet CRC (R350), or, a store anywhere in the device too, as its payload
fails the end-to-end check (R331). It is sent again (R351, R352). -/
def execPacketLifetimeExpiry (loss : PacketLoss) (s : State) : Out :=
  match loss.packet with
  | .store n => match s.stores[n]? with
    | none => .next s
    | some x =>
      let here : Bool := match x.place with
        | .peer _ _ _ => true
        | .host _ _ => false
        | _ => decide (loss.why = .endToEnd)
      if x.phase = .issued ∧ x.out ∧ here ∧ s.discards loss.why x.sent then .next (s.setStore n { x with out := false }) else .next s
  | .kept n => match s.kept[n]? with
    | none => .next s
    | some k => if k.out ∧ s.discards loss.why k.sent then .next { s with kept := s.kept.set n { k with out := false } } else .next s

/-- ROUTE_ENTRY_UPDATE: a route entry, as it stands, takes effect in the interfaces of a die (R344). -/
def execRouteEntryUpdate (die dev : Nat) (s : State) : Out :=
  if die ≥ 4 ∨ dev ≥ 256 then .fault .noSuchAgent
  else .next { s with routes := tabPut s.routes (256 * die + dev) (s.hubDword (objectBase 7 + 8 * (256 * die + dev))) }

/-! ### Jobs (R355, R356) -/

/-- JOB_TABLE_UPDATE: a job-table entry, as it stands, takes effect at its port; one with a reserved bit set is ignored
(R356). -/
def execJobTableUpdate (port entry : Nat) (s : State) : Out :=
  if port ≥ 8 ∨ entry ≥ 256 then .fault .noSuchAgent
  else
    let key := 256 * port + entry
    let lo := s.hubDword (objectBase 12 + 16 * key)
    let hi := s.hubDword (objectBase 12 + 16 * key + 8)
    let j : Job := { job := BitVec.ofNat 24 (bits lo 32 24), ord := hi.getLsbD 0, unord := hi.getLsbD 1, ctx := bits lo 0 16 }
    if !lo.getLsbD 63 ∨ bits lo 56 7 ≠ 0 ∨ bits lo 16 16 ≠ 0 ∨ bits hi 2 62 ≠ 0 then .next { s with jobs := tabDel s.jobs key }
    else .next { s with jobs := tabPut s.jobs key j }

/-- Local endpoint of a port (the ports stand past the dispatch cores; log entry 23). -/
def portEndpoint (port : Nat) : Nat := 0x1124 + port

/-- The stream of a flow (R357). -/
def flowStream (flow : Nat) : Stream := ⟨flow % 8, Nat.mod_lt _ (by decide)⟩

/-- A store of a port on the stream of its packet's flow; it joins no datum (R148, R357). -/
def State.portStore (s : State) (x : PortPiece) : State :=
  let key := 8 * x.packet.port + x.packet.flow % 8
  let seq := tabGetD s.portSeqs key 0 + 1
  let w : Sender := { src := portEndpoint x.packet.port, origin := 0, kernel := 0, ctx := x.ctx, covered := false, packet := some x.packet,
                      hub := none }
  ({ s with portSeqs := tabPut s.portSeqs key seq }).putStores w (flowStream x.packet.flow) seq x.op x.ta none none x.places 0

/-- Whether the stream of a packet's flow has room for another store (R140). -/
def State.portRoom (s : State) (p : Packet) : Bool := decide (s.unsettled (portEndpoint p.port) 0 (flowStream p.flow) < 64)

/-- Pieces enter their ports' streams in arrival order, each as its stream has room (R140, R357). -/
def portIssue : List PortPiece → State → State
  | [], s => s
  | x :: l, s =>
    if s.portRoom x.packet && !s.portWork.any (fun y => decide (y.packet.port = x.packet.port ∧ y.packet.flow % 8 = x.packet.flow % 8)) then
      portIssue l (s.portStore x)
    else portIssue l { s with portWork := s.portWork ++ [x] }

/-- The pieces that wait go on as far as there is room. -/
def State.portOn (s : State) : State := if s.portWork.isEmpty then s else portIssue s.portWork { s with portWork := [] }

/-- What follows the acknowledgement of a store: a command's first-byte record, and what waited for room in a stream goes on (R140,
R339). -/
def State.afterSettle (s : State) (x : Option Store) : State :=
  ((match x with
    | some x => if s.stores.contains x then s else s.firstByte x
    | none => s).portOn).hubOn

/-- STORE_SETTLE: the acknowledgement of store n reaches its source (R140, R153). -/
def execStoreSettle (n : Nat) (s : State) : Out := .next ((s.settleStep n).afterSettle s.stores[n]?)

/-- HOST_WRITE_ACKNOWLEDGE: the acknowledgement of the RMA Write that carries store n settles it (R153, R358). -/
def execHostWriteAcknowledge (n : Nat) (s : State) : Out := .next ((s.hostStep n).afterSettle s.stores[n]?)

/-- A port answers a packet at once: an error, or one that carries no byte. -/
def State.portAnswer (s : State) (port : Nat) (flow : Option Nat) (r : PortReply) : State :=
  { s with answers := tabPut s.answers port { flow := flow, reply := r, old := none } }

/-- The pieces of an RMA Write, a line each, with their places. -/
def State.portPieces (s : State) (p : Packet) (ctx : Nat) (ta : Word) (l : List Byte) : List (Nat × Nat) → Except Cause (State × List PortPiece)
  | [] => .ok (s, [])
  | (k, n) :: r =>
    let a := mkTa (taHandle ta) (taOfs ta + k)
    match s.hubReach ctx .store false a n with
    | .error c => .error c
    | .ok (t, ps) => match t.portPieces p ctx ta l r with
      | .error c => .error c
      | .ok (u, m) => .ok (u, { packet := p, ctx := ctx, op := .bytes (((l.drop k).take n).map some), ta := a, places := ps } :: m)

/-- The next packet of a port, with a number of its own. -/
def State.nextPacket (s : State) (port flow : Nat) (fetch : Bool) : Packet × State :=
  ({ port := port, flow := flow, id := s.fresh.1, fetch := fetch }, s.fresh.2)

/-- RMA_WRITE: a host write, checked whole as a store in the job's context, aligned where it has a store's size (log entry 82), then sent to
the homes; a check that fails refuses it with an error response and changes nothing (R139, R355, R357). -/
def execRmaWrite (port : Nat) (job : BitVec 24) (ordered : Bool) (flow : Nat) (ta : Word) (data : List Byte) (s : State) : Out :=
  if port ≥ 8 then .fault .noSuchAgent
  else if s.portDown port then .next s
  else match s.jobContext port job ordered with
  | none => .next ((s.portRefuses port).portAnswer port (some flow) .refused)
  | some ctx =>
    let k := s.nextPacket port flow false
    match s.hubReach ctx .store (decide (data.length = 1 ∨ data.length = 2 ∨ data.length = 4 ∨ data.length = 8)) ta data.length with
    | .error _ => .next (s.portAnswer port (some flow) .refused)
    | .ok _ => match k.2.portPieces k.1 ctx ta data (cutLines (data.length / 64 + 2) (taOfs ta) 0 data.length) with
      | .error _ => .next (s.portAnswer port (some flow) .refused)
      | .ok (t, []) => .next (t.portAnswer port (some flow) .done)
      | .ok (t, l) => .next (portIssue l t)

/-- Whether a tree address names a counter object. -/
def State.namesCounter (s : State) (ctx : Nat) (ta : Word) : Bool :=
  match s.handleOf hubCore ctx (taHandle ta) with
  | .ok h => decide (s.kindOf h.node = some .ctr)
  | .error _ => false

/-- UET_ATOMIC: a host Atomic, as a posted or a returning atomic; a posted 64-bit add to a counter is CADD; swap and
compare-and-swap return (R354, R355). -/
def execUetAtomic (port : Nat) (job : BitVec 24) (ordered : Bool) (flow : Nat) (op : UetOp) (wide fetch : Bool) (ta operand cmp : Word)
    (s : State) : Out :=
  if port ≥ 8 then .fault .noSuchAgent
  else if s.portDown port then .next s
  else match s.jobContext port job ordered with
  | none => .next ((s.portRefuses port).portAnswer port (some flow) .refused)
  | some ctx =>
    let returns := fetch || decide (op = .swap ∨ op = .cas)
    let k := s.nextPacket port flow returns
    let counter := !returns && wide && decide (op = .add) && s.namesCounter ctx ta
    let acc : AccOp := if counter then .cadd else if returns then .returning else .posted
    let o : StoreOp := if counter then .cadd operand else .atomic op wide operand cmp
    match k.2.hubReach ctx acc true ta o.length with
    | .error _ => .next (s.portAnswer port (some flow) .refused)
    | .ok (t, ps) => .next (portIssue [{ packet := k.1, ctx := ctx, op := o, ta := ta, places := ps }] t)

/-- RMA_READ: answered with "operation not supported", and counted; nothing is read (R357). -/
def execRmaRead (port : Nat) (s : State) : Out :=
  if port ≥ 8 then .fault .noSuchAgent else if s.portDown port then .next s else .next ((s.portRefuses port).portAnswer port none .unsupported)

end Sys2Proof.Machine
end

