-- ==== Sys2Proof/Machine/Digest.lean ====
section
/-! DEFINITION. SHA3-256, which R364 and R365 name: the sponge over Keccak-f[1600] with a rate of 136 bytes (FIPS 202; log entry 92). -/

namespace Sys2Proof.Machine

/-- Lane (x, y) of the 5 × 5 lanes, coordinates taken modulo 5. -/
def keccakLane (l : List Word) (x y : Nat) : Word := l.getD (x % 5 + 5 * (y % 5)) 0

/-- The 25 lanes that a function of their coordinates gives. -/
def lanesOf (f : Nat → Nat → Word) : List Word := (List.range 25).map fun i => f (i % 5) (i / 5)

/-- How far step ρ turns each lane. -/
def laneTurns : List Nat :=
  [0, 1, 62, 28, 27, 36, 44, 6, 55, 20, 3, 10, 43, 25, 39, 41, 45, 15, 21, 8, 18, 2, 61, 56, 14]

/-- The constants of step ι. -/
def roundConstants : List Word :=
  [0x0000000000000001, 0x0000000000008082, 0x800000000000808A, 0x8000000080008000, 0x000000000000808B, 0x0000000080000001,
   0x8000000080008081, 0x8000000000008009, 0x000000000000008A, 0x0000000000000088, 0x0000000080008009, 0x000000008000000A] ++
  [0x000000008000808B, 0x800000000000008B, 0x8000000000008089, 0x8000000000008003, 0x8000000000008002, 0x8000000000000080,
   0x000000000000800A, 0x800000008000000A, 0x8000000080008081, 0x8000000000008080, 0x0000000080000001, 0x8000000080008008]

/-- Step θ. -/
def keccakTheta (a : List Word) : List Word :=
  let c := (List.range 5).map fun x => keccakLane a x 0 ^^^ keccakLane a x 1 ^^^ keccakLane a x 2 ^^^ keccakLane a x 3 ^^^ keccakLane a x 4
  let d := (List.range 5).map fun x => c.getD ((x + 4) % 5) 0 ^^^ (c.getD ((x + 1) % 5) 0).rotateLeft 1
  lanesOf fun x y => keccakLane a x y ^^^ d.getD x 0

/-- Steps ρ and π. -/
def keccakRhoPi (a : List Word) : List Word :=
  lanesOf fun x y =>
    let u := (x + 3 * y) % 5
    (keccakLane a u x).rotateLeft (laneTurns.getD (u + 5 * x) 0)

/-- Step χ. -/
def keccakChi (a : List Word) : List Word :=
  lanesOf fun x y => keccakLane a x y ^^^ (~~~keccakLane a (x + 1) y &&& keccakLane a (x + 2) y)

/-- One round: θ, ρ, π, χ and ι. -/
def keccakRound (a : List Word) (rc : Word) : List Word :=
  match keccakChi (keccakRhoPi (keccakTheta a)) with
  | [] => []
  | x :: l => (x ^^^ rc) :: l

/-- Keccak-f[1600]: 24 rounds. -/
def keccak (a : List Word) : List Word := roundConstants.foldl keccakRound a

/-- The dwords of a block of 136 bytes. -/
def blockLanes (l : List Byte) : List Word :=
  (List.range 25).map fun i => if i < 17 then BitVec.ofNat 64 (leNat ((l.drop (8 * i)).take 8)) else 0

/-- Absorbs n blocks of 136 bytes. -/
def absorb : Nat → List Byte → List Word → List Word
  | 0, _, a => a
  | n + 1, l, a => absorb n (l.drop 136) (keccak (List.zipWith (· ^^^ ·) a (blockLanes (l.take 136))))

/-- A message as SHA3 pads it: 01, then 10*1, least significant bits first. -/
def sha3Pad (l : List Byte) : List Byte :=
  let k := 136 - l.length % 136
  if k = 1 then l ++ [0x86] else l ++ [0x06] ++ List.replicate (k - 2) 0 ++ [0x80]

/-- The SHA3-256 digest of bytes, 32 bytes. -/
def sha3 (l : List Byte) : List Byte :=
  let p := sha3Pad l
  let a := absorb (p.length / 136) p (List.replicate 25 0)
  (List.range 4).flatMap fun i => natBytes 8 (a.getD i 0).toNat

end Sys2Proof.Machine
end

