-- ==== Sys2Proof/Machine/System.lean ====
section
/-! DEFINITION. Virtual functions, attestation, bring-up and thermal throttling (R359 to R367 of
spec/25_system_setup_and_package.md). -/

namespace Sys2Proof.Machine

/-! ### Virtual functions (R359 to R362) -/

/-- Sectors a record grants whole (R360). -/
def State.sectorsOf (s : State) (f : Nat) : Nat := if s.vfField f 1 1 = 0 then s.vfField f 2 2 else 0

/-- Whether the SECTORS fields of two records overlap (R361). -/
def State.sectorsMeet (s : State) (f g : Nat) : Bool := decide (s.vfField f 2 2 &&& s.vfField g 2 2 ≠ 0)

/-- How many bits of a 16-bit mask are set. -/
def sectorCount (m : Nat) : Nat := ((List.range 16).filter fun i => decide (m / 2 ^ i % 2 = 1)).length

/-- The enabled records besides f, and f. -/
def State.withRecord (s : State) (f : Nat) : List Nat := (List.range 17).filter fun g => decide (g = f ∨ s.vfField g 0 1 = 1)

/-- Sum over records. -/
def sumOver (l : List Nat) (x : Nat → Nat) : Nat := (l.map x).foldl (· + ·) 0

/-- Whether two queue ranges overlap. -/
def State.queuesMeet (s : State) (f g : Nat) : Bool :=
  rangesMeet (s.vfField f 8 2) (s.vfField f 0xA 2) (s.vfField g 8 2) (s.vfField g 0xA 2)

/-- The kind of a node of this device. -/
def State.isKind (s : State) (n : Nat) (k : Kind) : Bool :=
  match s.node n with
  | some nd => decide (nd.kind = k)
  | none => false

/-- Whether a reserved byte of a record is nonzero (R359). -/
def State.reservedSet (s : State) (f : Nat) : Bool :=
  decide (s.vfField f 0xE 2 ≠ 0 ∨ s.vfField f 0x1C 4 ≠ 0) || (List.range 80).any fun i => decide (s.vfField f (0x30 + i) 1 ≠ 0)

/-- Why the enable of a record is refused: the ERR code (R361, R363). -/
def State.enableFault (s : State) (f : Nat) : Option (BitVec 8) :=
  let others := (s.withRecord f).filter (· ≠ f)
  if others.any (s.sectorsMeet f) || others.any (s.queuesMeet f) then some 0x16
  else if 256 * sumOver (s.withRecord f) (fun g => sectorCount (s.sectorsOf g)) + sumOver (s.withRecord f) (fun g => s.vfField g 4 2) > 4096
      ∨ sumOver (s.withRecord f) (fun g => s.vfField g 6 2) > 256 ∨ s.vfField f 0x20 8 > s.vfField f 6 2 * 2 ^ 31
      ∨ (f = 16 ∧ (s.vfField f 0xC 1 = 0 ∨ s.vfField f 0xC 1 > 100)) then some 0x09
  else if !s.isKind (s.vfField f 0x28 4) .dir || !s.isKind (s.vfField f 0x2C 4) .epwin then some 0x26
  else if s.reservedSet f then some (Config.reservedErr s.tick)
  else none

/-- Removes the first request for a record where it is of a kind, an enable only where no earlier commit's enable waits: the hub takes
enables in the order in which their commits reached it (R361). None where there is none to take. -/
def State.takeVf (s : State) (f : Nat) (on : Bool) : Option State :=
  match s.vfRequests.findIdx? (·.1 = f) with
  | some i =>
    if s.vfRequests[i]? = some (f, on) ∧ !(on ∧ (s.vfRequests.take i).any (·.2)) then some { s with vfRequests := dropAt s.vfRequests i }
    else none
  | none => none

/-- Writes a byte of a record. -/
def State.withVfByte (s : State) (f ofs : Nat) (x : Byte) : State := { s with hbm := memWrite s.hbm (objectBase 9 + 128 * f + ofs) x }

/-- The bytes of the name of function f's plat root in the physical function's plat, `vfN` (R191). -/
def vfName (f : Nat) : List Nat := [0x76, 0x66] ++ (if f < 10 then [0x30 + f] else [0x31, 0x30 + (f - 10)])

/-- The quotas of a record are those of the function's contexts (R204, R359). -/
def State.setQuotas (s : State) (f : Nat) : State :=
  { s with contexts := s.contexts.map fun (n, c) =>
      if c.vf = f then
        (n, { c with root := s.vfField f 0x28 4, maxHandles := s.vfField f 0x10 4, maxEntries := s.vfField f 0x14 4
                     maxNodes := s.vfField f 0x18 4, maxBytes := s.vfField f 0x20 8 })
      else (n, c) }

/-- The physical function's plat binds the function's plat root at `/vfN`, in place of an earlier one (R191). -/
def State.bindRoot (s : State) (f : Nat) : State :=
  match s.node 1 with
  | some nd => match nd.body with
    | .dir es =>
      let e := sysEntry (vfName f) (s.vfField f 0x28 4) true
      { s with nodes := tabPut s.nodes 1 { nd with body := .dir (es.filter (·.name ≠ e.name) ++ [e]) } }
    | _ => s
  | none => s

/-- VF_ENABLE: the hub checks a record whose STATE a commit set, and enables it, or leaves STATE at 0 and writes ERR; a STATE 0 written while
a refused enable waited has nothing to disable (R361). With the record its quotas take
effect, and its plat root stands in the physical function's plat (R191, R204). -/
def execVfEnable (f : Nat) (s : State) : Out :=
  match s.takeVf f true with
  | none => .next s
  | some t => match t.enableFault f with
    | none => .next (((t.withVfByte f 0 1).setQuotas f).bindRoot f)
    | some e => .next ({ t with vfRequests := t.vfRequests.filter fun r => r ≠ (f, false) }.withVfByte f 0xD e)

/-- Whether a dispatch core executes a packet of a function. -/
def State.functionBusy (s : State) (f : Nat) : Bool :=
  s.dispatch.any fun d => decide (d.2.packet ≠ []) && d.2.queue.isSome && decide (shadowVf d.2.shadow = f)

/-- VF_DISABLE: the function's queues stop; once the packets in execution have finished or yielded, its kernels, complete ones
among them, are to be killed with 0x34 (R324, R362). -/
def execVfDisable (f : Nat) (s : State) : Out :=
  let stopped := s.stopQueues f |>.withVfByte f 0 0
  match s.takeVf f false with
  | none => .next s
  | some _ =>
    if s.functionBusy f then .next stopped
    else
      let ks := (s.kernels.filter fun k => decide (k.2.vf = f) && decide (k.2.state = .running ∨ k.2.state = .complete)).map (·.1)
      .next (ks.foldl (fun s k => s.mustKill k Cause.hostKill) ((stopped.takeVf f false).getD stopped))

/-! ### Attestation (R364, R365) -/

/-- Bytes the security engine gives (log entry 21). -/
def securityBytes (first n : Nat) : List Byte := (List.range n).flatMap fun i => natBytes 8 (Config.securityWord (first + i)).toNat

/-- The report, from offset 64 to the end of the public key. -/
def State.report (s : State) : List Byte :=
  s.nonce.getD (memBytes s.hbm (objectBase 10) 32) ++ securityBytes 0 4 ++ securityBytes 4 4 ++
    sha3 (memBytes s.hbm (objectBase 9) 2176) ++ natBytes 8 s.imageVersion.toNat ++ natBytes 8 s.vtr.toNat ++
    securityBytes 16 164

/-- ATTESTATION_REQUEST: the engine writes the report and its signature, and clears the request last (R365). -/
def execAttestationRequest (s : State) : Out :=
  if memDword s.hbm (objectBase 10 + 32) ≠ 1 then .next s
  else
    let sig := (List.range 2420).map fun i => Config.signatureByte s.tick i
    .next { s with nonce := none, hbm := memPutDword (memPut (memPut s.hbm (objectBase 10 + 64) s.report) (objectBase 10 + 1520) sig) (objectBase 10 + 32) 0 }

/-! ### Status, bring-up and throttling (R366, R367) -/

/-- The status dword: the last step completed, its failure code, and whether a die throttles (R366, R367). -/
def State.statusWord (s : State) : Word :=
  BitVec.ofNat 64 (s.bringUp.toNat + 2 ^ 8 * s.failCode.toNat + if s.throttled = 0 then 0 else 2 ^ 16)

/-- Writes the status dword. -/
def State.putStatus (s : State) : State := { s with hbm := memPutDword s.hbm (objectBase 11) s.statusWord }

/-- THERMAL_THROTTLE: a sensor of a die crosses its limit; only the timing of its matrix engines changes (R367). -/
def execThermalThrottle (die : Fin 4) (s : State) : Out := .next ({ s with throttled := s.throttled ||| 1#4 <<< die.val }).putStatus

/-- THERMAL_THROTTLE_END: the sensor has fallen (R367). -/
def execThermalThrottleEnd (die : Fin 4) (s : State) : Out :=
  .next ({ s with throttled := s.throttled &&& ~~~(1#4 <<< die.val) }).putStatus

/-- POWER_ON_RESET: everything is as after reset but the epoch, the fuses, the device's number and host memory (R147, R364, R366). -/
def execPowerOnReset (s : State) : Out :=
  .next { State.reset with epoch := s.epoch, fuse := s.fuse, device := s.device, host := s.host, agenda := s.agenda, tick := s.tick, turn := s.turn }

/-- A core's map entry after bring-up: FEAT from hardware; a core of a die that is disabled or stays in reset has no engine and is withheld
(R294, R366; log entry 30). -/
def State.freshEntry (s : State) (c : Nat) : Nat := if s.deadDies.getLsbD (coreDie c) then 3 else (s.coreOf c).hw.toNat * 32

/-- The core map as bring-up builds it: FEAT from hardware, all else zero (R294, R366). -/
def State.buildMap (s : State) : State :=
  (List.range Config.cores).foldl (fun s c =>
    { s with hbm := memPutDword s.hbm (objectBase 0 + 8 * c) (BitVec.ofNat 64 (s.freshEntry c)) }) s

/-- The physical function's queue: queue 0, of 16 packets in a queue object bound at `/hv/pfqueue`, every kind allowed, running
(R304, R366; log entry 30). -/
def State.startPf (s : State) : State :=
  let name := [0x70, 0x66, 0x71, 0x75, 0x65, 0x75, 0x65]
  let nodes := tabPut s.nodes 23 (sysNode .queue 13 1088)
  let hv := match tabGet nodes 3 with
    | some nd => match nd.body with
      | .dir es => tabPut nodes 3 { nd with body := .dir (es ++ [sysEntry name 23 true]) }
      | _ => nodes
    | none => nodes
  let half := natBytes 4 23 ++ natBytes 1 4 ++ natBytes 1 0 ++ natBytes 1 31 ++ natBytes 1 1 ++ natBytes 8 0 ++ natBytes 2 0x3FE ++
    natBytes 14 0
  let own : Version := { id := 113, loc := .fixed (objectBase 13), length := 1088, page := 0, own := none, payer := pfContext, charged := 0,
                         maker := 0, frames := [] }
  ({ s with nodes := hv, hbm := describe (memPut s.hbm (objectBase 4) half) .queue own }).onQueue 0 fun k => { k with tokens := 1024, accrued := s.vt }

/-- What a bring-up step does when it completes (R366). -/
def State.bring (s : State) (n : Nat) : State :=
  match n with
  | 4 => ({ s with epoch := s.epoch + 1, vt := 0 }).buildMap
  | 7 => s.startPf
  | _ => s

/-- Whether a bring-up step may end now: the span links' training is over before step 5 does (R346, R366). -/
def State.mayEnd (s : State) (n : Nat) : Bool :=
  decide (n ≠ 5) || (List.range Config.links).all fun l => decide ((s.link l).state ≠ .training)

/-- The dies with a stack of which every channel has failed; the stacks of a die front its slices 0 to 31 and 32 to 63 (R366; log
entry 30). -/
def stacksLost (bad : List Nat) : BitVec 4 :=
  BitVec.ofNat 4 (((List.range 4).map fun d =>
    if (List.range 2).any fun k => (List.range 32).all fun i => bad.contains (64 * d + 32 * k + i) then 2 ^ d else 0).foldl (· + ·) 0)

/-- The failure code of a step for what it finds, 0 where it succeeds (R364, R366). -/
def State.stepCode (s : State) (n : Nat) (x : StepFinds) : Nat :=
  match n with
  | 1 => if x.signed ∧ s.fuse ≤ x.version then 0 else 1
  | 2 => if x.channels.any (· < Config.slices) then 2 else 0
  | 3 => if x.lanes = 0 then 0 else 3
  | _ => 0

/-- What a step leaves out or takes over: the image's version, which raises the fuses; the slices of failed channels and the dies of lost
stacks; the dies whose lanes failed; the ports that did not negotiate (R364, R366). -/
def State.found (s : State) (n : Nat) (x : StepFinds) : State :=
  match n with
  | 1 => { s with imageVersion := x.version, fuse := if s.fuse ≤ x.version then x.version else s.fuse }
  | 2 => { s with badSlices := x.channels.filter (· < Config.slices), deadDies := s.deadDies ||| stacksLost x.channels }
  | 3 => { s with deadDies := s.deadDies ||| x.lanes }
  | 6 => { s with portsDown := x.ports }
  | _ => s

/-- BRING_UP_STEP: the current step completes, or fails with its code: after a failed first step the part stays in reset; the others leave
out what failed and the part goes on (R364, R366; log entry 30). -/
def execBringUpStep (x : StepFinds) (s : State) : Out :=
  let n := s.bringUp.toNat + 1
  if n > 7 ∨ s.failCode = 1 ∨ !s.mayEnd n then .next s
  else
    let code := s.stepCode n x
    let t := if code = 0 then s else { s with failCode := BitVec.ofNat 4 code }
    if code = 1 then .next t.putStatus
    else .next ({ (t.found n x).bring n with bringUp := BitVec.ofNat 4 n }).putStatus

end Sys2Proof.Machine
end

