-- ==== Sys2Proof/Machine/Dispatch.lean ====
section
/-! DEFINITION. Dispatch: one arm per instruction of spec/opcode_table.json, each one call of its meaning. -/

namespace Sys2Proof.Machine

/-- The meaning of an instruction, or of a step of the hardware's agents. -/
def exec (i : Instr) (s : State) : Host.Outcome State Fault Refusal :=
  match i with
  | .add d a b => Sys2Proof.Machine.execAdd d a b s
  | .sub d a b => Sys2Proof.Machine.execSub d a b s
  | .and d a b => Sys2Proof.Machine.execAnd d a b s
  | .or d a b => Sys2Proof.Machine.execOr d a b s
  | .xor d a b => Sys2Proof.Machine.execXor d a b s
  | .sll d a b => Sys2Proof.Machine.execSll d a b s
  | .srl d a b => Sys2Proof.Machine.execSrl d a b s
  | .sra d a b => Sys2Proof.Machine.execSra d a b s
  | .mul d a b => Sys2Proof.Machine.execMul d a b s
  | .mulh d a b => Sys2Proof.Machine.execMulh d a b s
  | .mulhu d a b => Sys2Proof.Machine.execMulhu d a b s
  | .div la d a b => Sys2Proof.Machine.execDiv la d a b s
  | .divu la d a b => Sys2Proof.Machine.execDivu la d a b s
  | .rem la d a b => Sys2Proof.Machine.execRem la d a b s
  | .remu la d a b => Sys2Proof.Machine.execRemu la d a b s
  | .slt d a b => Sys2Proof.Machine.execSlt d a b s
  | .sltu d a b => Sys2Proof.Machine.execSltu d a b s
  | .min d a b => Sys2Proof.Machine.execMin d a b s
  | .max d a b => Sys2Proof.Machine.execMax d a b s
  | .mov d a => Sys2Proof.Machine.execMov d a s
  | .oadd d a b => Sys2Proof.Machine.execOadd d a b s
  | .mkta d a b => Sys2Proof.Machine.execMkta d a b s
  | .hdl d a => Sys2Proof.Machine.execHdl d a s
  | .ofs d a => Sys2Proof.Machine.execOfs d a s
  | .addi d a imm => Sys2Proof.Machine.execAddi d a imm s
  | .andi d a imm => Sys2Proof.Machine.execAndi d a imm s
  | .ori d a imm => Sys2Proof.Machine.execOri d a imm s
  | .xori d a imm => Sys2Proof.Machine.execXori d a imm s
  | .slti d a imm => Sys2Proof.Machine.execSlti d a imm s
  | .muli d a imm => Sys2Proof.Machine.execMuli d a imm s
  | .slli d a sh => Sys2Proof.Machine.execSlli d a sh s
  | .srli d a sh => Sys2Proof.Machine.execSrli d a sh s
  | .srai d a sh => Sys2Proof.Machine.execSrai d a sh s
  | .movi d imm => Sys2Proof.Machine.execMovi d imm s
  | .movsi d imm => Sys2Proof.Machine.execMovsi d imm s
  | .oaddi d a imm => Sys2Proof.Machine.execOaddi d a imm s
  | .emovEG d a => Sys2Proof.Machine.execEmovEG d a s
  | .emovGE d a => Sys2Proof.Machine.execEmovGE d a s
  | .emovEE d a => Sys2Proof.Machine.execEmovEE d a s
  | .ctlr d cnum => Sys2Proof.Machine.execCtlr d cnum s
  | .ctlw cnum a => Sys2Proof.Machine.execCtlw cnum a s
  | .beq a b offHi offLo => Sys2Proof.Machine.execBeq a b offHi offLo s
  | .bne a b offHi offLo => Sys2Proof.Machine.execBne a b offHi offLo s
  | .blt a b offHi offLo => Sys2Proof.Machine.execBlt a b offHi offLo s
  | .bge a b offHi offLo => Sys2Proof.Machine.execBge a b offHi offLo s
  | .bltu a b offHi offLo => Sys2Proof.Machine.execBltu a b offHi offLo s
  | .bgeu a b offHi offLo => Sys2Proof.Machine.execBgeu a b offHi offLo s
  | .jal d off => Sys2Proof.Machine.execJal d off s
  | .jalr d a imm => Sys2Proof.Machine.execJalr d a imm s
  | .exit => Sys2Proof.Machine.execExit s
  | .endAct => Sys2Proof.Machine.execEndAct s
  | .vtr d => Sys2Proof.Machine.execVtr d s
  | .tid d => Sys2Proof.Machine.execTid d s
  | .trap imm => Sys2Proof.Machine.execTrap imm s
  | .eret => Sys2Proof.Machine.execEret s
  | .bkpt imm => Sys2Proof.Machine.execBkpt imm s
  | .csync => Sys2Proof.Machine.execCsync s
  | .wfe => Sys2Proof.Machine.execWfe s
  | .ovld a => Sys2Proof.Machine.execOvld a s
  | .ld la scope size disp a d => Sys2Proof.Machine.execLd la scope size disp a d s
  | .ldAfter la scope size w a d => Sys2Proof.Machine.execLdAfter la scope size w a d s
  | .st str size disp a d => Sys2Proof.Machine.execSt str size disp a d s
  | .stWitness str size w a d => Sys2Proof.Machine.execStWitness str size w a d s
  | .postedAadd wres str wide a b => Sys2Proof.Machine.execPostedAadd wres str wide a b s
  | .postedAand wres str wide a b => Sys2Proof.Machine.execPostedAand wres str wide a b s
  | .postedAor wres str wide a b => Sys2Proof.Machine.execPostedAor wres str wide a b s
  | .postedAxor wres str wide a b => Sys2Proof.Machine.execPostedAxor wres str wide a b s
  | .postedAmin wres str wide a b => Sys2Proof.Machine.execPostedAmin wres str wide a b s
  | .postedAmax wres str wide a b => Sys2Proof.Machine.execPostedAmax wres str wide a b s
  | .postedAfadd wres str a b => Sys2Proof.Machine.execPostedAfadd wres str a b s
  | .xaddFp32 wres str a b => Sys2Proof.Machine.execXaddFp32 wres str a b s
  | .xaddBf16 wres str a b => Sys2Proof.Machine.execXaddBf16 wres str a b s
  | .xaddFp8 wres str a b => Sys2Proof.Machine.execXaddFp8 wres str a b s
  | .cadd wres str a b => Sys2Proof.Machine.execCadd wres str a b s
  | .xclr wres str a => Sys2Proof.Machine.execXclr wres str a s
  | .crd la scope a d => Sys2Proof.Machine.execCrd la scope a d s
  | .xrd la scope a d => Sys2Proof.Machine.execXrd la scope a d s
  | .cwait scope a b => Sys2Proof.Machine.execCwait scope a b s
  | .wmerge d a b => Sys2Proof.Machine.execWmerge d a b s
  | .wnull d => Sys2Proof.Machine.execWnull d s
  | .wstamp scope d => Sys2Proof.Machine.execWstamp scope d s
  | .wchk scope a => Sys2Proof.Machine.execWchk scope a s
  | .wtest scope d a => Sys2Proof.Machine.execWtest scope d a s
  | .wget hi d a => Sys2Proof.Machine.execWget hi d a s
  | .wput d a b => Sys2Proof.Machine.execWput d a b s
  | .drain mask wres => Sys2Proof.Machine.execDrain mask wres s
  | .retAadd la str wide a b d => Sys2Proof.Machine.execRetAadd la str wide a b d s
  | .retAand la str wide a b d => Sys2Proof.Machine.execRetAand la str wide a b d s
  | .retAor la str wide a b d => Sys2Proof.Machine.execRetAor la str wide a b d s
  | .retAxor la str wide a b d => Sys2Proof.Machine.execRetAxor la str wide a b d s
  | .retAmin la str wide a b d => Sys2Proof.Machine.execRetAmin la str wide a b d s
  | .retAmax la str wide a b d => Sys2Proof.Machine.execRetAmax la str wide a b d s
  | .aswap la str wide a b d => Sys2Proof.Machine.execAswap la str wide a b d s
  | .acas la str wide a b d => Sys2Proof.Machine.execAcas la str wide a b d s
  | .retAfadd la str a b d => Sys2Proof.Machine.execRetAfadd la str a b d s
  | .tshape d a => Sys2Proof.Machine.execTshape d a s
  | .tld d a disp b => Sys2Proof.Machine.execTld d a disp b s
  | .tst d a disp b => Sys2Proof.Machine.execTst d a disp b s
  | .mma zf acc a b vp gs => Sys2Proof.Machine.execMma zf acc a b vp gs s
  | .mmar zf acc a b vp gs => Sys2Proof.Machine.execMmar zf acc a b vp gs s
  | .mepi scope str act wv b a rel out acc => Sys2Proof.Machine.execMepi scope str act wv b a rel out acc s
  | .tzero d => Sys2Proof.Machine.execTzero d s
  | .mrel d => Sys2Proof.Machine.execMrel d s
  | .macz d => Sys2Proof.Machine.execMacz d s
  | .mrd la d a b => Sys2Proof.Machine.execMrd la d a b s
  | .vld mask width disp a d => Sys2Proof.Machine.execVld mask width disp a d s
  | .vst mask width str disp a d => Sys2Proof.Machine.execVst mask width str disp a d s
  | .vlds mask width b a d => Sys2Proof.Machine.execVlds mask width b a d s
  | .vsts mask width str b a d => Sys2Proof.Machine.execVsts mask width str b a d s
  | .vfadd mask d a b => Sys2Proof.Machine.execVfadd mask d a b s
  | .vfsub mask d a b => Sys2Proof.Machine.execVfsub mask d a b s
  | .vfmul mask d a b => Sys2Proof.Machine.execVfmul mask d a b s
  | .vfma mask d a b => Sys2Proof.Machine.execVfma mask d a b s
  | .vfms mask d a b => Sys2Proof.Machine.execVfms mask d a b s
  | .vfnma mask d a b => Sys2Proof.Machine.execVfnma mask d a b s
  | .vfmin mask d a b => Sys2Proof.Machine.execVfmin mask d a b s
  | .vfmax mask d a b => Sys2Proof.Machine.execVfmax mask d a b s
  | .vfabs mask d a => Sys2Proof.Machine.execVfabs mask d a s
  | .vfneg mask d a => Sys2Proof.Machine.execVfneg mask d a s
  | .vadd mask d a b => Sys2Proof.Machine.execVadd mask d a b s
  | .vsub mask d a b => Sys2Proof.Machine.execVsub mask d a b s
  | .vmul mask d a b => Sys2Proof.Machine.execVmul mask d a b s
  | .vand mask d a b => Sys2Proof.Machine.execVand mask d a b s
  | .vor mask d a b => Sys2Proof.Machine.execVor mask d a b s
  | .vxor mask d a b => Sys2Proof.Machine.execVxor mask d a b s
  | .vsll mask d a b => Sys2Proof.Machine.execVsll mask d a b s
  | .vsrl mask d a b => Sys2Proof.Machine.execVsrl mask d a b s
  | .vsra mask d a b => Sys2Proof.Machine.execVsra mask d a b s
  | .vmin mask d a b => Sys2Proof.Machine.execVmin mask d a b s
  | .vmax mask d a b => Sys2Proof.Machine.execVmax mask d a b s
  | .vcmp c mask d a b => Sys2Proof.Machine.execVcmp c mask d a b s
  | .vsel k d a b => Sys2Proof.Machine.execVsel k d a b s
  | .vcvt c mask rm d a => Sys2Proof.Machine.execVcvt c mask rm d a s
  | .vrfadd mask d a => Sys2Proof.Machine.execVrfadd mask d a s
  | .vrfmax mask d a => Sys2Proof.Machine.execVrfmax mask d a s
  | .vrfmin mask d a => Sys2Proof.Machine.execVrfmin mask d a s
  | .vradd mask d a => Sys2Proof.Machine.execVradd mask d a s
  | .vrmax mask d a => Sys2Proof.Machine.execVrmax mask d a s
  | .vrmin mask d a => Sys2Proof.Machine.execVrmin mask d a s
  | .vrcp mask d a => Sys2Proof.Machine.execVrcp mask d a s
  | .vrsqrt mask d a => Sys2Proof.Machine.execVrsqrt mask d a s
  | .vsqrt mask d a => Sys2Proof.Machine.execVsqrt mask d a s
  | .vexp2 mask d a => Sys2Proof.Machine.execVexp2 mask d a s
  | .vlog2 mask d a => Sys2Proof.Machine.execVlog2 mask d a s
  | .vexp mask d a => Sys2Proof.Machine.execVexp mask d a s
  | .vtanh mask d a => Sys2Proof.Machine.execVtanh mask d a s
  | .vperm mask d a b => Sys2Proof.Machine.execVperm mask d a b s
  | .vrot mask d a b => Sys2Proof.Machine.execVrot mask d a b s
  | .vsplat mask d a => Sys2Proof.Machine.execVsplat mask d a s
  | .vins mask d a b => Sys2Proof.Machine.execVins mask d a b s
  | .vrev mask d a => Sys2Proof.Machine.execVrev mask d a s
  | .kand d a b => Sys2Proof.Machine.execKand d a b s
  | .kor d a b => Sys2Proof.Machine.execKor d a b s
  | .kxor d a b => Sys2Proof.Machine.execKxor d a b s
  | .knot d a => Sys2Proof.Machine.execKnot d a s
  | .kmov d a => Sys2Proof.Machine.execKmov d a s
  | .kset d => Sys2Proof.Machine.execKset d s
  | .kclr d => Sys2Proof.Machine.execKclr d s
  | .kfromg d a => Sys2Proof.Machine.execKfromg d a s
  | .vscl mask d a b => Sys2Proof.Machine.execVscl mask d a b s
  | .vscls mask d a b => Sys2Proof.Machine.execVscls mask d a b s
  | .vmovg la d a lane => Sys2Proof.Machine.execVmovg la d a lane s
  | .kmovg la d a => Sys2Proof.Machine.execKmovg la d a s
  | .cpy str after d a b => Sys2Proof.Machine.execCpy str after d a b s
  | .cpys str after d a b => Sys2Proof.Machine.execCpys str after d a b s
  | .gath str after d a b => Sys2Proof.Machine.execGath str after d a b s
  | .fill str after d a b => Sys2Proof.Machine.execFill str after d a b s
  | .lay str after d a b => Sys2Proof.Machine.execLay str after d a b s
  | .deal str after d a b => Sys2Proof.Machine.execDeal str after d a b s
  | .tidset t a => Sys2Proof.Machine.execTidset t a s
  | .cpwait a b => Sys2Proof.Machine.execCpwait a b s
  | .pub conf d a => Sys2Proof.Machine.execPub conf d a s
  | .walk d a b => Sys2Proof.Machine.execWalk d a b s
  | .openNode read write shadow follow pinned d a => Sys2Proof.Machine.execOpenNode read write shadow follow pinned d a s
  | .bind d a b => Sys2Proof.Machine.execBind d a b s
  | .unbind a b => Sys2Proof.Machine.execUnbind a b s
  | .close a => Sys2Proof.Machine.execClose a s
  | .stat d a => Sys2Proof.Machine.execStat d a s
  | .mkobj kind d a b => Sys2Proof.Machine.execMkobj kind d a b s
  | .revoke d a => Sys2Proof.Machine.execRevoke d a s
  | .send ch n a d => Sys2Proof.Machine.execSend ch n a d s
  | .sendr ch n a d => Sys2Proof.Machine.execSendr ch n a d s
  | .sendm ch n a d => Sys2Proof.Machine.execSendm ch n a d s
  | .recv ch d => Sys2Proof.Machine.execRecv ch d s
  | .peek ch d => Sys2Proof.Machine.execPeek ch d s
  | .chb ch v a => Sys2Proof.Machine.execChb ch v a s
  | .chhold ch v a => Sys2Proof.Machine.execChhold ch v a s
  | .chready ch v a => Sys2Proof.Machine.execChready ch v a s
  | .spawn d a b => Sys2Proof.Machine.execSpawn d a b s
  | .join d a b => Sys2Proof.Machine.execJoin d a b s
  | .leave a => Sys2Proof.Machine.execLeave a s
  | .gbar a => Sys2Proof.Machine.execGbar a s
  | .gidx d a => Sys2Proof.Machine.execGidx d a s
  | .migr a => Sys2Proof.Machine.execMigr a s
  | .hnop => Sys2Proof.Machine.execHnop s
  | .repCount step cnt => Sys2Proof.Machine.execRepCount step cnt s
  | .repRegister step x => Sys2Proof.Machine.execRepRegister step x s
  | .hmov x y => Sys2Proof.Machine.execHmov x y s
  | .hadd x y => Sys2Proof.Machine.execHadd x y s
  | .hsub x y => Sys2Proof.Machine.execHsub x y s
  | .hand x y => Sys2Proof.Machine.execHand x y s
  | .hor x y => Sys2Proof.Machine.execHor x y s
  | .hxor x y => Sys2Proof.Machine.execHxor x y s
  | .hli x imm => Sys2Proof.Machine.execHli x imm s
  | .haddi x imm => Sys2Proof.Machine.execHaddi x imm s
  | .hslli x imm => Sys2Proof.Machine.execHslli x imm s
  | .hsrli x imm => Sys2Proof.Machine.execHsrli x imm s
  | .hsrai x imm => Sys2Proof.Machine.execHsrai x imm s
  | .hbeqz x off => Sys2Proof.Machine.execHbeqz x off s
  | .hbnez x off => Sys2Proof.Machine.execHbnez x off s
  | .hj off => Sys2Proof.Machine.execHj off s
  | .hjr x => Sys2Proof.Machine.execHjr x s
  | .hwnull x => Sys2Proof.Machine.execHwnull x s
  | .longLatencyResult n => Sys2Proof.Machine.execLongLatencyResult n s
  | .earlyLoadSend ahead => Sys2Proof.Machine.execEarlyLoadSend ahead s
  | .loadPerformed n => Sys2Proof.Machine.execLoadPerformed n s
  | .storeCommit n => Sys2Proof.Machine.execStoreCommit n s
  | .storeSettle n => Sys2Proof.Machine.execStoreSettle n s
  | .streamTimeout n => Sys2Proof.Machine.execStreamTimeout n s
  | .receiveMarkRelease n => Sys2Proof.Machine.execReceiveMarkRelease n s
  | .datumSample scope region => Sys2Proof.Machine.execDatumSample scope region s
  | .datumPublish n => Sys2Proof.Machine.execDatumPublish n s
  | .datumBeacon => Sys2Proof.Machine.execDatumBeacon s
  | .beaconReceive dev epoch vt datum => Sys2Proof.Machine.execBeaconReceive dev epoch vt datum s
  | .tileLanding n => Sys2Proof.Machine.execTileLanding n s
  | .matrixEngineExecute core => Sys2Proof.Machine.execMatrixEngineExecute core s
  | .vectorEngineExecute core => Sys2Proof.Machine.execVectorEngineExecute core s
  | .engineCommandBegin e => Sys2Proof.Machine.execEngineCommandBegin e s
  | .layoutSteal die => Sys2Proof.Machine.execLayoutSteal die s
  | .engineRefusalReturn n => Sys2Proof.Machine.execEngineRefusalReturn n s
  | .transferComplete e => Sys2Proof.Machine.execTransferComplete e s
  | .messagePlace n => Sys2Proof.Machine.execMessagePlace n s
  | .waitingMessageEnter n => Sys2Proof.Machine.execWaitingMessageEnter n s
  | .channelOperationApply n => Sys2Proof.Machine.execChannelOperationApply n s
  | .activationStart core => Sys2Proof.Machine.execActivationStart core s
  | .spawnStart n => Sys2Proof.Machine.execSpawnStart n s
  | .stageDelivery kernel stage => Sys2Proof.Machine.execStageDelivery kernel stage s
  | .stageRebind kernel => Sys2Proof.Machine.execStageRebind kernel s
  | .stageSteal core => Sys2Proof.Machine.execStageSteal core s
  | .shootdownArrival n target => Sys2Proof.Machine.execShootdownArrival n target s
  | .revokeComplete n => Sys2Proof.Machine.execRevokeComplete n s
  | .pubComplete n => Sys2Proof.Machine.execPubComplete n s
  | .pageWalk n => Sys2Proof.Machine.execPageWalk n s
  | .firmwareTrapService n choice => Sys2Proof.Machine.execFirmwareTrapService n choice s
  | .featureAbsentMove n target => Sys2Proof.Machine.execFeatureAbsentMove n target s
  | .preemptionRequest core cause => Sys2Proof.Machine.execPreemptionRequest core cause s
  | .haltReported core => Sys2Proof.Machine.execHaltReported core s
  | .contextSave core => Sys2Proof.Machine.execContextSave core s
  | .contextRestore n core => Sys2Proof.Machine.execContextRestore n core s
  | .timeSliceExpiry => Sys2Proof.Machine.execTimeSliceExpiry s
  | .kernelComplete kernel => Sys2Proof.Machine.execKernelComplete kernel s
  | .kernelKill kernel cause => Sys2Proof.Machine.execKernelKill kernel cause s
  | .kernelConfirmed kernel => Sys2Proof.Machine.execKernelConfirmed kernel s
  | .rankEvent => Sys2Proof.Machine.execRankEvent s
  | .pifoDispatch => Sys2Proof.Machine.execPifoDispatch s
  | .seqRecheck dc => Sys2Proof.Machine.execSeqRecheck dc s
  | .write dc => Sys2Proof.Machine.execWrite dc s
  | .signal dc => Sys2Proof.Machine.execSignal dc s
  | .wait dc => Sys2Proof.Machine.execWait dc s
  | .launch dc choice => Sys2Proof.Machine.execLaunch dc choice s
  | .prepare dc => Sys2Proof.Machine.execPrepare dc s
  | .copy dc => Sys2Proof.Machine.execCopy dc s
  | .layout dc => Sys2Proof.Machine.execLayout dc s
  | .tree dc => Sys2Proof.Machine.execTree dc s
  | .readback dc => Sys2Proof.Machine.execReadback dc s
  | .queueUpdateCommand q => Sys2Proof.Machine.execQueueUpdateCommand q s
  | .rankProgramReload slot => Sys2Proof.Machine.execRankProgramReload slot s
  | .tokenAccrual q => Sys2Proof.Machine.execTokenAccrual q s
  | .firmwareWatchdog dc => Sys2Proof.Machine.execFirmwareWatchdog dc s
  | .dispatchSelfCheck dc ok => Sys2Proof.Machine.execDispatchSelfCheck dc ok s
  | .scanCommand sector => Sys2Proof.Machine.execScanCommand sector s
  | .patternRunComplete sector => Sys2Proof.Machine.execPatternRunComplete sector s
  | .scanAbort sector rank queue => Sys2Proof.Machine.execScanAbort sector rank queue s
  | .faultDoorbellService => Sys2Proof.Machine.execFaultDoorbellService s
  | .featUpdate core => Sys2Proof.Machine.execFeatUpdate core s
  | .uncorrectableError home what => Sys2Proof.Machine.execUncorrectableError home what s
  | .activationRollback core => Sys2Proof.Machine.execActivationRollback core s
  | .codeBlockRefetch core block => Sys2Proof.Machine.execCodeBlockRefetch core block s
  | .laneFailure link lane => Sys2Proof.Machine.execLaneFailure link lane s
  | .linkTrainingComplete link good => Sys2Proof.Machine.execLinkTrainingComplete link good s
  | .linkRetrainRequest link => Sys2Proof.Machine.execLinkRetrainRequest link s
  | .flitReceive link seq what => Sys2Proof.Machine.execFlitReceive link seq what s
  | .flitReplay link seq => Sys2Proof.Machine.execFlitReplay link seq s
  | .bankRetire link bank => Sys2Proof.Machine.execBankRetire link bank s
  | .packetLifetimeExpiry loss => Sys2Proof.Machine.execPacketLifetimeExpiry loss s
  | .messageResend n => Sys2Proof.Machine.execMessageResend n s
  | .gatewayAcknowledge n => Sys2Proof.Machine.execGatewayAcknowledge n s
  | .routeEntryUpdate die dev => Sys2Proof.Machine.execRouteEntryUpdate die dev s
  | .rmaWrite port job ordered flow ta data => Sys2Proof.Machine.execRmaWrite port job ordered flow ta data s
  | .uetAtomic port job ordered flow op wide fetch ta operand cmp => Sys2Proof.Machine.execUetAtomic port job ordered flow op wide fetch ta operand cmp s
  | .rmaRead port => Sys2Proof.Machine.execRmaRead port s
  | .jobTableUpdate port entry => Sys2Proof.Machine.execJobTableUpdate port entry s
  | .hostWriteAcknowledge n => Sys2Proof.Machine.execHostWriteAcknowledge n s
  | .uetRetransmit n => Sys2Proof.Machine.execUetRetransmit n s
  | .ewetalWalk src r => Sys2Proof.Machine.execEwetalWalk src r s
  | .ewetalOpen src r => Sys2Proof.Machine.execEwetalOpen src r s
  | .ewetalBind src r => Sys2Proof.Machine.execEwetalBind src r s
  | .ewetalUnbind src r => Sys2Proof.Machine.execEwetalUnbind src r s
  | .ewetalClose src r => Sys2Proof.Machine.execEwetalClose src r s
  | .ewetalStat src r => Sys2Proof.Machine.execEwetalStat src r s
  | .ewetalMkobj src r => Sys2Proof.Machine.execEwetalMkobj src r s
  | .ewetalRevoke src r => Sys2Proof.Machine.execEwetalRevoke src r s
  | .ewetalRead src r => Sys2Proof.Machine.execEwetalRead src r s
  | .ewetalPublish src r => Sys2Proof.Machine.execEwetalPublish src r s
  | .ewetalPublishOnConfirmation src r => Sys2Proof.Machine.execEwetalPublishOnConfirmation src r s
  | .pointsUpdate slot => Sys2Proof.Machine.execPointsUpdate slot s
  | .halt slot => Sys2Proof.Machine.execHalt slot s
  | .continueTask slot => Sys2Proof.Machine.execContinueTask slot s
  | .stepTask slot => Sys2Proof.Machine.execStepTask slot s
  | .haltAll slot => Sys2Proof.Machine.execHaltAll slot s
  | .continueAll slot => Sys2Proof.Machine.execContinueAll slot s
  | .debugStop n => Sys2Proof.Machine.execDebugStop n s
  | .linkSnapshot => Sys2Proof.Machine.execLinkSnapshot s
  | .vfEnable f => Sys2Proof.Machine.execVfEnable f s
  | .vfDisable f => Sys2Proof.Machine.execVfDisable f s
  | .attestationRequest => Sys2Proof.Machine.execAttestationRequest s
  | .thermalThrottle die => Sys2Proof.Machine.execThermalThrottle die s
  | .powerOnReset => Sys2Proof.Machine.execPowerOnReset s
  | .bringUpStep finds => Sys2Proof.Machine.execBringUpStep finds s
  | .illegalEncoding w => Sys2Proof.Machine.execIllegalEncoding w s
  | .overlayMiss ofs => Sys2Proof.Machine.execOverlayMiss ofs s
  | .matrixInstructionComplete core => Sys2Proof.Machine.execMatrixInstructionComplete core s
  | .shadowPageCopyComplete n => Sys2Proof.Machine.execShadowPageCopyComplete n s
  | .treeOperationComplete n => Sys2Proof.Machine.execTreeOperationComplete n s
  | .migrationMoveComplete n => Sys2Proof.Machine.execMigrationMoveComplete n s
  | .overlayWindowLanded core => Sys2Proof.Machine.execOverlayWindowLanded core s
  | .thermalThrottleEnd die => Sys2Proof.Machine.execThermalThrottleEnd die s

end Sys2Proof.Machine
end

