-- ==== Sys2Proof/Machine/Progress.lean ====
section
/-! DEFINITION. What acts when the slots in focus cannot: the model's default order of the hardware's agents, the rarer ones round and
round by their counter (log entry 1). A step that is not enabled changes nothing. -/

namespace Sys2Proof.Machine

/-- An index into a list that goes round. -/
def roundOf (i n : Nat) : Nat := if n = 0 then 0 else i % n

/-- Whether a core has a slot that runs. -/
def Core.runs (c : Core) : Bool := decide (c.task.run = .running ∨ c.act.run = .running)

/-- The cores the state holds, in the order of their numbers. -/
def State.inOrder (s : State) : List Core :=
  let l := s.others.map (·.2)
  l.filter (fun c => c.id < s.core.id) ++ s.core :: l.filter (fun c => s.core.id < c.id)

/-- Numbers of the cores a condition holds of, rising. -/
def State.coresWith (s : State) (f : Core → Bool) : List Nat := (s.inOrder.filter f).map (·.id)

/-- The cores that have something to issue. -/
def State.runners (s : State) : List Nat := s.coresWith Core.runs

/-- The core that comes into focus next: the next in the order of their numbers that has something to issue, round and round. -/
def State.nextFocus (s : State) : Nat :=
  match s.runners.find? (s.core.id < ·) with
  | some c => c
  | none => s.runners.head?.getD s.core.id

/-- A compute core the state holds, in turn. -/
def State.computeTurn (s : State) (i : Nat) : Nat := ((s.inOrder[roundOf i s.inOrder.length]?).map (·.id)).getD s.core.id % Config.cores

/-- A core the state holds, in turn. -/
def State.coreTurn (s : State) (i : Nat) : Nat := ((s.inOrder[roundOf i s.inOrder.length]?).map (·.id)).getD s.core.id

/-- The key whose turn it is in a table. -/
def tabTurn {α : Type} (t : Tab α) (i : Nat) : Nat := ((t[roundOf i t.length]?).map (·.1)).getD 0

/-- The regions of a scope that hold the cores of a list. -/
def regionsHeld (sc : Scope) (l : List Nat) : List Nat := (l.map (regionOf sc)).eraseDups

/-- The cores a dispatch core takes for its LAUNCH where the agenda names none: the first aligned block that is free, or the first
free cores (R316). -/
def State.firstCores (s : State) (n : Nat) : List Nat :=
  let d := s.dispatcher (dcId n)
  let vf := shadowVf d.shadow
  match s.plan316 (shadowCtx d.shadow) (fun i => d.packet.getD i 0) [] with
  | .error _ => []
  | .ok p =>
    let free := s.freeFor vf (shadowCtx d.shadow) (BitVec.ofNat 3 p.header.featreq)
    match p.rect with
    | some (w, h) => match (s.blockBases vf w h).find? fun b => (blockCores b w h).all free with
      | some b => blockCores b w h
      | none => []
    | none => ((List.range Config.cores).filter free).take p.count

/-- A shootdown reaches the next caches in the order of their numbers, as a broadcast does. -/
def State.shotRun (n : Nat) (s : State) : Out :=
  (List.range 128).foldl (fun o _ => match o with
    | .next t => execShootdownArrival n (((t.shootdowns[n]?).map fun d => d.reached.length).getD 0 % (sectorTarget + 16)) t
    | o => o) (.next s)

/-- The step dispatch core n's packet stands at. -/
def State.packetTurn (n : Nat) (s : State) : Out :=
  match stepKind ((s.dispatcher (dcId n)).packet.getD 0 0) (s.dispatcher (dcId n)).step with
  | 1 => execLaunch n { cores := s.firstCores n, paths := [] } s
  | 2 => execPrepare n s
  | 3 => execWrite n s
  | 4 => execSignal n s
  | 5 => execWait n s
  | 6 => execCopy n s
  | 7 => execLayout n s
  | 8 => execTree n s
  | 9 => execReadback n s
  | _ => execSeqRecheck n s

/-- The head of the stage queue whose turn it is. -/
def State.stageTurn (s : State) (i : Nat) : Out :=
  match s.stages[roundOf i s.stages.length]? with
  | some q => execStageDelivery q.kernel q.stage s
  | none => .next s

/-- The saved context whose turn it is, on its core. -/
def State.restoreTurn (s : State) (i : Nat) : Out :=
  match s.saved[roundOf i s.saved.length]? with
  | some x => execContextRestore (roundOf i s.saved.length) x.core s
  | none => .next s

/-- The block of the poisoned code line whose turn it is at the core whose turn it is. -/
def State.poisonTurn (s : State) (i : Nat) : Nat :=
  let l := (s.coreOf (s.computeTurn i)).poison
  (l[roundOf i l.length]?).getD 0 / 64

/-- The step of kind n, in round i: those that are rarely due. -/
def State.rareTurn (s : State) (n i : Nat) : Out :=
  match n with
  | 0 => execOverlayWindowLanded (s.coreTurn i) s
  | 1 => execHostWriteAcknowledge (roundOf i s.stores.length) s
  | 2 => execPageWalk (roundOf i s.misses.length) s
  | 3 => execShadowPageCopyComplete (roundOf i s.pageCopies.length) s
  | 4 => execEngineRefusalReturn (roundOf i s.stores.length) s
  | 5 => execMigrationMoveComplete (roundOf i s.migrations.length) s
  | 6 => execHaltReported (s.coreTurn i) s
  | 7 => execPifoDispatch s
  | 8 => execRankEvent s
  | 9 => execKernelComplete (tabTurn s.kernels i) s
  | 10 => execPubComplete (roundOf i s.publications.length) s
  | 11 => execTreeOperationComplete (roundOf i s.shootdowns.length) s
  | 12 => execRevokeComplete (roundOf i s.shootdowns.length) s
  | 13 => execLinkTrainingComplete (i % Config.links) 0x1FF s
  | 14 => execQueueUpdateCommand ((s.updates.head?.map (·.1)).getD 0) s
  | 15 => execTokenAccrual (tabTurn s.queues i) s
  | 16 => execKernelConfirmed (tabTurn s.kernels i) s
  | 17 => execContextSave (s.computeTurn i) s
  | 18 => execFirmwareTrapService (roundOf i s.trapRecords.length) .kill s
  | 19 => execActivationRollback (s.computeTurn i) s
  | 20 => execScanCommand (i % 16) s
  | 21 => execPatternRunComplete (i % 16) s
  | 22 => execFaultDoorbellService s
  | 23 => execFeatUpdate (s.computeTurn i) s
  | 24 => s.stageTurn i
  | 25 => execMessageResend (roundOf i s.kept.length) s
  | 26 => execStageSteal (s.computeTurn i) s
  | 27 => s.restoreTurn i
  | 28 => execCodeBlockRefetch (s.computeTurn i) (s.poisonTurn i) s
  | 29 => execTimeSliceExpiry s
  | 30 => execStreamTimeout (roundOf i s.stores.length) s
  | 31 => execReceiveMarkRelease (roundOf i (s.marks.length + s.msgMarks.length)) s
  | 32 => execDebugStop (roundOf i s.stops.length) s
  | _ => execScanAbort (i % 16) ((s.scanUnit (i % 16)).abort.map (·.1) |>.getD 0) ((s.scanUnit (i % 16)).abort.map (·.2) |>.getD 0) s

/-- Whether an engine has a command. -/
def Engine.busy (e : Engine) : Bool := !e.queue.isEmpty || e.running.isSome || !e.settling.isEmpty

/-- The engines that have a command. -/
def State.busyEngines (s : State) : List EngineRef :=
  (s.coresWith fun c => c.copy.busy).map EngineRef.copy ++ (s.layouts.filter fun e => e.2.busy).map fun e => EngineRef.layout e.1

/-- A step for every index below n, the highest first. -/
def each (f : Nat → State → Out) : Nat → State → Out
  | 0, s => .next s
  | n + 1, s => match f n s with
    | .next t => each f n t
    | o => o

/-- A step for every member of a list. -/
def eachOf {α : Type} (f : α → State → Out) : List α → State → Out
  | [], s => .next s
  | x :: l, s => match f x s with
    | .next t => eachOf f l t
    | o => o

/-- The samples taken are published; where an interval of the datum ends, the next are taken, of the regions of the cores the state
holds (R148, R187). -/
def State.datumTurn (s : State) : Out :=
  match each execDatumPublish s.samples.length s with
  | .next t =>
    if t.vt.toNat % 16 ≠ 0 then .next t
    else eachOf (fun sc s => eachOf (execDatumSample sc) (regionsHeld sc (s.coresWith fun c => decide (c.id < Config.cores))) s)
      ([.clu, .sec, .die, .pkg].filter fun sc => t.vt.toNat % sampleInterval sc = 0) t
  | o => o

/-- What falls due at a multiple of cycles: idle layout engines take commands over, a stage's cores are bound anew, the link counters are
sampled, and a beacon is sent (R163, R289, R342, R353). What has begun of it goes on. -/
def State.dueTurn (s : State) : Out :=
  let steps : List (State → Out) :=
    [fun s => if s.layouts.isEmpty ∨ s.vt.toNat % 64 ≠ 0 then .next s else each execLayoutSteal 4 s,
     fun s => match s.rebinding with
       | some r => execStageRebind r.kernel s
       | none => if s.stages.isEmpty ∨ s.vt.toNat % 4096 ≠ 0 then .next s else eachOf (fun k s => execStageRebind k.1 s) s.kernels s,
     fun s => if s.snap.isSome ∨ s.vt.toNat % 1300 = 0 then execLinkSnapshot s else .next s,
     fun s => if s.vt.toNat % 2600 = 0 then execDatumBeacon s else .next s]
  eachOf (fun f s => f s) steps s

/-- The kinds of steps of homes, results, messages, landings, shootdowns, engines, activations and packets, the datum, and what is due
periodically. -/
def workTurns : List (State → Out) :=
  [fun s => each execStoreCommit s.stores.length s, fun s => each execStoreSettle s.stores.length s,
   fun s => each execLoadPerformed s.results.length s, fun s => each execLongLatencyResult s.results.length s,
   fun s => each execMessagePlace s.msgs.length s, fun s => each execWaitingMessageEnter s.msgs.length s,
   fun s => each execChannelOperationApply s.msgs.length s, fun s => each execSpawnStart s.msgs.length s,
   fun s => each execTileLanding s.copies.length s, fun s => each State.shotRun s.shootdowns.length s,
   fun s => eachOf execMatrixEngineExecute (s.coresWith fun c => !c.matrix.isEmpty) s,
   fun s => eachOf execMatrixInstructionComplete (s.coresWith fun c => !c.matrix.isEmpty) s,
   fun s => eachOf execVectorEngineExecute (s.coresWith fun c => !c.vector.isEmpty) s,
   fun s => eachOf execEngineCommandBegin s.busyEngines s, fun s => eachOf execTransferComplete s.busyEngines s,
   fun s => eachOf execActivationStart (s.coresWith fun c => decide (c.act.run = .free) && c.chans.any Channel.pending) s,
   fun s => eachOf State.packetTurn ((List.range Config.dispatchCores).filter fun n => (s.dispatcher (dcId n)).queue.isSome) s,
   State.datumTurn, State.dueTurn]

/-- A turn of the other agents: each kind of step that has work is taken wherever it is enabled, then the next of those that are rarely
due, and firmware's kill of a kernel where one is. -/
def State.defaultTurn (s : State) : Out :=
  match eachOf (fun f s => f s) workTurns s with
  | .next t => match t.rareTurn (t.turn % 34) (t.turn / 34) with
    | .next u => match u.kills[roundOf u.turn u.kills.length]? with
      | some k => execKernelKill k.kernel k.cause u
      | none => .next u
    | o => o
  | o => o

/-- What a step of bring-up finds where the agenda does not say: an image the fuses admit, and nothing failed. -/
def State.allWell (s : State) : StepFinds := { signed := true, version := s.fuse, channels := [], lanes := 0, ports := 0 }

/-- The next step of bring-up: a step of R366, or the training of a link in turn. -/
def State.bringTurn (s : State) (i : Nat) : Out :=
  if i % 2 = 0 then execBringUpStep s.allWell s else execLinkTrainingComplete (i / 2 % Config.links) 0x1FF s

/-- The other agents act; before bring-up is over, its next step. -/
def progress (s : State) : Out :=
  let t : State := { s with turn := s.turn + 1 }
  if s.bringUp = 7 then t.defaultTurn else t.bringTurn s.turn

/-- Another core comes into focus. -/
def pass (s : State) : Out := .next (s.focusOn s.nextFocus .task)

end Sys2Proof.Machine
end

