-- ==== Sys2Proof/Machine/Turns.lean ====
section
/-! DEFINITION. Whose turn it is: issuing from a slot with the checks of R266 that precede an instruction, the turns of
the agenda, and placing a word to be fetched (log entries 1 and 2). -/

namespace Sys2Proof.Machine

/-- Executes what was fetched: the instruction, or the trap of a miss or an illegal word (R266). -/
def runFetched (f : Fetched) (s : State) : Out :=
  match f with
  | .miss o => execOverlayMiss o s
  | .illegal w => execIllegalEncoding w { s with ir := w }
  | .instr i w _ => exec i { s with ir := w }

/-- A repetition: the follower with its fields advanced (R64). -/
def runRepetition (r : RepLive) (f : Fetched) (s : State) : Out :=
  match f with
  | .instr i w _ =>
    match repInstr r.step r.done.toNat i with
    | some j => exec j { s with ir := w }
    | none => trap Cause.repeatNot (w.zeroExtend 64) s
  | f => runFetched f s

/-- Whether n bytes of the code window from an image offset have an uncorrectable error. -/
def Core.linesPoisoned (c : Core) (sel : SlotSel) (pc : Word) (n : Nat) : Bool :=
  match fetchOfs c sel pc with
  | some o => c.poison.contains (o / 64) || c.poison.contains ((o + n - 1) / 64)
  | none => false

/-- Bytes of the instruction whose first halfword stands at an image offset. -/
def Core.lengthAt (c : Core) (sel : SlotSel) (pc : Word) : Nat :=
  match fetchHalf c sel pc with
  | some h => lengthOf h
  | none => 2

/-- Whether a code line that an instruction, or a REP pair, lies in has an uncorrectable error: fetch waits for the block (R329).
The first halfword tells the length, so it comes first. -/
def Core.codePoisoned (c : Core) (sel : SlotSel) (pc : Word) : Bool :=
  c.linesPoisoned sel pc 2 || c.linesPoisoned sel pc (c.lengthAt sel pc) ||
    (match fetchHalf c sel pc with
      | some h => isRep h && (c.linesPoisoned sel (pc + 2) 2 || c.linesPoisoned sel (pc + 2) (c.lengthAt sel (pc + 2)))
      | none => false)

/-- The breakpoint met before the slot issues: at an instruction or a REP that starts a pair, once; under a REP at the follower, before
every repetition; none at a REP that resumes a pair (R334). -/
def Slot.breakpoint (t : Slot) : Option Nat :=
  match t.rep with
  | some _ => t.breakAt (t.pc + 2)
  | none => if t.resume.isSome then none else t.breakAt t.pc

/-- What a slot fetches next: its instruction, or under a REP the follower. -/
def State.fetchNext (s : State) : Fetched :=
  match s.slot.rep with
  | some _ => fetch s.core s.sel (s.slot.pc + 2)
  | none => fetch s.core s.sel s.slot.pc

/-- A cycle passes; entries of POINTS that are old enough take effect in it (R51, R334). -/
def State.cycle (s : State) : State := s.tickOn.pointsDue

/-- The slot in focus issues one instruction or one repetition. Requests come first, then breakpoints, then what
the fetch finds (R266). Fetch of both slots is stalled while an OVLD loads (R274). -/
def issueSlot (s : State) : Out :=
  match s.slot.run with
  | .running =>
    match s.slot.request with
    | some c =>
      if c = Cause.singleStep then trapWith (fun s => s.mapSlot fun t => { t with request := none }) Cause.singleStep 0 s else stall s
    | none =>
      if s.core.ovld.isSome || s.core.codePoisoned s.sel s.slot.pc then stall s
      else match s.slot.breakpoint with
        | some n => trap Cause.breakpoint (BitVec.ofNat 64 n) s
        | none => match s.slot.rep with
          | none => runFetched s.fetchNext s
          | some r => runRepetition r s.fetchNext s
  | _ => stall s

/-- Clears the mark of a stall. -/
def Out.unstall : Out → Out
  | .next s => .next { s with stalled := false }
  | .fault r => .fault r
  | .refused r => .refused r

/-- Goes on with the other agents where the outcome is a stall. -/
def Out.orElse (o : Out) (k : State → Out) : Out :=
  match o with
  | .next s => if s.stalled then k { s with stalled := false } else .next s
  | .fault r => .fault r
  | .refused r => .refused r

/-- Goes on from the next state. -/
def Out.andThen (o : Out) (k : State → Out) : Out :=
  match o with
  | .next s => k s
  | .fault r => .fault r
  | .refused r => .refused r

/-- The other agents act and the next core comes into focus. -/
def progressPass (s : State) : Out := Out.andThen (progress s) pass

/-- The activation of the core in focus issues, and where it is stalled its task slot, then what is to come instead (R248). -/
def issueAct (k : State → Out) (s : State) : Out :=
  Out.orElse (issueSlot { s with sel := .act }) fun s => Out.orElse (issueSlot { s with sel := .task }) k

/-- The task slot of the core in focus issues in a cycle in which its activation is stalled after a jump (R67, R248). -/
def issueGap (s : State) : Out :=
  issueSlot { s with sel := .task, core := { s.core with act := { s.core.act with gap := s.core.act.gap - 1 } } }

/-- The core in focus issues: its activation, the task slot when that is empty or stalled, then where neither can what is to come
instead (R248). -/
def issueFocus (k : State → Out) (s : State) : Out :=
  if s.core.act.run ≠ .running then Out.orElse (issueSlot { s with sel := .task }) k
  else if s.core.act.gap ≠ 0 then Out.orElse (issueGap s) (issueAct k)
  else issueAct k s

/-- The issue port of a core for a slot: the task slot issues only where the activation is absent or stalled (R248). -/
def issuePort (s : State) : Out :=
  if s.sel = .task ∧ s.core.act.run = .running then issueFocus .next s else issueSlot s

/-- Whether an instruction is a step of the hardware's agents and not something a slot issues. -/
def isAgent : Instr → Bool
  | .illegalEncoding _ => false
  | .overlayMiss _ => false
  | i => (encode i).isNone

/-- A turn of the agenda. -/
def takeTurn (t : Turn) (s : State) : Out :=
  match t with
  | .issue c sel => Out.unstall (issuePort (s.focusOn c sel))
  | .hw e => if isAgent e then Out.unstall (exec e s) else .next s
  | .also e => if isAgent e then Out.unstall (exec e s) else .next s
  | .elapse n => .next { s with vt := s.vt + BitVec.ofNat 48 n }

/-- The cycles, one in four, in which the other agents act beside the core that issues where the agenda names no turn, so that a program
that polls without waiting holds nobody up. -/
def agentsTurn (vt : BitVec 48) : Bool := decide (vt.toNat % 4 = 0)

/-- Whether a turn stands in the cycle of the turn before it. -/
def Turn.sameCycle : Turn → Bool
  | .also _ => true
  | _ => false

/-- One step: a cycle passes, then the agenda's next turn, or a turn that stands in the cycle of the one before; or the core in focus
issues, and where it cannot, and in one cycle of four, the other agents act and the next core comes into focus. -/
def takeStep (s : State) : Out :=
  match s.agenda with
  | t :: rest => takeTurn t { (if t.sameCycle then { s with tick := s.tick + 1 } else s.cycle) with agenda := rest }
  | [] =>
    if agentsTurn s.cycle.vt then Out.andThen (issueFocus .next s.cycle) progressPass else issueFocus progressPass s.cycle

/-- The bytes of a table word written at an SRAM offset of the core in focus, whose task slot has the next turn; the bits above are
zero. -/
def placeWord (s : State) (_nbits w : Nat) : State :=
  { s with
    core := { s.core with
      task := { s.core.task with
        pc := 0, run := .running, rep := none, resume := none, request := none, points := [], fetchbase := 0 }
      act := { s.core.act with run := .free }
      sram := memPut s.core.sram 0 (leBytes 4 w)
      exb := 256, codebase := 0, fetchbase := 0, ovld := none }
    agenda := [.issue s.core.id .task], bringUp := 7 }

end Sys2Proof.Machine
end

