-- ==== Sys2Proof/Machine/Step.lean ====
section
/-! DEFINITION. One step of the package: the turn the agenda names, else the core in focus issues one instruction, or
the other agents act (log entry 1). Taking a turn calls `exec`; everything a test could mend lies in the files it calls. -/

namespace Sys2Proof.Machine

/-- One step. -/
def step (s : State) : Host.Outcome State Fault Refusal := takeStep s

/-- The state with an instruction placed where the next step fetches: a resident task running at image offset 0 of the
core in focus, its code window holding the bytes, and the next turn that slot's (log entry 2). -/
def State.withFetchWord (s : State) (nbits w : Nat) : State := placeWord s nbits w

end Sys2Proof.Machine
end

