-- ==== Sys2Proof/Safety.lean ====
section
/-! DEFINITION. The words the claims use: an instruction past its decode and its waits, a store's bytes, memories in
canonical form, and what a step leaves alone. -/

namespace Sys2Proof.Machine

/-- A core stands under its own number and its SRAM has the canonical form. -/
def Core.ok (id : Nat) (c : Core) : Bool := decide (c.id = id) && Memory.wf c.sram

/-- A saved context's image is of the core it was saved from, in canonical form. -/
def Saved.ok (x : Saved) : Bool :=
  match x.image with
  | some c => c.ok x.core
  | none => true

/-- The package's cores stand under their numbers, and every memory has its canonical form: the pools of all cores, HBM, host
memory, and the SRAM images of saved contexts. -/
def State.ok (s : State) : Bool :=
  s.core.ok s.core.id && s.others.all (fun c => c.2.ok c.1) && Memory.wf s.hbm && Memory.wf s.host && s.saved.all Saved.ok

/-- The outcome is a next state. -/
def outIsNext : Out → Bool
  | .next _ => true
  | .fault _ => false
  | .refused _ => false

/-- Instruction i issues: its context may run it and its engine is present (R48), no register it names stands in an open
window and it would open no eighth one (R45), every result still outstanding is one its window lets pass (R44), no error
waits to be reported (R327), and no register it reads has one (R329). -/
def Issues (i : Instr) (s : State) : Prop :=
  (privilegedInstr i = true → s.slot.priv = true) ∧ (∀ n, feature i = some n → s.core.feat.getLsbD n = true) ∧
    (∀ r ∈ gNames i, s.slot.windowed r = false) ∧
    (∀ r la, longLatency i = some (r, la) → r ≠ 0 → la ≠ 0 → s.slot.windows.length < 7) ∧
    (∀ r ∈ s.outstanding, r.reg ≠ 0 ∧ s.slot.windowed r.reg = true) ∧ (∀ d ∈ s.core.detected, d.1 ≠ s.sel) ∧
    s.slot.readsFlaw i = false

/-- A state with the translation caches of another (R232). -/
def State.cachesOf (s t : State) : State := { s with core := { s.core with tlb := t.core.tlb }, sectorTlb := t.sectorTlb }

/-- An access of n bytes at a tree address passes its checks, is translated to places, and meets no watchpoint; t is the state with the
translation caches as the access leaves them (R138, R139, R227, R232, R266). -/
def Reaches (op : AccOp) (reads writes : Bool) (ta : Word) (n : Nat) (s t : State) (r : Reach) (ps : List Place) : Prop :=
  s.reach s.core.id s.slot.ctx op true ta n = .ok r ∧ s.locate s.core.id s.slot.ctx (!op.reads) ta r = .found t ps ∧
    s.slot.watched reads writes ta n = none

/-- The rows or lanes of n bytes at tree addresses pass their checks, are translated piece by piece, and meet no watchpoint; t is the
state with the translation caches as they leave them. -/
def RowsReach (op : AccOp) (tas : List Word) (n : Nat) (s t : State) (ps : List (List (Place × Nat))) (ts : List Word) : Prop :=
  ∃ rs, s.checkRows op n tas = .ok rs ∧ s.locateRows (!op.reads) (rs.drop s.slot.rows.length) s.slot.rows = .found t ps ∧
    (∀ ta ∈ tas, s.slot.watched op.reads (!op.reads) ta n = none) ∧ ts = rs.map fun r => r.2.1

/-- A store on a stream may go: the stream has room, and nothing unfinished of the slot lies on its lines (R140, R144, R183). -/
def MaySend (str : Stream) (ps : List Place) (s : State) : Prop :=
  s.streamRoom str 1 = true ∧ s.storeHeld str (ps.map Place.line) s.queued = false

/-- A load of n bytes at places that has issued and is yet to be performed (R151). -/
def loadOf (ps : List Place) (n : Nat) (kind : LoadKind) (sc : Scope) (wit : Option Word128) (ta : Word) : Load :=
  { places := ps, bytes := n, kind := kind, scope := sc, wit := wit, ta := ta, read := [], got := none }

/-- A matrix instruction issues: the slot may use the engine (R94), the queue has a place (R93), and no tile it names waits for a
landing or is refused (R14, R100). -/
def MatrixReady (i : Instr) (tiles : List MReg) (s : State) : Prop :=
  Issues i s ∧ s.actBesideTask = false ∧ s.core.matrix.length < 3 ∧
    ∀ n ∈ tiles, s.landingDue n = false ∧ s.core.net[n].refused = false

/-- A vector instruction issues: the slot may use the engine (R107) and the queue has a place (R108). -/
def VectorReady (i : Instr) (s : State) : Prop :=
  Issues i s ∧ s.actBesideTask = false ∧ s.core.vector.length < 3

/-- A command may issue with the register it waits for: in an activation that register is not pending on confirmation (R177). -/
def MayAwait (after : Option WReg) (s : State) : Prop :=
  s.sel = .task ∨ ∀ w n, after = some w → s.w w ≠ .pending .confirmation n

/-- The state with an instruction placed last in the matrix queue of the core in focus (R93). -/
def State.queueMatrix (s : State) (o : EngOp) : State := { s with core := { s.core with matrix := s.core.matrix ++ [o] } }

/-- The state with an instruction placed last in the vector queue of the core in focus; an activation is marked (R107, R108). -/
def State.queueVector (s : State) (o : EngOp) : State :=
  State.markVector { s with core := { s.core with vector := s.core.vector ++ [o] } }

/-- No memory of the package differs between two states: neither SRAM of any core, nor HBM, nor host memory. -/
def SameMemory (s t : State) : Prop :=
  (∀ c, (t.coreOf c).sram = (s.coreOf c).sram) ∧ t.hbm = s.hbm ∧ t.host = s.host

end Sys2Proof.Machine
end

