-- ==== Sys2Proof/Certificates/Slice0/Obligations.lean ====
section
/-! DEFINITION. The statements for the provers. -/

open Sys2Proof Sys2Proof.Machine

/-- R54: each register form writes its formula, every result taken modulo 2^64; a destination g0 discards it. -/
def Obligations.RegisterForms : Prop := ∀ (d a b : GReg) (s : State),
  (Issues (.add d a b) s → exec (.add d a b) s =
    .next ((s.setG d (BitVec.ofNat 64 ((s.g a).toNat + (s.g b).toNat))).retired 4)) ∧
  (Issues (.sub d a b) s → exec (.sub d a b) s =
    .next ((s.setG d (BitVec.ofInt 64 ((s.g a).toInt - (s.g b).toInt))).retired 4)) ∧
  (Issues (.and d a b) s → exec (.and d a b) s = .next ((s.setG d (s.g a &&& s.g b)).retired 4)) ∧
  (Issues (.or d a b) s → exec (.or d a b) s = .next ((s.setG d (s.g a ||| s.g b)).retired 4)) ∧
  (Issues (.xor d a b) s → exec (.xor d a b) s = .next ((s.setG d (s.g a ^^^ s.g b)).retired 4)) ∧
  (Issues (.sll d a b) s → exec (.sll d a b) s =
    .next ((s.setG d (BitVec.ofNat 64 ((s.g a).toNat * 2 ^ ((s.g b).toNat % 64)))).retired 4)) ∧
  (Issues (.srl d a b) s → exec (.srl d a b) s =
    .next ((s.setG d (BitVec.ofNat 64 ((s.g a).toNat / 2 ^ ((s.g b).toNat % 64)))).retired 4)) ∧
  (Issues (.sra d a b) s → exec (.sra d a b) s =
    .next ((s.setG d (BitVec.ofInt 64 ((s.g a).toInt / 2 ^ ((s.g b).toNat % 64)))).retired 4)) ∧
  (Issues (.mul d a b) s → exec (.mul d a b) s =
    .next ((s.setG d (BitVec.ofInt 64 ((s.g a).toInt * (s.g b).toInt))).retired 4)) ∧
  (Issues (.mulh d a b) s → exec (.mulh d a b) s =
    .next ((s.setG d (BitVec.ofInt 64 ((s.g a).toInt * (s.g b).toInt / 2 ^ 64))).retired 4)) ∧
  (Issues (.mulhu d a b) s → exec (.mulhu d a b) s =
    .next ((s.setG d (BitVec.ofNat 64 ((s.g a).toNat * (s.g b).toNat / 2 ^ 64))).retired 4)) ∧
  (Issues (.slt d a b) s → exec (.slt d a b) s =
    .next ((s.setG d (if (s.g a).toInt < (s.g b).toInt then 1 else 0)).retired 4)) ∧
  (Issues (.sltu d a b) s → exec (.sltu d a b) s =
    .next ((s.setG d (if (s.g a).toNat < (s.g b).toNat then 1 else 0)).retired 4)) ∧
  (Issues (.min d a b) s → exec (.min d a b) s =
    .next ((s.setG d (if (s.g a).toInt ≤ (s.g b).toInt then s.g a else s.g b)).retired 4)) ∧
  (Issues (.max d a b) s → exec (.max d a b) s =
    .next ((s.setG d (if (s.g a).toInt ≤ (s.g b).toInt then s.g b else s.g a)).retired 4)) ∧
  (Issues (.mov d a) s → exec (.mov d a) s = .next ((s.setG d (s.g a)).retired 4))

/-- R55: quotients truncate toward zero; by zero the quotient is all ones and the remainder the dividend; −2^63 by −1 is −2^63
again with remainder 0. No form traps for its values. The result is written later, and its window opens now (R44). -/
def Obligations.DivideForms : Prop := ∀ (la : BitVec 4) (d a b : GReg) (s : State),
  (Issues (.div la d a b) s → exec (.div la d a b) s = .next ((s.addResult d (.ready
    (if s.g b = 0 then 0xFFFFFFFFFFFFFFFF
     else if (s.g a).toInt = -2 ^ 63 ∧ (s.g b).toInt = -1 then s.g a
     else BitVec.ofInt 64 ((s.g a).toInt.tdiv (s.g b).toInt)))).opened 4 d la)) ∧
  (Issues (.divu la d a b) s → exec (.divu la d a b) s = .next ((s.addResult d (.ready
    (if s.g b = 0 then 0xFFFFFFFFFFFFFFFF else BitVec.ofNat 64 ((s.g a).toNat / (s.g b).toNat)))).opened 4 d la)) ∧
  (Issues (.rem la d a b) s → exec (.rem la d a b) s = .next ((s.addResult d (.ready
    (if s.g b = 0 then s.g a
     else if (s.g a).toInt = -2 ^ 63 ∧ (s.g b).toInt = -1 then 0
     else BitVec.ofInt 64 ((s.g a).toInt - (s.g a).toInt.tdiv (s.g b).toInt * (s.g b).toInt)))).opened 4 d la)) ∧
  (Issues (.remu la d a b) s → exec (.remu la d a b) s = .next ((s.addResult d (.ready
    (if s.g b = 0 then s.g a
     else BitVec.ofNat 64 ((s.g a).toNat - (s.g a).toNat / (s.g b).toNat * (s.g b).toNat)))).opened 4 d la))

/-- R56, R57, R58: the immediate forms compute with the sign-extended IMM14, the shifts with SHAMT and are laid out as R57 says, movi
sign-extends IMM19 and movsi takes the old value times 2^19 plus IMM19. -/
def Obligations.ImmediateForms : Prop := ∀ (d a : GReg) (imm : BitVec 14) (sh : BitVec 6) (wide : BitVec 19) (s : State),
  (Issues (.addi d a imm) s → exec (.addi d a imm) s =
    .next ((s.setG d (BitVec.ofInt 64 ((s.g a).toInt + imm.toInt))).retired 4)) ∧
  (Issues (.andi d a imm) s → exec (.andi d a imm) s = .next ((s.setG d (s.g a &&& BitVec.ofInt 64 imm.toInt)).retired 4)) ∧
  (Issues (.ori d a imm) s → exec (.ori d a imm) s = .next ((s.setG d (s.g a ||| BitVec.ofInt 64 imm.toInt)).retired 4)) ∧
  (Issues (.xori d a imm) s → exec (.xori d a imm) s = .next ((s.setG d (s.g a ^^^ BitVec.ofInt 64 imm.toInt)).retired 4)) ∧
  (Issues (.slti d a imm) s → exec (.slti d a imm) s =
    .next ((s.setG d (if (s.g a).toInt < imm.toInt then 1 else 0)).retired 4)) ∧
  (Issues (.muli d a imm) s → exec (.muli d a imm) s =
    .next ((s.setG d (BitVec.ofInt 64 ((s.g a).toInt * imm.toInt))).retired 4)) ∧
  (Issues (.slli d a sh) s → exec (.slli d a sh) s =
    .next ((s.setG d (BitVec.ofNat 64 ((s.g a).toNat * 2 ^ sh.toNat))).retired 4)) ∧
  (Issues (.srli d a sh) s → exec (.srli d a sh) s =
    .next ((s.setG d (BitVec.ofNat 64 ((s.g a).toNat / 2 ^ sh.toNat))).retired 4)) ∧
  (Issues (.srai d a sh) s → exec (.srai d a sh) s =
    .next ((s.setG d (BitVec.ofInt 64 ((s.g a).toInt / 2 ^ sh.toNat))).retired 4)) ∧
  (∀ k z : Nat, k < 4 → z < 64 →
    decodeTableWord 32 (k * 2 ^ 30 + z * 2 ^ 24 + sh.toNat * 2 ^ 18 + a.val * 2 ^ 13 + d.val * 2 ^ 8 + 0x11) =
      if z = 0 then [Instr.slli d a sh, .srli d a sh, .srai d a sh][k]? else none) ∧
  (Issues (.movi d wide) s → exec (.movi d wide) s = .next ((s.setG d (BitVec.ofInt 64 wide.toInt)).retired 4)) ∧
  (Issues (.movsi d wide) s → exec (.movsi d wide) s =
    .next ((s.setG d (BitVec.ofNat 64 ((s.g d).toNat * 2 ^ 19 + wide.toNat))).retired 4))

/-- R59, R68: emov copies all 64 bits between the files; vtr reads the epoch over VT, and tid the identity of slot and core.
R60, R61: oadd, oaddi and mkta keep the handle apart from the offset and trap 0x3B, with TVAL gA and gD unchanged, where the
offset or a field leaves its range; hdl and ofs split an address. -/
def Obligations.MovesAndAddresses : Prop :=
  (∀ (d a : GReg) (x y : EReg) (s : State),
    (Issues (.emovEG x a) s → exec (.emovEG x a) s = .next ((s.setE x (s.g a)).retired 4)) ∧
    (Issues (.emovGE d y) s → exec (.emovGE d y) s = .next ((s.setG d (s.e y)).retired 4)) ∧
    (Issues (.emovEE x y) s → exec (.emovEE x y) s = .next ((s.setE x (s.e y)).retired 4)) ∧
    (Issues (.vtr d) s → exec (.vtr d) s = .next ((s.setG d (0#10 ++ s.epoch ++ s.vt)).retired 4)) ∧
    (Issues (.tid d) s → (s.core.id < 4096 ∨ isDispatch s.core.id = true) → exec (.tid d) s = .next ((s.setG d
      (0#7 ++ (match s.slot.chan with | some ch => BitVec.ofNat 4 ch.val | none => 0#4) ++
        (if s.sel = .act then 1#1 else 0#1) ++ (if isDispatch s.core.id then 0#12 else BitVec.ofNat 12 s.core.id) ++
        s.slot.gtid.extractLsb' 0 40)).retired 4))) ∧
  (∀ (d a b : GReg) (imm : BitVec 14) (s : State),
    (Issues (.oadd d a b) s → 0 ≤ ((s.g a).extractLsb' 0 48).toNat + (s.g b).toInt →
      ((s.g a).extractLsb' 0 48).toNat + (s.g b).toInt < 2 ^ 48 → exec (.oadd d a b) s = .next ((s.setG d
        ((s.g a).extractLsb' 48 16 ++ BitVec.ofInt 48 (((s.g a).extractLsb' 0 48).toNat + (s.g b).toInt))).retired 4)) ∧
    (Issues (.oadd d a b) s → (((s.g a).extractLsb' 0 48).toNat + (s.g b).toInt < 0 ∨
      2 ^ 48 ≤ ((s.g a).extractLsb' 0 48).toNat + (s.g b).toInt) → exec (.oadd d a b) s = trap 0x3B (s.g a) s) ∧
    (Issues (.oaddi d a imm) s → 0 ≤ ((s.g a).extractLsb' 0 48).toNat + imm.toInt →
      ((s.g a).extractLsb' 0 48).toNat + imm.toInt < 2 ^ 48 → exec (.oaddi d a imm) s = .next ((s.setG d
        ((s.g a).extractLsb' 48 16 ++ BitVec.ofInt 48 (((s.g a).extractLsb' 0 48).toNat + imm.toInt))).retired 4)) ∧
    (Issues (.oaddi d a imm) s → (((s.g a).extractLsb' 0 48).toNat + imm.toInt < 0 ∨
      2 ^ 48 ≤ ((s.g a).extractLsb' 0 48).toNat + imm.toInt) → exec (.oaddi d a imm) s = trap 0x3B (s.g a) s) ∧
    (Issues (.mkta d a b) s → (s.g a).extractLsb' 16 48 = 0 → (s.g b).extractLsb' 48 16 = 0 →
      exec (.mkta d a b) s = .next ((s.setG d ((s.g a).extractLsb' 0 16 ++ (s.g b).extractLsb' 0 48)).retired 4)) ∧
    (Issues (.mkta d a b) s → ((s.g a).extractLsb' 16 48 ≠ 0 ∨ (s.g b).extractLsb' 48 16 ≠ 0) →
      exec (.mkta d a b) s = trap 0x3B (s.g a) s) ∧
    (Issues (.hdl d a) s → exec (.hdl d a) s = .next ((s.setG d (((s.g a).extractLsb' 48 16).zeroExtend 64)).retired 4)) ∧
    (Issues (.ofs d a) s → exec (.ofs d a) s = .next ((s.setG d (((s.g a).extractLsb' 0 48).zeroExtend 64)).retired 4)))

/-- R62: a branch whose condition holds continues at its own offset plus its offset field × 2, any other at its own offset + 4.
R62, R63: the jumps: jal and jalr write the link own offset + 4 and the compact jumps none; jalr and hjr trap 0x08 for a target
with bit 0 set, with TVAL the target and no link written. -/
def Obligations.ControlTransfer : Prop :=
  (∀ (a b : GReg) (hi : BitVec 9) (lo : BitVec 5) (s : State),
    (Issues (.beq a b hi lo) s → exec (.beq a b hi lo) s = .next (if s.g a = s.g b
      then s.jumped (s.slot.pc + BitVec.ofInt 64 ((hi ++ lo).toInt * 2)) else s.retired 4)) ∧
    (Issues (.bne a b hi lo) s → exec (.bne a b hi lo) s = .next (if s.g a ≠ s.g b
      then s.jumped (s.slot.pc + BitVec.ofInt 64 ((hi ++ lo).toInt * 2)) else s.retired 4)) ∧
    (Issues (.blt a b hi lo) s → exec (.blt a b hi lo) s = .next (if (s.g a).toInt < (s.g b).toInt
      then s.jumped (s.slot.pc + BitVec.ofInt 64 ((hi ++ lo).toInt * 2)) else s.retired 4)) ∧
    (Issues (.bge a b hi lo) s → exec (.bge a b hi lo) s = .next (if (s.g a).toInt ≥ (s.g b).toInt
      then s.jumped (s.slot.pc + BitVec.ofInt 64 ((hi ++ lo).toInt * 2)) else s.retired 4)) ∧
    (Issues (.bltu a b hi lo) s → exec (.bltu a b hi lo) s = .next (if (s.g a).toNat < (s.g b).toNat
      then s.jumped (s.slot.pc + BitVec.ofInt 64 ((hi ++ lo).toInt * 2)) else s.retired 4)) ∧
    (Issues (.bgeu a b hi lo) s → exec (.bgeu a b hi lo) s = .next (if (s.g a).toNat ≥ (s.g b).toNat
      then s.jumped (s.slot.pc + BitVec.ofInt 64 ((hi ++ lo).toInt * 2)) else s.retired 4))) ∧
  (∀ (d a x : GReg) (off : BitVec 19) (imm : BitVec 14) (h : BitVec 10) (s : State),
    (Issues (.jal d off) s → exec (.jal d off) s =
      .next ((s.setG d (s.slot.pc + 4)).jumped (s.slot.pc + BitVec.ofInt 64 (off.toInt * 2)))) ∧
    (Issues (.jalr d a imm) s → (s.g a + BitVec.ofInt 64 imm.toInt).getLsbD 0 = false → exec (.jalr d a imm) s =
      .next ((s.setG d (s.slot.pc + 4)).jumped (s.g a + BitVec.ofInt 64 imm.toInt))) ∧
    (Issues (.jalr d a imm) s → (s.g a + BitVec.ofInt 64 imm.toInt).getLsbD 0 = true → exec (.jalr d a imm) s =
      trap 0x08 (s.g a + BitVec.ofInt 64 imm.toInt) s) ∧
    (Issues (.hj h) s → exec (.hj h) s = .next (s.jumped (s.slot.pc + BitVec.ofInt 64 (h.toInt * 2)))) ∧
    (Issues (.hjr x) s → (s.g x).getLsbD 0 = false → exec (.hjr x) s = .next (s.jumped (s.g x))) ∧
    (Issues (.hjr x) s → (s.g x).getLsbD 0 = true → exec (.hjr x) s = trap 0x08 (s.g x) s))

/-- R63: every compact word writes only its X register, with the effect of the instruction it equals, and takes 2 bytes; hwnull
writes a null witness whether or not the register was pending. -/
def Obligations.CompactForms : Prop := ∀ (x y : GReg) (w : WReg) (imm : BitVec 5) (s : State),
  (Issues .hnop s → exec .hnop s = .next (s.retired 2)) ∧
  (Issues (.hmov x y) s → exec (.hmov x y) s = .next ((s.setG x (s.g y)).retired 2)) ∧
  (Issues (.hadd x y) s → exec (.hadd x y) s = .next ((s.setG x (s.g x + s.g y)).retired 2)) ∧
  (Issues (.hsub x y) s → exec (.hsub x y) s = .next ((s.setG x (s.g x - s.g y)).retired 2)) ∧
  (Issues (.hand x y) s → exec (.hand x y) s = .next ((s.setG x (s.g x &&& s.g y)).retired 2)) ∧
  (Issues (.hor x y) s → exec (.hor x y) s = .next ((s.setG x (s.g x ||| s.g y)).retired 2)) ∧
  (Issues (.hxor x y) s → exec (.hxor x y) s = .next ((s.setG x (s.g x ^^^ s.g y)).retired 2)) ∧
  (Issues (.hli x imm) s → exec (.hli x imm) s = .next ((s.setG x (BitVec.ofInt 64 imm.toInt)).retired 2)) ∧
  (Issues (.haddi x imm) s → exec (.haddi x imm) s =
    .next ((s.setG x (BitVec.ofInt 64 ((s.g x).toInt + imm.toInt))).retired 2)) ∧
  (Issues (.hslli x imm) s → exec (.hslli x imm) s =
    .next ((s.setG x (BitVec.ofNat 64 ((s.g x).toNat * 2 ^ imm.toNat))).retired 2)) ∧
  (Issues (.hsrli x imm) s → exec (.hsrli x imm) s =
    .next ((s.setG x (BitVec.ofNat 64 ((s.g x).toNat / 2 ^ imm.toNat))).retired 2)) ∧
  (Issues (.hsrai x imm) s → exec (.hsrai x imm) s =
    .next ((s.setG x (BitVec.ofInt 64 ((s.g x).toInt / 2 ^ imm.toNat))).retired 2)) ∧
  (Issues (.hbeqz x imm) s → exec (.hbeqz x imm) s = .next (if s.g x = 0
    then s.jumped (s.slot.pc + BitVec.ofInt 64 (imm.toInt * 2)) else s.retired 2)) ∧
  (Issues (.hbnez x imm) s → exec (.hbnez x imm) s = .next (if s.g x ≠ 0
    then s.jumped (s.slot.pc + BitVec.ofInt 64 (imm.toInt * 2)) else s.retired 2)) ∧
  (Issues (.hwnull w) s → exec (.hwnull w) s = .next ((s.setW w (.val 0)).retired 2))

/-- R64, R65, R66: a REP starts a pair of COUNT + 1 or gX[31:0] repetitions once its follower is fetched, may follow REP and the last
repetition passes no register file; a count of 0 skips the follower; an interrupted pair resumes with its LEFT repetitions from
index DONE without reading the count again.
R41, R64, R66: a follower that may not follow REP, a STEP bit that names a field it lacks and a last repetition that passes its
register file trap 0x07 before any repetition, with TVAL the follower's word and TPC the REP; REPC records that no repetition was done and
how many remain, under either form of the prefix. A breakpoint at the follower's offset comes before (R266), so there is none. -/
def Obligations.Repeats : Prop :=
  (∀ (st cnt : BitVec 4) (x : GReg) (s : State),
    (∀ h, fetchHalf s.core s.sel (s.slot.pc + 2) = some h → Issues (.repRegister st x) s → s.slot.resume = none →
      (s.g x).toNat % 2 ^ 32 = 0 → exec (.repRegister st x) s = .next (s.mapSlot fun t => { t with
        pc := t.pc + 2 + BitVec.ofNat 64 (lengthOf h), resume := none, skip := false })) ∧
    ∀ (i : Instr) (w : Word32) (n : Nat), fetch s.core s.sel (s.slot.pc + 2) = .instr i w n →
    (privilegedInstr i = true → s.slot.priv = true) → (∀ b, feature i = some b → s.core.feat.getLsbD b = true) →
    (Issues (.repCount st cnt) s → s.slot.resume = none → repInstr st cnt.toNat i ≠ none →
      exec (.repCount st cnt) s = .next (s.mapSlot fun t => { t with
        rep := some { done := 0, left := BitVec.ofNat 32 (cnt.toNat + 1), step := st }, resume := none })) ∧
    (Issues (.repRegister st x) s → s.slot.resume = none → 0 < (s.g x).toNat % 2 ^ 32 →
      repInstr st ((s.g x).toNat % 2 ^ 32 - 1) i ≠ none →
      exec (.repRegister st x) s = .next (s.mapSlot fun t => { t with
        rep := some { done := 0, left := BitVec.ofNat 32 (s.g x).toNat, step := st }, resume := none })) ∧
    (∀ r : RepLive, s.slot.resume = some r → r.left ≠ 0 → repInstr st (r.done.toNat + r.left.toNat - 1) i ≠ none →
      (Issues (.repCount st cnt) s → exec (.repCount st cnt) s = .next (s.mapSlot fun t => { t with
        rep := some { done := r.done, left := r.left, step := st }, resume := none })) ∧
      exec (.repRegister st x) s = .next (s.mapSlot fun t => { t with
        rep := some { done := r.done, left := r.left, step := st }, resume := none }))) ∧
  (∀ (st cnt : BitVec 4) (x : GReg) (i : Instr) (w : Word32) (n : Nat) (s : State),
    fetch s.core s.sel (s.slot.pc + 2) = .instr i w n → (privilegedInstr i = true → s.slot.priv = true) →
    (∀ b, feature i = some b → s.core.feat.getLsbD b = true) → s.slot.breakAt (s.slot.pc + 2) = none → s.slot.resume = none →
    s.outstanding = [] → (∀ p ∈ [(Instr.repCount st cnt, cnt.toNat + 1), (.repRegister st x, (s.g x).toNat % 2 ^ 32)],
      Issues p.1 s → 0 < p.2 → repInstr st (p.2 - 1) i = none → ∃ t, exec p.1 s = .next t ∧
        t = enterTrap 0x07 (w.zeroExtend 64) s.slot.pc (s.mapSlot fun t => { t with rep := some { done := 0, left := BitVec.ofNat 32 p.2, step := st } }) ∧
        t.slot.repc = BitVec.ofNat 64 p.2 ∧ t.slot.rep = none))

/-- R273, R268: trap and bkpt raise 0x2E and 0x2C with TPC the next instruction and TVAL the immediate, once every outstanding
result is written; their effect is the trap's entry. So do R47 and R223's illegal word, 0x01 with TVAL the word, and fetch outside the
window, 0x11 with TVAL the offset, with TPC the instruction itself.
R273, R274, R275: eret outside a handler traps 0x01 and with an odd TPC 0x08; else it returns. csync, once every earlier instruction of
the task has retired and no overlay load of the core is in progress, takes CODEBASE as last written for its slot's fetch. wfe clears a set
latch and goes on; in an activation it traps 0x06. -/
def Obligations.TrapsReturnsAndWaits : Prop :=
  (∀ (imm : BitVec 9) (x : Word32) (o : Word) (s : State), s.outstanding = [] →
    exec (.illegalEncoding x) s = .next (enterTrap 0x01 (x.zeroExtend 64) s.slot.pc s) ∧
    exec (.overlayMiss o) s = .next (enterTrap 0x11 o s.slot.pc s) ∧
    (Issues (.trap imm) s → exec (.trap imm) s = .next (enterTrap 0x2E (imm.zeroExtend 64) (s.slot.pc + 4) s)) ∧
    (Issues (.bkpt imm) s → exec (.bkpt imm) s = .next (enterTrap 0x2C ((1#1 ++ imm).zeroExtend 64) (s.slot.pc + 4) s))) ∧
  (∀ (s : State),
    (Issues .eret s → s.slot.tcause.getLsbD 9 = true → s.slot.tpc.getLsbD 0 = false →
      exec .eret s = .next (returnFromTrap s)) ∧
    (Issues .eret s → s.slot.tcause.getLsbD 9 = false → exec .eret s = trap 0x01 s.word s) ∧
    (Issues .eret s → s.slot.tcause.getLsbD 9 = true → s.slot.tpc.getLsbD 0 = true → exec .eret s = trap 0x08 s.slot.tpc s) ∧
    (Issues .csync s → s.outstanding = [] → s.retiredAll = true → s.core.ovld = none → ∃ t, exec .csync s = .next t ∧
      t.slot.fetchbase = s.core.codebase ∧ t.slot.pc = (s.retired 4).slot.pc ∧ (∀ r, t.g r = s.g r) ∧
      (s.sel = .task → t.core.act = s.core.act) ∧ (s.sel = .act → t.core.task = s.core.task) ∧ SameMemory s t) ∧
    (Issues .wfe s → s.sel = .task → s.slot.latch = true →
      exec .wfe s = .next ((s.mapSlot fun t => { t with latch := false }).retired 4)) ∧
    (Issues .wfe s → s.sel = .act → exec .wfe s = trap 0x06 s.word s))

/-- R268, R46, R66, R264: entry to the task's own handler waits for nothing more, writes LAW, REPC, TCAUSE with INH 1, TPC and TVAL,
leaves no window and no pair, continues at TRAPV.HANDLER × 2, and leaves g, e, w, v, k, tile and accumulator contents as they are.
R267, R268, R269: a firmware-class cause, a user-class cause with TRAPV zero, and any cause while INH is 1 (a double fault with
both causes in TVAL) halt the task with its trap registers written and send firmware a trap record. -/
def Obligations.TrapEntry : Prop :=
  (∀ (c : Cause) (v p : Word) (s : State),
    causeClass c = .user → s.slot.trapv ≠ 0 → s.slot.tcause.getLsbD 9 = false → s.outstanding = [] →
    ∃ t, trapAt c v p s = .next t ∧ t.slot.tcause = 512 + c.zeroExtend 64 ∧ t.slot.tpc = p &&& 0xFFFFFFFF ∧ t.slot.tval = v ∧
      t.slot.law = BitVec.ofNat 64 (packWindows 0 s.slot.windows) ∧ t.slot.repc = packRep s.slot.pair ∧
      t.slot.windows = [] ∧ t.slot.rep = none ∧ t.slot.run = s.slot.run ∧
      t.slot.pc = ((s.slot.trapv.extractLsb' 1 31).zeroExtend 64) <<< 1 ∧
      (∀ r, t.g r = s.g r) ∧ (∀ r, t.e r = s.e r) ∧ (∀ r, t.w r = s.w r) ∧
      t.core.v = s.core.v ∧ t.core.k = s.core.k ∧ t.core.sram = s.core.sram ∧ t.core.accd = s.core.accd ∧
      t.core.mshape = s.core.mshape ∧ t.core.net = s.core.net ∧ t.others = s.others ∧ t.hbm = s.hbm ∧ t.host = s.host) ∧
  (∀ (c : Cause) (v p : Word) (s : State), s.outstanding = [] →
    ((s.slot.tcause.getLsbD 9 = false ∧ (causeClass c = .firmware ∨ (causeClass c = .user ∧ s.slot.trapv = 0))) →
      ∃ t, trapAt c v p s = .next t ∧ t.slot.run = .halted .firmware ∧ t.slot.tcause = 512 + c.zeroExtend 64 ∧
        t.slot.tpc = p &&& 0xFFFFFFFF ∧ t.slot.tval = v ∧
        t.trapRecords = s.trapRecords ++ [{ core := s.core.id, sel := s.sel, cause := c, forwarded := false }]) ∧
    (s.slot.tcause.getLsbD 9 = true →
      ∃ t, trapAt c v p s = .next t ∧ t.slot.run = .halted .firmware ∧ t.slot.tcause = 512 + 0x3F ∧
        t.slot.tpc = p &&& 0xFFFFFFFF ∧ t.slot.tval = (c.zeroExtend 64) <<< 8 + s.slot.first.zeroExtend 64 ∧
        t.trapRecords = s.trapRecords ++ [{ core := s.core.id, sel := s.sel, cause := 0x3F, forwarded := false }]))

/-- R46, R52, R66, R273: a return from the handler gives back the windows, the interrupted pair where a REP can stand at the place, and the
place the trap took away, for any state whose windows are ones LAW can hold; fetch goes on with CODEBASE. That a place whose fetch misses keeps
its pair is the model's choice (log entry 68). -/
def Obligations.HandlerRoundTrip : Prop := ∀ (c : Cause) (v p : Word) (s : State),
  causeClass c = .user → s.slot.trapv ≠ 0 → s.slot.tcause.getLsbD 9 = false → p.toNat < 2 ^ 32 →
  s.slot.windows.length ≤ 7 → (∀ w ∈ s.slot.windows, w.left ≠ 0) → (∀ r, s.slot.pair = some r → r.left ≠ 0) →
  (returnFromTrap (enterTrap c v p s)).slot.windows = s.slot.windows ∧
  (returnFromTrap (enterTrap c v p s)).slot.resume = (if mayBeRep (returnFromTrap (enterTrap c v p s)).core s.sel p
    then s.slot.pair.map (fun r => { r with step := 0 }) else none) ∧
  (returnFromTrap (enterTrap c v p s)).slot.pc = p ∧
  (returnFromTrap (enterTrap c v p s)).slot.tcause.getLsbD 9 = false ∧
  (returnFromTrap (enterTrap c v p s)).slot.repc = 0 ∧
  (returnFromTrap (enterTrap c v p s)).slot.fetchbase = s.core.codebase ∧
  ∀ r, (returnFromTrap (enterTrap c v p s)).g r = s.g r

/-- R48, R45: the causes found at decode in their order: 0x02 for a privileged instruction in an unprivileged context, 0x04 where the
FEAT bit is clear, 0x03 with TVAL the register where the instruction names a register of an open window, and 0x03 with TVAL
[7] set where a long-latency form would open an eighth window. -/
def Obligations.DecodeCauses : Prop := ∀ (i : Instr) (s : State) (k : State → Out),
  (privilegedInstr i = true → s.slot.priv = false → issue i s k = trap 0x02 s.word s) ∧
  (privilegedInstr i = false ∨ s.slot.priv = true →
    (∀ n, feature i = some n → s.core.feat.getLsbD n = false → issue i s k = trap 0x04 s.word s) ∧
    ((∀ n, feature i = some n → s.core.feat.getLsbD n = true) →
      (∀ r ∈ gNames i, s.slot.windowed r = true →
        ∃ q ∈ gNames i, s.slot.windowed q = true ∧ issue i s k = trap 0x03 (BitVec.ofNat 64 q.val) s) ∧
      ((∀ r ∈ gNames i, s.slot.windowed r = false) → ∀ r la, longLatency i = some (r, la) → r ≠ 0 → la ≠ 0 →
        7 ≤ s.slot.windows.length → issue i s k = trap 0x03 (BitVec.ofNat 64 (128 + r.val)) s)))

/-- R42, R50, R51, R52, R53, R250, R264: ctlr reads every listed register: of the core, of the slot, or of the resident task's matrix
state; COREID reads the core, RECT zero in an activation, CHTAB four bits for each channel.
R46, R50 to R53, R66, R92, R174, R219, R250, R264: ctlw writes every register that may be written with a value its layout allows:
GTID, FEAT, PARTW, EXB and CHTAB in a privileged context, the others in any; INH of TCAUSE ignores writes, CHTAB writes HOLD and
READY of valid channels, and a write of MSHAPE acts as tshape. -/
def Obligations.ControlRegisters : Prop :=
  (∀ (d : GReg) (cnum : BitVec 9) (s : State), Issues (.ctlr d cnum) s →
    (∀ p ∈ [(0x000#9, 0#16 ++ s.vt), (0x001#9, s.slot.gtid), (0x003#9, 0#61 ++ s.core.feat), (0x004#9, s.core.partw),
        (0x005#9, 0#45 ++ s.core.exb.extractLsb' 0 19), (0x006#9, 0#32 ++ s.core.codebase), (0x007#9, s.slot.repc), (0x008#9, s.slot.law),
        (0x009#9, s.slot.trapv), (0x00A#9, s.slot.tcause), (0x00B#9, s.slot.tpc), (0x00C#9, s.slot.tval),
        (0x00D#9, if s.sel = .act then 0 else s.slot.rect), (0x00F#9, s.slot.dealpat)],
      cnum = p.1 → exec (.ctlr d cnum) s = .next ((s.setG d p.2).retired 4)) ∧
    (cnum = 0x002#9 → s.core.id < 4096 → exec (.ctlr d cnum) s = .next ((s.setG d (BitVec.ofNat 64 s.core.id)).retired 4)) ∧
    (cnum = 0x00E#9 → ∃ x : Word, exec (.ctlr d cnum) s = .next ((s.setG d x).retired 4) ∧ ∀ i : Fin 16,
      x.getLsbD i.val = s.core.chans[i].valid ∧ x.getLsbD (16 + i.val) = s.core.chans[i].hold ∧
      x.getLsbD (32 + i.val) = s.core.chans[i].ready ∧
      x.getLsbD (48 + i.val) = (s.core.chans[i].valid && (s.core.chans[i].ready || s.core.chans[i].msgs.any fun m => !m.taken))) ∧
    (s.actBesideTask = false → s.core.feat.getLsbD 0 = true →
      (∀ n : AReg, cnum = BitVec.ofNat 9 (0x010 + n.val) → s.releasePending n = false →
        exec (.ctlr d cnum) s = .next ((s.setG d s.core.accd[n]).retired 4)) ∧
      (∀ n : MReg, cnum = BitVec.ofNat 9 (0x018 + n.val) →
        exec (.ctlr d cnum) s = .next ((s.setG d s.core.mshape[n]).retired 4))) ∧
    ((0x014 ≤ cnum.toNat ∧ cnum.toNat < 0x018) ∨ 0x020 ≤ cnum.toNat →
      exec (.ctlr d cnum) s = trap 0x2A (cnum.zeroExtend 64) s)) ∧
  (∀ (cnum : BitVec 9) (a : GReg) (x : Word) (s : State),
    Issues (.ctlw cnum a) s → s.g a = x →
    (∀ p ∈ [(0x006#9, x.extractLsb' 32 32 = 0 ∧ x.extractLsb' 0 8 = 0,
              { s with core := { s.core with codebase := x.truncate 32 } }),
            (0x007#9, True, s.mapSlot fun t => { t with repc := x }),
            (0x008#9, x.getLsbD 63 = false ∧ ∀ n : Fin 7, (x >>> (9 * n.val + 4)).extractLsb' 0 5 = 0 → (x >>> (9 * n.val)).extractLsb' 0 4 = 0,
              s.mapSlot fun t => { t with law := x }),
            (0x009#9, x.extractLsb' 32 32 = 0 ∧ x.getLsbD 0 = false, s.mapSlot fun t => { t with trapv := x }),
            (0x00A#9, x.extractLsb' 10 54 = 0 ∧ x.extractLsb' 6 2 = 0,
              s.mapSlot fun t => { t with tcause := (x &&& ~~~0x200#64) ||| (t.tcause &&& 0x200#64) }),
            (0x00B#9, x.extractLsb' 32 32 = 0, s.mapSlot fun t => { t with tpc := x }),
            (0x00C#9, True, s.mapSlot fun t => { t with tval := x }),
            (0x00F#9, x.extractLsb' 56 8 = 0 ∧ ((x.extractLsb' 44 12).toNat = 0 ∨ (x.extractLsb' 32 12).toNat < (x.extractLsb' 44 12).toNat),
              s.mapSlot fun t => { t with dealpat := x })],
      cnum = p.1 → p.2.1 → exec (.ctlw cnum a) s = .next (p.2.2.retired 4)) ∧
    (s.slot.priv = true →
      ∀ p ∈ [(0x001#9, x.extractLsb' 40 24 = 0, s.mapSlot fun t => { t with gtid := x }),
             (0x003#9, x.extractLsb' 3 61 = 0 ∧ x.truncate 3 &&& ~~~s.core.hw = 0, { s with core := { s.core with feat := x.truncate 3 } }),
             (0x004#9, partwReserved x = false ∧ s.core.matrix = [] ∧ s.core.vector = [] ∧ s.core.copy.idle = true ∧
                partwBreaksMatrix s.core x = false ∧ partwBreaksScratch s.core x = false,
               { s with core := { s.core with partw := x } }),
             (0x005#9, x.extractLsb' 19 45 = 0 ∧ x.extractLsb' 0 8 = 0, { s with core := { s.core with exb := x.truncate 20 } }),
             (0x00E#9, True, { s with core := { s.core with chans := Vector.ofFn fun i => if s.core.chans[i].valid then
                 { s.core.chans[i] with hold := x.getLsbD (16 + i.val), ready := x.getLsbD (32 + i.val) } else s.core.chans[i] } })],
      cnum = p.1 → p.2.1 → exec (.ctlw cnum a) s = .next (p.2.2.retired 4)) ∧
    (s.actBesideTask = false → s.core.feat.getLsbD 0 = true →
      (∀ n : AReg, cnum = BitVec.ofNat 9 (0x010 + n.val) → (∀ i, s.releasePending i = false) →
        descriptorFault s.core.partw s.core.accd n x = none →
        exec (.ctlw cnum a) s = .next ({ s with core := { s.core with accd := s.core.accd.set n x } }.retired 4)) ∧
      (∀ n : MReg, cnum = BitVec.ofNat 9 (0x018 + n.val) → s.landingDue n = false → s.core.net[n].refused = false →
        shapeFault s.core.partw s.core.mshape n x = none →
        exec (.ctlw cnum a) s = .next ({ s with core := { s.core with mshape := s.core.mshape.set n x } }.retired 4))))

/-- R50, R53: in order, an unlisted or read-only register traps 0x2A with TVAL the CNUM, a privileged one in an unprivileged context
0x02 with TVAL the CNUM, and matrix state named by an activation beside a resident task 0x05 with TVAL the CNUM. -/
def Obligations.ControlTraps : Prop := ∀ (cnum : BitVec 9) (a d : GReg) (s : State),
  (Issues (.ctlw cnum a) s → (cnum ∈ [0x000#9, 0x002#9, 0x00D#9] ∨ (0x014 ≤ cnum.toNat ∧ cnum.toNat < 0x018) ∨ 0x020 ≤ cnum.toNat) →
    exec (.ctlw cnum a) s = trap 0x2A (cnum.zeroExtend 64) s) ∧
  (Issues (.ctlw cnum a) s → s.slot.priv = false → cnum ∈ [0x001#9, 0x003#9, 0x004#9, 0x005#9, 0x00E#9] →
    exec (.ctlw cnum a) s = trap 0x02 (cnum.zeroExtend 64) s) ∧
  (s.actBesideTask = true → ((0x010 ≤ cnum.toNat ∧ cnum.toNat < 0x014) ∨ (0x018 ≤ cnum.toNat ∧ cnum.toNat < 0x020)) →
    (Issues (.ctlw cnum a) s → exec (.ctlw cnum a) s = trap 0x05 (cnum.zeroExtend 64) s) ∧
    (Issues (.ctlr d cnum) s → exec (.ctlr d cnum) s = trap 0x05 (cnum.zeroExtend 64) s))

/-- R151, R182, R43, R44: an ld whose access passes its checks leaves its result outstanding, to be read at its places, and opens its
window; one sent early for its address takes the value read then. A witnessed ld does so once its witness is a value in scope.
R159, R161: crd and xrd leave their result outstanding at package scope or below and trap 0x1D above it; cwait goes on once the
counter has reached gB and the scope's datum has passed the line's stamp, at once or when it comes to pass the stamp read then, and traps
0x06 in an activation. -/
def Obligations.LoadsAndReads : Prop :=
  (∀ (la : BitVec 4) (sc : Scope) (z : Size) (disp : BitVec 5) (w : WReg) (a d : GReg) (ta : Word)
      (r : Reach) (ps : List Place) (s t : State),
    (Issues (.ld la sc z disp a d) s → offsetAdd (s.g a) (s.disp disp z.bytes) = some ta → (s.takeEarly ta).1 = none →
      Reaches .load true false ta z.bytes (s.takeEarly ta).2 t r ps → t.loadHeld (ps.flatMap fun p => p.lines z.bytes) t.queued = false →
      exec (.ld la sc z disp a d) s = .next ((t.addResult d (.load (loadOf ps z.bytes (ldKind r) sc none ta))).opened 4 d la)) ∧
    (∀ v, Issues (.ld la sc z disp a d) s → offsetAdd (s.g a) (s.disp disp z.bytes) = some ta → (s.takeEarly ta).1 = some v →
      s.slot.watched true false ta z.bytes = none →
      exec (.ld la sc z disp a d) s = .next (((s.takeEarly ta).2.addResult d v).opened 4 d la)) ∧
    (∀ x, Issues (.ldAfter la sc z w a d) s → s.w w = .val x → offsetAdd (s.g a) 0 = some ta → s.scopeOk x sc s.core.id = true →
      Reaches .load true false ta z.bytes s t r ps → t.loadHeld (ps.flatMap fun p => p.lines z.bytes) t.queued = false →
      exec (.ldAfter la sc z w a d) s = .next ((t.addResult d (.load (loadOf ps z.bytes (ldKind r) sc (some x) ta))).opened 4 d la))) ∧
  (∀ (la : BitVec 4) (sc : Scope) (a b d : GReg) (ta : Word) (s t : State),
    offsetAdd (s.g a) 0 = some ta →
    (∀ r ps, Reaches .crd true false ta 8 s t r ps →
      (Issues (.crd la sc a d) s → sc.code ≤ 4 → t.loadHeld (ps.flatMap fun p => p.lines 8) t.queued = false →
        exec (.crd la sc a d) s = .next ((t.addResult d (.load (loadOf ps 8 .crd sc none ta))).opened 4 d la)) ∧
      (Issues (.crd la sc a d) s → 4 < sc.code → exec (.crd la sc a d) s = trap 0x1D s.word t) ∧
      (Issues (.cwait sc a b) s → s.sel = .task → s.slot.cwait = none → sc.code ≤ 4 → ∀ p l, ps = p :: l →
        t.loadHeld [p.line] t.queued = false → t.poisonedAt p = false → (s.g b).toNat ≤ t.natAt p 8 →
        (t.datumPast s.core.id sc (t.lineStamp p) = true → exec (.cwait sc a b) s = .next (t.retired 4)) ∧
        (t.datumPast s.core.id sc (t.lineStamp p) = false → exec (.cwait sc a b) s =
          stall (t.mapSlot fun k => { k with cwait := some (t.lineStamp p) })))) ∧
    (∀ st, Issues (.cwait sc a b) s → s.sel = .task → s.slot.cwait = some st → s.datumPast s.core.id sc st = true →
      exec (.cwait sc a b) s = .next (s.retired 4)) ∧
    (Issues (.cwait sc a b) s → s.sel = .act → exec (.cwait sc a b) s = trap 0x06 s.word s) ∧
    (∀ r ps, Reaches .xrd true false ta 64 s t r ps →
      (Issues (.xrd la sc a d) s → sc.code ≤ 4 → t.loadHeld (ps.flatMap fun p => p.lines 64) t.queued = false →
        exec (.xrd la sc a d) s = .next ((t.addResult d (.load (loadOf ps 64 .xrd sc none ta))).opened 4 d la)) ∧
      (Issues (.xrd la sc a d) s → 4 < sc.code → exec (.xrd la sc a d) s = trap 0x1D s.word t)))

/-- R151: st sends the low SIZE bytes of gD to [gA + d] on its stream, and st -> wN to [gA], and writes the store's witness to wN besides;
each goes on behind itself.
R61, R151, R138: an ld or st whose offset leaves 0 to 2^48 − 1 traps 0x3B with TVAL gA before any other check; an ld, a witnessed ld, an
st, an st -> wN or a posted atomic whose access fails a check traps the cause of that check with TVAL the tree address. -/
def Obligations.StoresAndAccessTraps : Prop :=
  (∀ (str : Stream) (z : Size) (disp : BitVec 5) (w : WReg) (a d : GReg) (ta : Word) (r : Reach)
      (ps : List Place) (s t : State), Reaches .store false true ta z.bytes s t r ps → MaySend str ps t →
    (Issues (.st str z disp a d) s → offsetAdd (s.g a) (s.disp disp z.bytes) = some ta →
      exec (.st str z disp a d) s = .next ((t.send str (.bytes ((natBytes z.bytes (s.g d).toNat).map some)) ta none ps).retired 4)) ∧
    (Issues (.stWitness str z w a d) s → offsetAdd (s.g a) 0 = some ta →
      exec (.stWitness str z w a d) s = .next (((t.send str (.bytes ((natBytes z.bytes (s.g d).toNat).map some)) ta none ps).setW w
        (.val (t.issueWitness r str ps))).retired 4))) ∧
  (∀ (la : BitVec 4) (sc : Scope) (str : Stream) (z : Size) (disp : BitVec 5) (w : WReg) (wr : Option WReg)
      (wide : Bool) (a b d : GReg) (s : State),
    (Issues (.ld la sc z disp a d) s → offsetAdd (s.g a) (s.disp disp z.bytes) = none →
      exec (.ld la sc z disp a d) s = trap 0x3B (s.g a) s) ∧
    (Issues (.st str z disp a d) s → offsetAdd (s.g a) (s.disp disp z.bytes) = none →
      exec (.st str z disp a d) s = trap 0x3B (s.g a) s) ∧
    (∀ ta c, Issues (.ld la sc z disp a d) s → offsetAdd (s.g a) (s.disp disp z.bytes) = some ta → (s.takeEarly ta).1 = none →
      (s.takeEarly ta).2.reach s.core.id s.slot.ctx .load true ta z.bytes = .error c →
      exec (.ld la sc z disp a d) s = trap c ta (s.takeEarly ta).2) ∧
    (∀ ta c x, Issues (.ldAfter la sc z w a d) s → s.w w = .val x → offsetAdd (s.g a) 0 = some ta →
      s.reach s.core.id s.slot.ctx .load true ta z.bytes = .error c → exec (.ldAfter la sc z w a d) s = trap c ta s) ∧
    (∀ ta c, Issues (.st str z disp a d) s → offsetAdd (s.g a) (s.disp disp z.bytes) = some ta →
      s.reach s.core.id s.slot.ctx .store true ta z.bytes = .error c → exec (.st str z disp a d) s = trap c ta s) ∧
    (∀ ta c, Issues (.stWitness str z w a d) s → offsetAdd (s.g a) 0 = some ta →
      s.reach s.core.id s.slot.ctx .store true ta z.bytes = .error c → exec (.stWitness str z w a d) s = trap c ta s) ∧
    (∀ ta c, ∀ i ∈ [Instr.postedAadd wr str wide a b, .postedAand wr str wide a b, .postedAor wr str wide a b, .postedAxor wr str wide a b,
        .postedAmin wr str wide a b, .postedAmax wr str wide a b], Issues i s → offsetAdd (s.g a) 0 = some ta →
      s.reach s.core.id s.slot.ctx .posted true ta (if wide then 8 else 4) = .error c → exec i s = trap c ta s))

/-- R154, R156, R158, R160: the posted atomics, cadd, xadd and xclr send their operation to [gA] and write a witness where one is
named.
R154, R43: the returning atomics send their operation with a reply to gD, which stays outstanding under its window; acas compares
with gD. -/
def Obligations.AtomicsIssue : Prop :=
  (∀ (wr : Option WReg) (str : Stream) (a b : GReg) (ta : Word) (r : Reach)
      (ps : List Place) (s t : State), offsetAdd (s.g a) 0 = some ta → MaySend str ps t →
    (∀ wide : Bool, Reaches .posted false true ta (if wide then 8 else 4) s t r ps →
      ∀ p ∈ [(Instr.postedAadd wr str wide a b, UetOp.add), (.postedAand wr str wide a b, .and), (.postedAor wr str wide a b, .or),
             (.postedAxor wr str wide a b, .xor), (.postedAmin wr str wide a b, .min), (.postedAmax wr str wide a b, .max)],
        Issues p.1 s → exec p.1 s = .next (((t.send str (.atomic p.2 wide (s.g b) 0) ta none ps).setWOpt wr
          (t.issueWitness r str ps)).retired 4)) ∧
    (Reaches .posted false true ta 4 s t r ps → Issues (.postedAfadd wr str a b) s → exec (.postedAfadd wr str a b) s =
      .next (((t.send str (.fadd ((s.g b).truncate 32)) ta none ps).setWOpt wr (t.issueWitness r str ps)).retired 4)) ∧
    (Reaches .cadd false true ta 8 s t r ps → Issues (.cadd wr str a b) s → exec (.cadd wr str a b) s =
      .next (((t.send str (.cadd (s.g b)) ta none ps).setWOpt wr (t.issueWitness r str ps)).retired 4)) ∧
    (Reaches .xadd false true ta 64 s t r ps →
      (∀ p ∈ [(Instr.xaddFp32 wr str a b, (s.g b).truncate 32), (.xaddBf16 wr str a b, roundFp32 (bf16 ((s.g b).truncate 32))),
              (.xaddFp8 wr str a b, roundFp32 (fp8 ((s.g b).truncate 32)))],
        Issues p.1 s → exec p.1 s = .next (((t.send str (.xadd p.2) ta none ps).setWOpt wr (t.issueWitness r str ps)).retired 4)) ∧
      (Issues (.xclr wr str a) s → exec (.xclr wr str a) s =
        .next (((t.send str .xclr ta none ps).setWOpt wr (t.issueWitness r str ps)).retired 4)))) ∧
  (∀ (la : BitVec 4) (str : Stream) (a b d : GReg) (ta : Word) (r : Reach)
      (ps : List Place) (s t : State), offsetAdd (s.g a) 0 = some ta → MaySend str ps t →
    (∀ wide : Bool, Reaches .returning true true ta (if wide then 8 else 4) s t r ps →
      ∀ p ∈ [(Instr.retAadd la str wide a b d, UetOp.add, 0), (.retAand la str wide a b d, .and, 0), (.retAor la str wide a b d, .or, 0),
             (.retAxor la str wide a b d, .xor, 0), (.retAmin la str wide a b d, .min, 0), (.retAmax la str wide a b d, .max, 0),
             (.aswap la str wide a b d, .swap, 0), (.acas la str wide a b d, .cas, s.g d)],
        Issues p.1 s → exec p.1 s = .next (((t.send str (.atomic p.2.1 wide (s.g b) p.2.2) ta (some (s.core.id, s.sel, d)) ps).addResult d
          .reply).opened 4 d la)) ∧
    (Reaches .returning true true ta 4 s t r ps → Issues (.retAfadd la str a b d) s → exec (.retAfadd la str a b d) s =
      .next (((t.send str (.fadd ((s.g b).truncate 32)) ta (some (s.core.id, s.sel, d)) ps).addResult d .reply).opened 4 d la)))

/-- R140, R141, R151, R189: sending a store moves its stream's sequence by one, puts one store for each place on its way with that
sequence, stamped with the VT, and changes no byte of memory and no register. -/
def Obligations.SendingAStore : Prop := ∀ (str : Stream) (op : StoreOp) (ta : Word) (reply : Option (Nat × SlotSel × GReg))
    (ps : List Place) (s : State),
  (∀ q, (s.send str op ta reply ps).slot.streams[q] = if q = str then s.slot.streams[str] + 1 else s.slot.streams[q]) ∧
  (∃ l, (s.send str op ta reply ps).stores = s.stores ++ l ∧ l.map (·.place) = ps ∧
    ∀ x ∈ l, x.src = s.core.id ∧ x.origin = originOf s.sel ∧ x.stream = str ∧ x.seq = s.slot.streams[str] + 1 ∧ x.stamp = s.vt ∧
      x.op = op ∧ x.phase = .issued ∧ x.reply = reply ∧ x.ta = ta ∧ x.kernel = s.slot.kernel) ∧
  SameMemory s (s.send str op ta reply ps) ∧
  (∀ g, (s.send str op ta reply ps).g g = s.g g) ∧ (∀ e, (s.send str op ta reply ps).e e = s.e e) ∧
  (∀ w, (s.send str op ta reply ps).w w = s.w w) ∧ (s.send str op ta reply ps).slot.pc = s.slot.pc

/-- R132, R135, R146, R152: wnull writes the null witness, wstamp a stamp of now below host scope, wget a half of a witness and wput both
halves unless a zero field is set (0x1E, TVAL gA); wmerge merges two witnesses of this device.
R152, R146, R153: wchk goes on once its witness is satisfied at the scope and traps 0x06 in an activation when it is not; wtest never
waits and writes whether it is; a scope the witness is not valid to traps 0x1D; drain goes on once every store of its streams
has settled, with a stamp witness of the VT it issued at. -/
def Obligations.Witnesses : Prop :=
  (∀ (sc : Scope) (d : WReg) (a b : WReg) (g h : GReg) (hi : Bool) (s : State),
    (Issues (.wnull d) s → exec (.wnull d) s = .next ((s.setW d (.val 0)).retired 4)) ∧
    (Issues (.wstamp sc d) s → sc.code < 6 → exec (.wstamp sc d) s = .next ((s.setW d (.val s.stampNow)).retired 4)) ∧
    (Issues (.wstamp sc d) s → 6 ≤ sc.code → exec (.wstamp sc d) s = trap 0x1D s.word s) ∧
    (∀ x, Issues (.wget hi g a) s → s.w a = .val x → exec (.wget hi g a) s =
      .next ((s.setG g (if hi then x.extractLsb' 64 64 else x.extractLsb' 0 64)).retired 4)) ∧
    (Issues (.wput d g h) s → witMalformed (s.g g ++ s.g h) = false →
      exec (.wput d g h) s = .next ((s.setW d (.val (s.g g ++ s.g h))).retired 4)) ∧
    (Issues (.wput d g h) s → witMalformed (s.g g ++ s.g h) = true → exec (.wput d g h) s = trap 0x1E (s.g g) s) ∧
    (∀ x y, Issues (.wmerge d a b) s → s.w a = .val x → s.w b = .val y →
      (witKind x = 0 ∨ s.expired x = true ∨ witDevice x = s.device.toNat) →
      (witKind y = 0 ∨ s.expired y = true ∨ witDevice y = s.device.toNat) →
      exec (.wmerge d a b) s = .next ((s.setW d (.val (s.merged x y))).retired 4))) ∧
  (∀ (sc : Scope) (a : WReg) (g : GReg) (mask : BitVec 8) (wr : Option WReg) (x : Word128) (s : State),
    (Issues (.wchk sc a) s → s.w a = .val x → (s.triviallySatisfied x = true ∨ (s.scopeOk x sc s.core.id = true ∧
      s.satisfied x sc s.core.id = true)) → exec (.wchk sc a) s = .next (s.retired 4)) ∧
    (Issues (.wchk sc a) s → s.w a = .val x → s.triviallySatisfied x = false → s.scopeOk x sc s.core.id = false →
      exec (.wchk sc a) s = trap 0x1D s.word s) ∧
    (Issues (.wchk sc a) s → s.w a = .val x → s.triviallySatisfied x = false → s.scopeOk x sc s.core.id = true →
      s.satisfied x sc s.core.id = false → s.sel = .act → exec (.wchk sc a) s = trap 0x06 s.word s) ∧
    (Issues (.wtest sc g a) s → s.w a = .val x → (s.triviallySatisfied x = true ∨ s.scopeOk x sc s.core.id = true) →
      exec (.wtest sc g a) s = .next ((s.setG g (if s.triviallySatisfied x ∨ s.satisfied x sc s.core.id then 1 else 0)).retired 4)) ∧
    (∀ why n, Issues (.wtest sc g a) s → s.w a = .pending why n → (why ≠ .confirmation ∨ s.sel = .task) →
      exec (.wtest sc g a) s = .next ((s.setG g 0).retired 4)) ∧
    (Issues (.drain mask wr) s → s.drained mask = true → exec (.drain mask wr) s =
      .next ((s.setWOpt wr (stampWitness s.epoch (s.slot.drainVt.getD s.vt) s.device.toNat)).retired 4)))

/-- R95, R97, R93, R43: tshape writes MSHAPE after the checks of R10; tzero, mrel, macz and mrd retire into the matrix queue with the shape
or descriptor they found; mrd's register stays outstanding under its window.
R10: the checks of a shape: 0x17 where bits [63:24] are set, TYPE is above 3, a side is above 128 or the tile is above 16,384 bytes;
0x18 where a tile that is not empty has its BASE outside the tile area or on the base of another such tile; else it is written. -/
def Obligations.MatrixRegisterFormsAndShapes : Prop :=
  (∀ (m : MReg) (acc : AReg) (la : BitVec 4) (a b d : GReg) (s : State),
    (MatrixReady (.tshape m a) [m] s → shapeFault s.core.partw s.core.mshape m (s.g a) = none →
      exec (.tshape m a) s = .next ({ s with core := { s.core with mshape := s.core.mshape.set m (s.g a) } }.retired 4)) ∧
    (MatrixReady (.tshape m a) [m] s → ∀ c, shapeFault s.core.partw s.core.mshape m (s.g a) = some c →
      exec (.tshape m a) s = trap c (s.g a) s) ∧
    (MatrixReady (.tzero m) [m] s →
      exec (.tzero m) s = .next ((s.queueMatrix (s.op (.tzero m) [s.core.mshape[m]] [] [] [])).retired 4)) ∧
    (MatrixReady (.mrel acc) [] s → exec (.mrel acc) s = .next ((s.queueMatrix (s.op (.mrel acc) [] [] [] [])).retired 4)) ∧
    (MatrixReady (.macz acc) [] s → s.releasePending acc = false →
      exec (.macz acc) s = .next ((s.queueMatrix (s.op (.macz acc) [s.core.accd[acc]] [] [] [])).retired 4)) ∧
    (MatrixReady (.mrd la d acc b) [] s → s.releasePending acc = false → (s.g b).extractLsb' 16 48 = 0 →
      ((s.g b).extractLsb' 0 8).toNat < accRows s.core.accd[acc] → ((s.g b).extractLsb' 8 8).toNat < accCols s.core.accd[acc] →
      exec (.mrd la d acc b) s = .next (((s.queueMatrix (s.op (.mrd la d acc b) [s.core.accd[acc], s.g b] [] [] [])).addResult d
        (.engine s.tick)).opened 4 d la)) ∧
    (MatrixReady (.mrd la d acc b) [] s → s.releasePending acc = false → ((s.g b).extractLsb' 16 48 ≠ 0 ∨
      accRows s.core.accd[acc] ≤ ((s.g b).extractLsb' 0 8).toNat ∨ accCols s.core.accd[acc] ≤ ((s.g b).extractLsb' 8 8).toNat) →
      exec (.mrd la d acc b) s = trap 0x19 s.word s)) ∧
  (∀ (partw : Word) (shapes : Vector Word 8) (d : MReg) (x : Word),
    ((x.extractLsb' 24 40 ≠ 0 ∨ 3 < (x.extractLsb' 5 3).toNat ∨ 128 < (x.extractLsb' 8 8).toNat ∨ 128 < (x.extractLsb' 16 8).toNat ∨
        16384 < shBytes x) → shapeFault partw shapes d x = some 0x17) ∧
    (x.extractLsb' 24 40 = 0 → (x.extractLsb' 5 3).toNat ≤ 3 → (x.extractLsb' 8 8).toNat ≤ 128 → (x.extractLsb' 16 8).toNat ≤ 128 →
      shBytes x ≤ 16384 →
      (x.extractLsb' 8 8 = 0 ∨ x.extractLsb' 16 8 = 0 → shapeFault partw shapes d x = none) ∧
      (x.extractLsb' 8 8 ≠ 0 → x.extractLsb' 16 8 ≠ 0 →
        ((partw.extractLsb' 0 6).toNat ≤ (x.extractLsb' 0 5).toNat ∨ (∃ i, i ≠ d ∧ shNonempty shapes[i] = true ∧
          (shapes[i]).extractLsb' 0 5 = x.extractLsb' 0 5) → shapeFault partw shapes d x = some 0x18) ∧
        ((x.extractLsb' 0 5).toNat < (partw.extractLsb' 0 6).toNat → (∀ i, i ≠ d → shNonempty shapes[i] = true →
          (shapes[i]).extractLsb' 0 5 ≠ x.extractLsb' 0 5) → shapeFault partw shapes d x = none))))

/-- R96, R102: tld, tst and mepi check and translate every row, and retire into the matrix queue with their pieces; an empty tile moves
nothing and takes no place; mepi leaves w15 pending where WV is 1 and captures gB and e1. -/
def Obligations.MatrixMemoryForms : Prop := ∀ (m : MReg) (a b : GReg) (e : EReg) (disp : BitVec 5) (sc : Scope) (str : Stream) (act : Act)
    (wv rel : Bool) (out : OutFmt) (acc : AReg) (tas : List Word) (ps : List (List (Place × Nat))) (ts : List Word) (s t : State),
  (∀ p ∈ [(Instr.tld m a disp e, AccOp.load), (.tst m a disp e, .store)],
    (MatrixReady p.1 [m] s → shNonempty s.core.mshape[m] = false → exec p.1 s = .next (s.retired 4)) ∧
    (MatrixReady p.1 [m] s → shNonempty s.core.mshape[m] = true →
      rowAddresses (s.g a) ((List.range (shRows s.core.mshape[m])).map fun (r : Nat) => s.disp disp 64 + (r : Int) * (s.e e).toInt) = some tas →
      RowsReach p.2 tas (shCols s.core.mshape[m] * elemSize (shType s.core.mshape[m])) s t ps ts →
      exec p.1 s = .next ((if p.2.reads then t.queueMatrix (t.op p.1 [s.core.mshape[m]] [] ps ts)
        else (t.queueMatrix (t.op p.1 [s.core.mshape[m]] [] ps ts)).soil ps.flatten).retired 4))) ∧
  (MatrixReady (.mepi sc str act wv b a rel out acc) [] s → (wv = true → sc.code ≤ 5) → s.releasePending acc = false →
    rowAddresses (s.g a) ((List.range (if accCols s.core.accd[acc] = 0 then 0 else accRows s.core.accd[acc])).map fun (r : Nat) =>
      (r : Int) * (s.e 0).toInt) = some tas →
    RowsReach .store tas (accCols s.core.accd[acc] * out.bytes) s t ps ts →
    exec (.mepi sc str act wv b a rel out acc) s = .next ((if wv
      then ((t.queueMatrix (t.op (.mepi sc str act wv b a rel out acc) [s.core.accd[acc], s.g b, s.e 1] [] ps ts)).soil
        ps.flatten).setW 15 (.pending .epilogue s.tick)
      else (t.queueMatrix (t.op (.mepi sc str act wv b a rel out acc) [s.core.accd[acc], s.g b, s.e 1] [] ps ts)).soil
        ps.flatten).retired 4))

/-- R13, R98, R99, R284, R327: mma and mmar trap 0x17 where the tiles' types or inner sizes differ or are FP32 and 0x19 where the region is not
rows(ma) × cols(mb); else they retire with the scale gS and the lanes of vP and vP + 1 captured, and an uncorrectable error in a lane
register is noted, at retirement by the model's reading (log entry 10). mmar first traps 0x22 outside a rectangle and 0x23 where its rectangle has not all its members or has lost one, and 0x17
for one register twice. -/
def Obligations.Multiplications : Prop := ∀ (zf : Bool) (acc : AReg) (a b : MReg) (vp : VReg) (gs : GReg) (s : State),
  let sa := s.core.mshape[a]
  let sb := s.core.mshape[b]
  let x := s.core.accd[acc]
  let queued : Instr → State := fun i => (s.queueMatrix (s.op i [sa, sb, x, s.g gs, s.slot.rect]
    (s.core.v[vp].toList ++ s.core.v[pairOf vp].toList) [] [])).noteFlaws [.v vp, .v (pairOf vp)]
  let lanes := ∀ o ∈ s.core.vector, vectorWrites o.instr vp = false ∧ vectorWrites o.instr (pairOf vp) = false
  (MatrixReady (.mma zf acc a b vp gs) [a, b] s → s.releasePending acc = false →
    (mmaFault sa sb x = none → lanes → exec (.mma zf acc a b vp gs) s = .next ((queued (.mma zf acc a b vp gs)).retired 4)) ∧
    (∀ c, mmaFault sa sb x = some c → exec (.mma zf acc a b vp gs) s = trap c s.word s)) ∧
  (MatrixReady (.mmar zf acc a b vp gs) [a, b] s → s.slot.rect.getLsbD 16 = true →
    ∀ q, s.rectOf s.core.id = some q → q.whole = true → (∀ c ∈ s.copies, c.src = s.core.id → c.reg ≠ a ∧ c.reg ≠ b) →
    (a = b → exec (.mmar zf acc a b vp gs) s = trap 0x17 s.word s) ∧
    (a ≠ b → s.releasePending acc = false →
      (mmaFault sa sb x = none → lanes → exec (.mmar zf acc a b vp gs) s = .next ((queued (.mmar zf acc a b vp gs)).retired 4)) ∧
      (∀ c, mmaFault sa sb x = some c → exec (.mmar zf acc a b vp gs) s = trap c s.word s))) ∧
  (MatrixReady (.mmar zf acc a b vp gs) [] s →
    (s.slot.rect.getLsbD 16 = false → exec (.mmar zf acc a b vp gs) s = trap 0x22 s.word s) ∧
    (s.slot.rect.getLsbD 16 = true → ∀ q, s.rectOf s.core.id = some q → q.whole = false →
      exec (.mmar zf acc a b vp gs) s = trap 0x23 s.word s)) ∧
  (∀ q : Group, ∀ base lw lh, q.rect = some (base, lw, lh) → (q.whole = true ↔ q.broken = false ∧ q.members.length = 2 ^ lw * 2 ^ lh)) ∧
  ∀ c d y : Word, (mmaFault c d y = none ↔ c.extractLsb' 5 3 = d.extractLsb' 5 3 ∧ c.extractLsb' 5 3 ≠ 3 ∧
    c.extractLsb' 16 8 = d.extractLsb' 8 8 ∧ y.extractLsb' 0 8 = c.extractLsb' 8 8 ∧ y.extractLsb' 8 8 = d.extractLsb' 16 8)

/-- R107, R108, R115 to R125: the vector and mask register forms retire into the vector queue with the g operands they capture; 0x05 in an
activation beside a resident task.
R126, R43: vmovg and kmovg retire into the vector queue and leave gD outstanding under its window. -/
def Obligations.VectorRegisterForms : Prop :=
  (∀ (mask : Option KReg) (c : Cmp) (cv : Cvt) (rm : Rm) (d a b : VReg) (k p q : KReg) (g h : GReg)
      (s : State),
    (∀ i ∈ [Instr.vfadd mask d a b, .vfsub mask d a b, .vfmul mask d a b, .vfma mask d a b, .vfms mask d a b, .vfnma mask d a b,
        .vfmin mask d a b, .vfmax mask d a b, .vfabs mask d a, .vfneg mask d a, .vadd mask d a b, .vsub mask d a b, .vmul mask d a b,
        .vand mask d a b, .vor mask d a b, .vxor mask d a b, .vsll mask d a b, .vsrl mask d a b, .vsra mask d a b, .vmin mask d a b,
        .vmax mask d a b, .vcmp c mask k a b, .vsel k d a b, .vcvt cv mask rm d a, .vrfadd mask d a, .vrfmax mask d a, .vrfmin mask d a,
        .vradd mask d a, .vrmax mask d a, .vrmin mask d a, .vrcp mask d a, .vrsqrt mask d a, .vsqrt mask d a, .vexp2 mask d a,
        .vlog2 mask d a, .vexp mask d a, .vtanh mask d a, .vperm mask d a b, .vrev mask d a, .kand k p q, .kor k p q, .kxor k p q,
        .knot k p, .kmov k p, .kset k, .kclr k, .vscl mask d a b],
      (VectorReady i s → exec i s = .next ((s.queueVector (s.op i [] [] [] [])).retired 4)) ∧
      (Issues i s → s.actBesideTask = true → exec i s = trap 0x05 s.word s)) ∧
    (∀ i ∈ [(Instr.vrot mask d a g, [s.g g]), (.vsplat mask d g, [s.g g]), (.vins mask d g h, [s.g g, s.g h]), (.kfromg k g, [s.g g]),
        (.vscls mask d a g, [s.g g])],
      (VectorReady i.1 s → exec i.1 s = .next ((s.queueVector (s.op i.1 i.2 [] [] [])).retired 4)) ∧
      (Issues i.1 s → s.actBesideTask = true → exec i.1 s = trap 0x05 s.word s))) ∧
  (∀ (la : BitVec 4) (d : GReg) (a : VReg) (lane : Fin 64) (k : KReg) (s : State),
    ∀ i ∈ [Instr.vmovg la d a lane, .kmovg la d k], VectorReady i s →
      exec i s = .next (((s.queueVector (s.op i [] [] [] [])).addResult d (.engine s.tick)).opened 4 d la))

/-- R108, R111, R113, R327: vld, vst, vlds and vsts check base and stride whatever the mask says (0x08 with TVAL the address, 0x09 with TVAL the
stride), check and translate every enabled lane, wait for what else of the task touches their lines, a store form for room on its
stream for every store it will issue, and retire into the vector queue; an uncorrectable error in the mask register is noted then, by the
model's reading (log entry 10). -/
def Obligations.VectorMemoryForms : Prop := ∀ (mask : Option KReg) (w : Width) (str : Stream) (disp : BitVec 5) (e : EReg) (a : GReg) (d : VReg)
    (s : State),
  (∀ k, mask = some k → ∀ o ∈ s.core.vector, maskWrites o.instr k = false) →
  let m := maskOf s.core.k mask
  let rows : Int → Int → Option (List Word) := fun ofs step => rowAddresses (s.g a) ((enabledLanes m).map fun (j : Fin 64) => ofs + (j.val : Int) * step)
  let span : Int := s.disp disp (64 * w.bytes)
  let lines : List (List (Place × Nat)) → List Place := fun ps => ps.flatten.map fun p => p.1.line
  (∀ t tas ps ts, VectorReady (.vld mask w disp a d) s → ((taOfs (s.g a) : Int) + span) % w.bytes = 0 → rows span w.bytes = some tas →
    RowsReach .load tas w.bytes s t ps ts → t.vldReady (lines ps) = true →
    exec (.vld mask w disp a d) s = .next (((t.queueVector (t.op (.vld mask w disp a d) [m] [] ps ts)).noteFlaws (maskName mask)).retired 4)) ∧
  (∀ t tas ps ts, VectorReady (.vst mask w str disp a d) s → ((taOfs (s.g a) : Int) + span) % w.bytes = 0 → rows span w.bytes = some tas →
    RowsReach .store tas w.bytes s t ps ts → t.vstReady str (lineRuns ts) (lines ps) = true →
    exec (.vst mask w str disp a d) s = .next ((((t.queueVector (t.op (.vst mask w str disp a d) [m] [] ps ts)).soil
      ps.flatten).noteFlaws (maskName mask)).retired 4)) ∧
  (∀ t tas ps ts, VectorReady (.vlds mask w e a d) s → (taOfs (s.g a) : Int) % w.bytes = 0 → (s.e e).toInt % w.bytes = 0 →
    rows 0 (s.e e).toInt = some tas → RowsReach .load tas w.bytes s t ps ts → t.vldReady (lines ps) = true →
    exec (.vlds mask w e a d) s = .next (((t.queueVector (t.op (.vlds mask w e a d) [m] [] ps ts)).noteFlaws (maskName mask)).retired 4)) ∧
  (∀ t tas ps ts, VectorReady (.vsts mask w str e a d) s → (taOfs (s.g a) : Int) % w.bytes = 0 → (s.e e).toInt % w.bytes = 0 →
    rows 0 (s.e e).toInt = some tas → RowsReach .store tas w.bytes s t ps ts → t.vstReady str ts.length (lines ps) = true →
    exec (.vsts mask w str e a d) s = .next ((((t.queueVector (t.op (.vsts mask w str e a d) [m] [] ps ts)).soil
      ps.flatten).noteFlaws (maskName mask)).retired 4)) ∧
  (∀ p ∈ [(Instr.vld mask w disp a d, span), (.vst mask w str disp a d, span), (.vlds mask w e a d, 0), (.vsts mask w str e a d, 0)],
    Issues p.1 s → s.actBesideTask = false → ((taOfs (s.g a) : Int) + p.2) % w.bytes ≠ 0 →
    exec p.1 s = trap 0x08 (mkTa (taHandle (s.g a)) (((taOfs (s.g a) : Int) + p.2) % 2 ^ 48).toNat) s) ∧
  (∀ p ∈ [(Instr.vlds mask w e a d), (.vsts mask w str e a d)], Issues p s → s.actBesideTask = false →
    (taOfs (s.g a) : Int) % w.bytes = 0 → (s.e e).toInt % w.bytes ≠ 0 → exec p s = trap 0x09 (s.e e) s)

/-- R109, R115 to R125: the lanes a vector instruction leaves when the engine executes it: enabled lanes hold the form's
result on the lanes it finds, disabled lanes keep their own, and no other v register changes; a reduction leaves the root of the fixed tree
over its enabled lanes, the others entering as the identity, in every lane.
R118, R124, R126: the mask instructions and vcmp leave their kD, and vmovg and kmovg their result, when the engine executes them.
R108, R111, R113, R327: a step of vld or vlds gives each lane it covers the bytes at its place, or ends the instruction at the first lane
whose bytes have an uncorrectable error, which the task is told of; one of vst or vsts sends one store of the lanes it covers. -/
def Obligations.VectorResults : Prop :=
  (∀ (mask : Option KReg) (m : KReg) (cv : Cvt) (rm : Rm) (d a b : VReg) (g h : GReg) (o : EngOp) (l : List EngOp) (core : Nat)
      (s : State), core < Config.cores → (s.coreOf core).id = core → (s.coreOf core).vector = o :: l → o.done = 0 → o.places = [] →
    let v := (s.coreOf core).v
    let on := fun j : Fin 64 => (maskOf (s.coreOf core).k mask).getLsbD j.val
    let x := fun j : Fin 64 => v[a][j]
    let y := fun j : Fin 64 => v[b][j]
    let z := fun j : Fin 64 => v[d][j]
    let lane := fun (c : Fin 64 → Word32) (j : Fin 64) => if on j then c j else z j
    let root := fun (f : Word32 → Word32 → Word32) (identity : Word32) => tree f ((List.finRange 64).map fun i => if on i then x i else identity)
    let smaller := fun p q : Word32 => if q.toInt < p.toInt then q else p
    let larger := fun p q : Word32 => if p.toInt < q.toInt then q else p
    ∀ p ∈ ([(.vfadd mask d a b, lane fun j => fadd (x j) (y j)),
        (.vfsub mask d a b, lane fun j => fsub (x j) (y j)),
        (.vfmul mask d a b, lane fun j => fmul (x j) (y j)),
        (.vfma mask d a b, lane fun j => ffma (x j) (y j) (z j)),
        (.vfmin mask d a b, lane fun j => fmin (x j) (y j)),
        (.vfmax mask d a b, lane fun j => fmax (x j) (y j)),
        (.vfabs mask d a, lane fun j => x j &&& 0x7FFFFFFF),
        (.vfneg mask d a, lane fun j => x j ^^^ 0x80000000),
        (.vadd mask d a b, lane fun j => x j + y j),
        (.vsub mask d a b, lane fun j => x j - y j),
        (.vmul mask d a b, lane fun j => x j * y j),
        (.vand mask d a b, lane fun j => x j &&& y j),
        (.vor mask d a b, lane fun j => x j ||| y j),
        (.vxor mask d a b, lane fun j => x j ^^^ y j),
        (.vsll mask d a b, lane fun j => x j <<< ((y j).toNat % 32)),
        (.vsrl mask d a b, lane fun j => x j >>> ((y j).toNat % 32)),
        (.vsra mask d a b, lane fun j => (x j).sshiftRight ((y j).toNat % 32)),
        (.vmin mask d a b, lane fun j => if (x j).toInt ≤ (y j).toInt then x j else y j),
        (.vmax mask d a b, lane fun j => if (x j).toInt ≤ (y j).toInt then y j else x j),
        (.vsel m d a b, fun j => if ((s.coreOf core).k[m]).getLsbD j.val then x j else y j),
        (.vperm mask d a b, lane fun j => v[a][(y j).toNat % 64]'(Nat.mod_lt _ (by decide))),
        (.vrot mask d a g, lane fun j => v[a][(j.val + (o.xs.getD 0 0).toNat % 64) % 64]'(Nat.mod_lt _ (by decide))),
        (.vsplat mask d g, lane fun _ => (o.xs.getD 0 0).truncate 32),
        (.vins mask d g h, fun j => if on j ∧ j.val = (o.xs.getD 1 0).toNat % 64 then (o.xs.getD 0 0).truncate 32 else z j),
        (.vfms mask d a b, lane fun j => ffms (x j) (y j) (z j)),
        (.vfnma mask d a b, lane fun j => ffnma (x j) (y j) (z j)),
        (.vcvt cv mask rm d a, lane fun j => convert cv rm (x j)),
        (.vrfadd mask d a, fun _ => root fadd 0x80000000), (.vrfmax mask d a, fun _ => root fmax 0xFF800000),
        (.vrfmin mask d a, fun _ => root fmin 0x7F800000), (.vradd mask d a, fun _ => root (· + ·) 0),
        (.vrmax mask d a, fun _ => root larger 0x80000000), (.vrmin mask d a, fun _ => root smaller 0x7FFFFFFF),
        (.vrcp mask d a, lane fun j => special .rcp (x j)),
        (.vrsqrt mask d a, lane fun j => special .rsqrt (x j)),
        (.vsqrt mask d a, lane fun j => special .sqrt (x j)),
        (.vexp2 mask d a, lane fun j => special .exp2 (x j)),
        (.vlog2 mask d a, lane fun j => special .log2 (x j)),
        (.vexp mask d a, lane fun j => special .exp (x j)),
        (.vtanh mask d a, lane fun j => special .tanh (x j)),
        (.vscl mask d a b, lane fun j => roundFp32 ((fp8 (x j)).mul (fp32 (y j)))),
        (.vscls mask d a g, lane fun j => roundFp32 ((fp8 (x j)).mul (fp32 ((o.xs.getD 0 0).truncate 32)))),
        (.vrev mask d a, lane fun j => v[a][63 - j.val]'(by omega))] : List (Instr × (Fin 64 → Word32))),
      o.instr = p.1 → ∃ t, exec (.vectorEngineExecute core) s = .next t ∧ (t.coreOf core).vector = l ∧
        (∀ j : Fin 64, (t.coreOf core).v[d][j] = p.2 j) ∧ (∀ r : VReg, r ≠ d → (t.coreOf core).v[r] = v[r]) ∧
        (t.coreOf core).k = (s.coreOf core).k ∧ (t.coreOf core).sram = (s.coreOf core).sram ∧ t.results = s.results) ∧
  (∀ (c : Cmp) (mask : Option KReg) (d p q : KReg) (a b : VReg) (g : GReg) (o : EngOp) (l : List EngOp)
      (core : Nat) (s : State), core < Config.cores → (s.coreOf core).id = core → (s.coreOf core).vector = o :: l → o.done = 0 →
    o.places = [] →
    let k := (s.coreOf core).k
    let v := (s.coreOf core).v
    (∀ x ∈ [(Instr.kand d p q, k[p] &&& k[q]), (.kor d p q, k[p] ||| k[q]), (.kxor d p q, k[p] ^^^ k[q]), (.knot d p, ~~~k[p]),
        (.kmov d p, k[p]), (.kset d, 0xFFFFFFFFFFFFFFFF), (.kclr d, 0), (.kfromg d g, o.xs.getD 0 0)],
      o.instr = x.1 → ∃ t, exec (.vectorEngineExecute core) s = .next t ∧ (t.coreOf core).vector = l ∧ (t.coreOf core).k[d] = x.2 ∧
        (∀ r : KReg, r ≠ d → (t.coreOf core).k[r] = k[r]) ∧ (t.coreOf core).v = v) ∧
    (o.instr = .vcmp c mask d a b → ∃ t, exec (.vectorEngineExecute core) s = .next t ∧ (t.coreOf core).vector = l ∧
      (t.coreOf core).v = v ∧ ∀ j : Fin 64, ((t.coreOf core).k[d]).getLsbD j.val =
        ((maskOf k mask).getLsbD j.val && cmpLane c v[a][j] v[b][j])) ∧
    (∀ la n lane r, (o.instr = .vmovg la n a lane ∨ o.instr = .kmovg la n p) → r ∈ s.results → r.core = core → r.src = .engine o.id →
      (RegName.v a ∉ (s.coreOf core).flaws → ∃ t, exec (.vectorEngineExecute core) s = .next t ∧ { r with src := .ready (if o.instr = .kmovg la n p then k[p]
        else (v[a][lane]).zeroExtend 64) } ∈ t.results) ∧
      (RegName.v a ∈ (s.coreOf core).flaws → o.instr = .vmovg la n a lane → ∃ t, exec (.vectorEngineExecute core) s = .next t ∧
        { r with src := .poison 0 } ∈ t.results))) ∧
  (∀ (mask : Option KReg) (w : Width) (str : Stream) (disp : BitVec 5) (e : EReg) (a : GReg) (d : VReg)
      (o : EngOp) (l : List EngOp) (core : Nat) (s : State), core < Config.cores → s.ok = true → (s.coreOf core).vector = o :: l →
    let f := s.focusOn core o.sel
    let v := (s.coreOf core).v
    let left : List EngOp := if o.done + o.next.length ≥ o.places.length then l else { o with done := o.done + o.next.length } :: l
    let clean := fun (x : Fin 64 × Word × List (Place × Nat)) => ∃ p r, x.2.2 = p :: r ∧ firstPoison f x.2.1 p.1 p.2 = none
    (∀ i ∈ [Instr.vld mask w disp a d, .vlds mask w e a d], o.instr = i →
      ((∀ x ∈ o.next, clean x) → ∃ t, exec (.vectorEngineExecute core) s = .next t ∧ (t.coreOf core).vector = left ∧ SameMemory s t ∧
        (∀ j ta p r, (j, ta, p :: r) ∈ o.next → (t.coreOf core).v[d][j] = BitVec.ofNat 32 (f.natAt p.1 p.2)) ∧
        (∀ j, (∀ x ∈ o.next, x.1 ≠ j) → (t.coreOf core).v[d][j] = v[d][j]) ∧ ∀ r : VReg, r ≠ d → (t.coreOf core).v[r] = v[r]) ∧
      (∀ before after j ta p r b, o.next = before ++ (j, ta, p :: r) :: after → (∀ x ∈ before, clean x) → firstPoison f ta p.1 p.2 = some b →
        ∃ t, exec (.vectorEngineExecute core) s = .next t ∧ (t.coreOf core).vector = l ∧ SameMemory s t ∧
          (t.coreOf core).detected = (s.coreOf core).detected ++ [(o.sel, b)] ∧
          ∀ k, (∀ x ∈ before, x.1 ≠ k) → (t.coreOf core).v[d][k] = v[d][k])) ∧
    (∀ i ∈ [Instr.vst mask w str disp a d, .vsts mask w str e a d], o.instr = i → ∀ j ta ps r, o.next = (j, ta, ps) :: r →
      ∃ t, exec (.vectorEngineExecute core) s = .next t ∧ SameMemory s t ∧ (t.coreOf core).v = v ∧
        (t.coreOf core).vector = (if o.done + o.next.length ≥ o.places.length then l else { o with done := o.done + o.next.length, vt := s.vt } :: l) ∧
        t.stores = (f.send str (.bytes (storeData v[d] w.bytes (taOfs ta) o.next)) ta none (ps.map (·.1))).stores))

/-- R163, R165 to R168, R171, R173, R175, R177: an engine command whose issue checks find nothing, whose engine has an entry free and whose
witness may be waited for joins its engine's queue and leaves its token pending, and no byte of memory moves yet; a fault its checks find is
trapped. In an activation a command that waits for a register pending on confirmation traps 0x06.
R128, R172, R176: tidset, once its 96 bytes are reached and read, takes the record they hold, and traps 0x1A where they break the table; cpwait goes on once the engine's
completed-below value has reached gB[31:0], traps 0x16 for an engine it may not name, and 0x06 in an activation. -/
def Obligations.EngineInstructions : Prop :=
  (∀ (str : Stream) (after : Option WReg) (d : WReg) (a b : GReg) (s : State),
    (∀ p ∈ ([(.cpy str after d a b, .cpy), (.cpys str after d a b, .cpys), (.gath str after d a b, .gath),
        (.fill str after d a b, .fill), (.deal str after d a b, .deal)] : List (Instr × CmdOp)),
      let c := s.command p.2 str after d (s.g a) (s.g b) []
      let r := if p.2 = .deal then EngineRef.layout (s.layoutHome false s.core.id s.slot.ctx (s.g a)) else .copy s.core.id
      (∀ x v, Issues p.1 s → MayAwait after s → s.copyFault c = some (x, v) → exec p.1 s = trap x v s) ∧
      (∀ w n, Issues p.1 s → s.sel = .act → after = some w → s.w w = .pending .confirmation n → exec p.1 s = trap 0x06 s.word s) ∧
      (Issues p.1 s → MayAwait after s → s.copyFault c = none → (s.engine r).room r = true → (c.readsOwn && s.ownStoreQueued) = false →
        s.afterOk c.wait = true → ∃ t, exec p.1 s = .next t ∧ (t.engine r).queue = (s.engine r).queue ++ [c] ∧
          t.w d = .pending .engine s.tick ∧ t.slot.pc = (s.retired 4).slot.pc ∧ (∀ g, t.g g = s.g g) ∧ (∀ e, t.e e = s.e e) ∧
          (∀ w, w ≠ d → t.w w = s.w w) ∧ SameMemory s t)) ∧
    (∀ src dst, s.tid (s.g a) = some src → s.tid (s.g b) = some dst →
      let c := s.command .lay str after d (s.g a) (s.g b) [src, dst]
      let r := EngineRef.layout (s.layoutHome false s.core.id s.slot.ctx dst.base)
      (∀ x v, Issues (.lay str after d a b) s → MayAwait after s → s.layFault c s.word = some (x, v) → exec (.lay str after d a b) s = trap x v s) ∧
      (Issues (.lay str after d a b) s → MayAwait after s → s.layFault c s.word = none → (s.engine r).room r = true → s.afterOk c.wait = true →
        ∃ t, exec (.lay str after d a b) s = .next t ∧ (t.engine r).queue = (s.engine r).queue ++ [c] ∧
          t.w d = .pending .engine s.tick ∧ t.slot.pc = (s.retired 4).slot.pc ∧ (∀ g, t.g g = s.g g) ∧ SameMemory s t))) ∧
  (∀ (t : Fin 64) (a b : GReg) (s : State),
    (∀ r u ps, Issues (.tidset t a) s → s.reach s.core.id s.slot.ctx .load false (s.g a) 96 = .ok r → taOfs (s.g a) % 8 = 0 →
      s.recordPlaces (s.g a) (List.range 12) [] = .found u ps → u.slot.watched true false (s.g a) 96 = none →
      u.loadHeld ((ps.map Place.line).eraseDups) u.queued = false → (∀ p ∈ ps, u.poisonedAt p = false) →
      let l := (groupsOf (ps.length / 12) 12 ps).flatMap fun q =>
        natBytes 8 (u.recordDword (match r with | .aperture o _ _ => some o | _ => none) q)
      (∀ x, recordOf l = some x → exec (.tidset t a) s =
        .next ({ u with core := { u.core with tids := tabPut u.core.tids t.val x } }.retired 4)) ∧
      (recordOf l = none → exec (.tidset t a) s = trap 0x1A (s.g a) u)) ∧
    (∀ r, Issues (.cpwait a b) s → s.engineNamed (s.g a) = some r →
      (((s.engine r).below - (s.g b).truncate 32).toNat < 2 ^ 31 → exec (.cpwait a b) s = .next (s.retired 4)) ∧
      (2 ^ 31 ≤ ((s.engine r).below - (s.g b).truncate 32).toNat → s.sel = .act → exec (.cpwait a b) s = trap 0x06 s.word s)) ∧
    (Issues (.cpwait a b) s → ((s.g a).extractLsb' 21 43 ≠ 0 ∨ ((s.g a).extractLsb' 13 8).toNat ≠ s.device.toNat) →
      exec (.cpwait a b) s = trap 0x16 (s.g a) s))

/-- R163, R166, R169, R170: an idle engine begins its oldest command under the next transfer number; a unit's bytes are read and stored a
piece at a time; the refusal of a store stops the running command at its unit; once its stores have settled a command no attachment traces
ends, and its token receives the transfer witness, with the VT at which the last of its stores settled as its stamp.
R163: at a VT that is a multiple of 64, once, the engines of a die are served lowest first, from state u k engine k. One that is idle takes
the oldest command not begun of the die's busiest engine, whose queue it leaves, under its own next number, and no other engine changes; one
that is not idle, or that finds no command not begun, changes nothing. At any other moment nothing changes. -/
def Obligations.EngineSteps : Prop :=
  (∀ (r : EngineRef) (s : State), engineExists r = true →
    (∀ c l, (s.engine r).running = none → (s.engine r).queue = c :: l → ∃ t, exec (.engineCommandBegin r) s = .next t ∧
      (s.traceOf c = none → (t.engine r).queue = l ∧ (t.engine r).next = (s.engine r).next + 1 ∧
        ∃ a, a.cmd = c ∧ a.number = (s.engine r).next ∧ ((t.engine r).running = some a ∨ a ∈ (t.engine r).settling))) ∧
    (∀ a p q l, (s.engine r).running = some a → a.plan = some p → p.reads = q :: l → a.issued = false →
      s.ownWriteDue a.cmd q.1 = false → s.poisonedAt q.1 = false → ∃ t, exec (.engineCommandBegin r) s = .next t ∧
        (t.engine r).running = some { a with plan := some { p with reads := l, got := p.got ++ s.bytesAt q.1 q.2 } } ∧
        SameMemory s t ∧ t.stores = s.stores) ∧
    (∀ a p q l, (s.engine r).running = some a → a.plan = some p → p.reads = [] → p.writes = q :: l → a.first = true →
      s.unsettled (engineLocal r) (engineOrigin r) a.cmd.stream < 64 → ∃ t, exec (.engineCommandBegin r) s = .next t ∧
        (∃ n, t.stores = s.stores ++ n ∧ n.map (·.place) = q.1 ∧ ∀ x ∈ n, x.src = engineLocal r ∧ x.origin = engineOrigin r ∧
          x.stream = a.cmd.stream ∧ x.seq = (s.engine r).streams[a.cmd.stream] + 1 ∧
          x.op = .bytes ((p.got.take q.2.2).map some) ∧ x.unit = some (r, a.number, a.unit)) ∧ SameMemory s t) ∧
    (∀ n x a number u c, s.stores[n]? = some x → x.unit = some (r, number, u) → x.phase = .refused c → (s.engine r).running = some a →
      a.number = number → a.failure = none → ∃ t, exec (.engineRefusalReturn n) s = .next t ∧ t.stores = dropAt s.stores n ∧
        (t.engine r).running = none ∧ ∃ b ∈ (t.engine r).settling, b.cmd = a.cmd ∧ b.number = number ∧ b.failure = some (u, c)) ∧
    (∀ a l d n, (s.engine r).settling = a :: l → s.commandSettled r a = true → a.cmd.queue = none → a.cmd.token = some (d, n) →
      ∃ t, exec (.transferComplete r) s = .next t ∧ (s.traceOf a.cmd = none → (t.engine r).settling = l ∧
        ∀ c sel, ((s.coreOf c).slot sel).w[d] = .pending .engine n → ((t.coreOf c).slot sel).w[d] = .val (transferWitness s.epoch (a.last.getD s.vt)
          (s.endpoint (engineLocal r)) a.number.toNat (match a.failure with | some f => f.2 | none => (0 : Cause)).toNat)))) ∧
  (∀ (die : Nat) (s : State), die < 4 →
    (s.vt.toNat % 64 ≠ 0 ∨ tabGet s.steals die = some s.vt → exec (.layoutSteal die) s = .next s) ∧
    (s.vt.toNat % 64 = 0 → tabGet s.steals die ≠ some s.vt → (∀ c, s.traceOf c = none) →
      ∃ u : Nat → State, exec (.layoutSteal die) s = .next (u 64) ∧ SameMemory s (u 64) ∧ (∀ r, (u 0).engine r = s.engine r) ∧
        tabGet (u 64).steals die = some s.vt ∧ ∀ k < 64,
        let r := EngineRef.layout (die * 64 + k)
        (((u k).engine r).running = none → ((u k).engine r).queue = [] → ∀ m c l, (u k).busiest die = some m →
          ((u k).engine (.layout m)).queue = c :: l →
          (u (k + 1)).engine (.layout m) = { (u k).engine (.layout m) with queue := l } ∧
          ((u (k + 1)).engine r).queue = [] ∧ ((u (k + 1)).engine r).next = ((u k).engine r).next + 1 ∧
          (∃ a, a.cmd = c ∧ a.number = ((u k).engine r).next ∧
            (((u (k + 1)).engine r).running = some a ∨ a ∈ ((u (k + 1)).engine r).settling)) ∧
          ∀ x, x ≠ r → x ≠ .layout m → (u (k + 1)).engine x = (u k).engine x) ∧
        (((u k).engine r).running ≠ none ∨ ((u k).engine r).queue ≠ [] ∨ (u k).busiest die = none →
          ∀ x, (u (k + 1)).engine x = (u k).engine x)))

/-- R205, R206 to R211, R214: a tree instruction that every earlier result has been written for traps with the operand that failed, or goes
on with what the operation answers in gD. Bind, unbind and close write no register; a close of a handle with cached translations
halts its task and starts a shootdown. -/
def Obligations.TreeInstructions : Prop := ∀ (rd wr sh fo pin : Bool) (kind : Kind) (d a b : GReg) (t : State) (x : Word) (c : Cause) (o : TreeArg)
    (s : State), s.outstanding = [] →
  (∀ p ∈ ([(.walk d a b, treeWalk s.core.id s.slot.ctx (s.g a) (s.g b) (s.g (GReg.succ b)) s, s.g a),
      (.openNode rd wr sh fo pin d a, treeOpen s.core.id s.slot.ctx (s.g a) { read := rd, write := wr, shadow := sh } fo pin s, s.g a),
      (.stat d a, treeStat s.core.id s.slot.ctx (s.g a) s, s.g a)] : List (Instr × TreeOut × Word)),
    (Issues p.1 s → p.2.1 = .ok (t, x) → exec p.1 s = .next ((t.setG d x).retired 4)) ∧
    (Issues p.1 s → p.2.1 = .error (c, .ta) → exec p.1 s = trap c p.2.2 s)) ∧
  (Issues (.walk d a b) s → treeWalk s.core.id s.slot.ctx (s.g a) (s.g b) (s.g (GReg.succ b)) s = .error (c, .comp) →
    exec (.walk d a b) s = trap c (s.g b) s) ∧
  (Issues (.bind d a b) s → treeBind s.core.id s.slot.ctx (s.g d) (s.g a) (s.g b) (s.g (GReg.succ b)) s = .ok (t, x) →
    exec (.bind d a b) s = .next (t.retired 4)) ∧
  (Issues (.bind d a b) s → treeBind s.core.id s.slot.ctx (s.g d) (s.g a) (s.g b) (s.g (GReg.succ b)) s = .error (c, o) →
    exec (.bind d a b) s = trap c (if o = .comp then s.g b else if o = .tb then s.g a else s.g d) s) ∧
  (Issues (.unbind a b) s → treeUnbind s.core.id s.slot.ctx (s.g a) (s.g b) (s.g (GReg.succ b)) s = .ok (t, x) →
    exec (.unbind a b) s = .next (t.retired 4)) ∧
  (Issues (.mkobj kind d a b) s → (kind ≠ .mcast ∨ s.ownHeld = false) → treeMkobj s.core.id s.slot.ctx kind (s.g a) (s.g b)
      (s.g (GReg.succ b)) (s.e 0) (s.e 1) (s.memberDwords (s.e 1)) s = .ok (t, x) →
    exec (.mkobj kind d a b) s = .next ((t.setG d x).retired 4)) ∧
  (Issues (.close a) s → s.closable s.slot.ctx (s.g a) = true → s.cachedAnywhere s.slot.ctx (taHandle (s.g a)) = false →
    exec (.close a) s = .next ((s.freeHandle s.slot.ctx (taHandle (s.g a))).retired 4)) ∧
  (Issues (.close a) s → s.closable s.slot.ctx (s.g a) = true → s.cachedAnywhere s.slot.ctx (taHandle (s.g a)) = true →
    ∃ u, exec (.close a) s = .next u ∧ u.slot.run = .halted .tree ∧
      u.shootdowns = s.shootdowns ++ [{ what := .handle s.slot.ctx (taHandle (s.g a)), why := .close (.task s.core.id s.sel), reached := [] }]) ∧
  (Issues (.close a) s → s.closable s.slot.ctx (s.g a) = false → exec (.close a) s = trap 0x0A (s.g a) s)

/-- R177, R178, R195: pub of a handle with an unpublished version starts the publication and leaves wD pending; it binds the name at once and
starts its shootdown where it does not wait for confirmation and no other publication of the name is under way or ahead of it, and else
changes no binding yet (the moment is the model's reading, log entry 63); with nothing to publish it writes a stamp of now. revoke marks the handle dead, starts its shootdown and leaves wD
pending; of a dead handle it writes a stamp of now, and of one that is not open it traps 0x0A. -/
def Obligations.PublishAndRevoke : Prop := ∀ (conf : Bool) (d : WReg) (a : GReg) (s : State),
  (Issues (.pub conf d a) s → s.publishable s.slot.ctx (s.g a) = .ok none →
    exec (.pub conf d a) s = .next ((s.setW d (.val s.stampNow)).retired 4)) ∧
  (∀ c, Issues (.pub conf d a) s → s.publishable s.slot.ctx (s.g a) = .error c → exec (.pub conf d a) s = trap c (s.g a) s) ∧
  (∀ n v, Issues (.pub conf d a) s → s.publishable s.slot.ctx (s.g a) = .ok (some (n, v)) → ∃ t, exec (.pub conf d a) s = .next t ∧
    t.w d = .pending (if conf then .confirmation else .publication) s.tick ∧ (∀ r, t.g r = s.g r) ∧
    (∃ p, t.publications = s.publications ++ [p] ∧ p.id = s.tick ∧ p.node = n ∧ p.version = v ∧ p.w = d ∧
      p.bound = (!conf && s.publications.all fun q => decide (q.node ≠ n) || (q.conf && !q.bound))) ∧
    (conf = true ∨ (∃ q ∈ s.publications, q.node = n ∧ (q.bound = true ∨ q.conf = false)) →
      t.nodes = s.nodes ∧ t.shootdowns = s.shootdowns) ∧
    (conf = false → (∀ q ∈ s.publications, q.node = n → q.bound = false ∧ q.conf = true) → ∀ nd old vs, s.node n = some nd → nd.body = .object old vs → t.node n = some { nd with body := .object v vs } ∧
      t.shootdowns = s.shootdowns ++ [{ what := .node n old, why := .publish s.tick, reached := [] }])) ∧
  (Issues (.revoke d a) s → s.outstanding = [] → s.revocable (s.g a) = none → exec (.revoke d a) s = trap 0x0A (s.g a) s) ∧
  (∀ ctx h, Issues (.revoke d a) s → s.outstanding = [] → s.revocable (s.g a) = some (ctx, h, true) →
    exec (.revoke d a) s = .next ((s.setW d (.val s.stampNow)).retired 4)) ∧
  (∀ ctx h, Issues (.revoke d a) s → s.outstanding = [] → s.revocable (s.g a) = some (ctx, h, false) → ∃ t, exec (.revoke d a) s = .next t ∧
    t.w d = .pending .revoke s.tick ∧ (∀ r, t.g r = s.g r) ∧ (∀ e, tabGet (t.context ctx).handles h = some e → e.dead = true) ∧
    t.shootdowns = s.shootdowns ++ [{ what := .handle ctx h, why := .revoke (.task s.core.id s.sel) d s.tick, reached := [] }])

/-- R202, R203, R206, R208: what the tree operations do to an own directory: walk makes a handle with no rights and the entry's ceiling
at the lowest free index, bind enters the node under its component with the handle's rights as ceiling, unbind takes the entry
out; a missing name is 0x24 and a second one 0x25. -/
def Obligations.TreeOperations : Prop := ∀ (core ctx n : Nat) (ta tb c0 c1 : Word) (h : Handle) (nd : Node) (es : List Entry) (s : State),
  s.handleOf core ctx (taHandle ta) = .ok h → h.node = .own n → s.node n = some nd → nd.body = .dir es → componentOk c0 c1 = true →
  (h.ceiling.read = true → (∀ e ∈ es, e.name ≠ componentOf c0 c1) → treeWalk core ctx ta c0 c1 s = .error (0x24, .comp)) ∧
  (h.ceiling.read = false → treeWalk core ctx ta c0 c1 s = .error (0x0D, .ta)) ∧
  (∀ e i, h.ceiling.read = true → es.find? (fun e => e.name = componentOf c0 c1) = some e → (s.context ctx).freeIndex = some i →
    ∃ t x, treeWalk core ctx ta c0 c1 s = .ok (t, BitVec.ofNat 64 (i * 2 ^ 48)) ∧ tabGet (t.context ctx).handles i = some x ∧
      x.node = e.node ∧ x.ceiling = e.ceiling ∧ x.rights = Rights.none ∧ t.nodes = s.nodes ∧ SameMemory s t) ∧
  (∀ k, s.handleOf core ctx (taHandle tb) = .ok k → s.inPlat ctx n = true → h.ceiling.write = true →
    ((∃ e ∈ es, e.name = componentOf c0 c1) → treeBind core ctx ta tb c0 c1 s = .error (0x25, .comp)) ∧
    ((∀ e ∈ es, e.name ≠ componentOf c0 c1) → s.entryRoom nd es = true → ∃ t, treeBind core ctx ta tb c0 c1 s = .ok (t, 0) ∧
      t.node n = some { nd with body := .dir (es ++ [{ name := componentOf c0 c1, node := k.node, ceiling := k.rights, payer := nd.creator }]) } ∧
      (t.context nd.creator).entries = (s.context nd.creator).entries + 1 ∧ SameMemory s t)) ∧
  (s.inPlat ctx n = true → h.ceiling.write = true →
    ((∀ e ∈ es, e.name ≠ componentOf c0 c1) → treeUnbind core ctx ta c0 c1 s = .error (0x24, .comp)) ∧
    (∀ e, es.find? (fun e => e.name = componentOf c0 c1) = some e → ∃ t x, treeUnbind core ctx ta c0 c1 s = .ok (t, x) ∧
      t.node n = some { nd with body := .dir (es.filter (· ≠ e)) } ∧ ∀ c, (t.coreOf c).sram = (s.coreOf c).sram)) ∧
  (h.ceiling.write = false → s.inPlat ctx n = true → treeUnbind core ctx ta c0 c1 s = .error (0x0D, .ta))

/-- R133, R177, R178, R195, R209, R214, R231 to R234, R371: a shootdown clears each cache it arrives at; when all have acknowledged, a close
frees its index and its task goes on, and a revoke, once no retired instruction has a store through the handle to issue, and a publication
fill their pending registers with a stamp; a publication that waits for confirmation binds its name once it is confirmed and the name's home
may take it; a walker reads the object descriptor in HBM and the table, and a page it finds fills the caches of the cores that wait and their
sector's, where the accesses that wait for one it does not find are judged once they issue again (log entries 12, 69); a page whose copy is done
belongs to its version. A revoke waits for the stores through the handle that are translated and not yet issued (log entry 75). -/
def Obligations.TreeEvents : Prop := ∀ (n : Nat) (s : State),
  (∀ target d, target < 4112 → s.shootdowns[n]? = some d → d.reached.contains target = false →
    ∃ t, exec (.shootdownArrival n target) s = .next t ∧ t.shootdowns = s.shootdowns.set n { d with reached := d.reached ++ [target] } ∧
      (target < 4096 → ∀ e ∈ (t.coreOf target).tlb, e.shot d.what = false) ∧
      (4096 ≤ target → ∀ l, tabGet t.sectorTlb (target - 4096) = some l → ∀ e ∈ l, e.shot d.what = false)) ∧
  (∀ ctx h core sel l, s.shootdowns[n]? = some { what := .handle ctx h, why := .close (.task core sel), reached := l } →
    (∀ k < 4112, k ∈ l) → ∃ t, exec (.treeOperationComplete n) s = .next t ∧ t.shootdowns = dropAt s.shootdowns n ∧
      (t.context ctx).handles = tabDel (s.context ctx).handles h ∧
      (((s.coreOf core).slot sel).run = .halted .tree → ((t.coreOf core).slot sel).run = .running)) ∧
  (∀ ctx h core sel w id l, s.shootdowns[n]? = some { what := .handle ctx h, why := .revoke (.task core sel) w id, reached := l } →
    (∀ k < 4112, k ∈ l) → s.storesThrough ctx h = false → ∃ t, exec (.revokeComplete n) s = .next t ∧ t.shootdowns = dropAt s.shootdowns n ∧
      ∀ c q, ((s.coreOf c).slot q).w[w] = .pending .revoke id → ((t.coreOf c).slot q).w[w] = .val s.stampNow) ∧
  (∀ p nd old vs, s.publications[n]? = some p → p.bound = false → s.killedKernel p.kernel = false →
    (p.conf = true → s.confirmedAt p.kernel p.vt = true) → s.mayBind n p = true →
    s.node p.node = some nd → nd.body = .object old vs → ∃ t, exec (.pubComplete n) s = .next t ∧
      t.publications = s.publications.set n { p with bound := true } ∧ t.node p.node = some { nd with body := .object p.version vs }) ∧
  (∀ p i d core sel, s.publications[n]? = some p → p.bound = true → p.who = .task core sel →
    s.shootdowns.findIdx? (fun d => d.why = .publish p.id) = some i → s.shootdowns[i]? = some d → (∀ k < 4112, k ∈ d.reached) →
    ∃ t, exec (.pubComplete n) s = .next t ∧ t.publications = dropAt s.publications n ∧ t.shootdowns = dropAt s.shootdowns i ∧
      ∀ c q, ((s.coreOf c).slot q).w[p.w] = .pending (if p.conf then .confirmation else .publication) p.id →
        ((t.coreOf c).slot q).w[p.w] = .val s.stampNow) ∧
  (∀ m, s.misses[n]? = some m → ((s.misses.take n).filter fun k => k.sector / 4 = m.sector / 4).length < 128 →
    (tabGetD s.sectorHandles m.sector []).contains (m.ctx, m.handle, m.ver) = true ∨
      (m.handle = 0xFFF0 ∨ ∃ h, tabGet (s.context m.ctx).handles m.handle = some h ∧ h.dead = false) ∧ s.hbmPoison.contains (descriptorOf m.ver / 64) = false →
    let d := descriptorRoot s.hbm m.ver
    (∀ frame size w r, walk s d.2 d.1 m.ofs = .page frame size w r →
      let e := Tlb.mk m.ctx m.handle m.node m.ver (m.ofs / size * size) size frame w r
      ∃ t, exec (.pageWalk n) s = .next t ∧ t.misses = dropAt s.misses n ∧ (∀ c ∈ m.cores, e ∈ (t.coreOf c).tlb) ∧
        e ∈ tabGetD t.sectorTlb m.sector [] ∧ t.barren = s.barren ∧ SameMemory s t) ∧
    ((∀ frame size w r, walk s d.2 d.1 m.ofs ≠ .page frame size w r) →
      exec (.pageWalk n) s = .next { s with misses := dropAt s.misses n, barren := s.barren ++ [m] })) ∧
  (∀ c nd b vs v root levels frame w r, s.pageCopies[n]? = some c → s.node c.node = some nd → nd.body = .object b vs →
    findVersion vs c.ver = some v → v.loc = .hbm root levels → walk s levels root c.page = .page frame c.size w r →
    ∃ t, exec (.shadowPageCopyComplete n) s = .next t ∧ t.pageCopies = dropAt s.pageCopies n ∧
      ∃ nd' vs' v', t.node c.node = some nd' ∧ nd'.body = .object b vs' ∧ findVersion vs' c.ver = some v' ∧
        c.page ∈ v'.own.getD [] ∧ v'.loc = v.loc ∧ v'.charged = v.charged)

/-- R215, R216, R356: a record whose sender maps to a context is executed with the checks and effects of the matching instruction and answered
with its result; an OP past 10 and an ARG that breaks its table are answered 0x01, a cause with that cause; a revoke from a context that is
not privileged is answered 0x02. A record no context takes is refused. A port that bring-up left down (R366) brings none in. A revoke's answer waits
as a task's does (log entry 75).
R216, R358: a reply is one store of dispatch core 0 to REPLY in the sender's memory, of 32 bytes: TAG, STATUS with three zero bytes, RESULT
and WITNESS, once the stream has room for it (R140). No byte of the package's memory changes. That dispatch core 0 writes it, on its stream s7, and
that a peer's reply goes to node 0 of the peer, is the model's reading (log entry 72). -/
def Obligations.EwetalRecords : Prop :=
  (∀ (src : RecordFrom) (r : EwetalRec) (ctx : Nat) (t : State) (x : Word) (c : Cause) (o : TreeArg) (s : State),
    senderExists src = true →
    (s.senderDown src = true → ∀ i ∈ [Instr.ewetalWalk src r, .ewetalOpen src r, .ewetalBind src r, .ewetalUnbind src r, .ewetalClose src r,
        .ewetalStat src r, .ewetalMkobj src r, .ewetalRevoke src r, .ewetalRead src r, .ewetalPublish src r, .ewetalPublishOnConfirmation src r],
      exec i s = .next s) ∧
    (s.senderDown src = false →
    (∀ i ∈ [Instr.ewetalWalk src r, .ewetalOpen src r, .ewetalBind src r, .ewetalUnbind src r, .ewetalClose src r, .ewetalStat src r,
        .ewetalMkobj src r, .ewetalRevoke src r, .ewetalRead src r, .ewetalPublish src r, .ewetalPublishOnConfirmation src r], 10 < r.op.toNat →
      (s.mapped src = none → exec i s = .next (s.refuseSender src)) ∧
      (s.mapped src = some ctx → exec i s = .next (s.reply ctx src r 0x01 0 0))) ∧
    (s.mapped src = some ctx →
    (∀ p ∈ ([(0, .ewetalWalk src r, treeWalk hubCore ctx r.ta r.comp0 r.comp1 s, decide (r.arg = 0)),
        (1, .ewetalOpen src r, treeOpen hubCore ctx r.ta { read := r.arg.getLsbD 0, write := r.arg.getLsbD 1, shadow := r.arg.getLsbD 2 }
          (r.arg.getLsbD 3) (r.arg.getLsbD 4) s, !r.arg.getLsbD 5),
        (2, .ewetalBind src r, treeBind hubCore ctx r.ta r.tb r.comp0 r.comp1 s, decide (r.arg = 0)),
        (3, .ewetalUnbind src r, treeUnbind hubCore ctx r.ta r.comp0 r.comp1 s, decide (r.arg = 0)),
        (5, .ewetalStat src r, treeStat hubCore ctx r.ta s, decide (r.arg = 0)),
        (6, .ewetalMkobj src r, mkobjFor ctx r.arg.toNat r.ta r.comp0 r.comp1 r.p0 r.p1 s, decide (r.arg.toNat ≤ 8))] :
        List (Nat × Instr × TreeOut × Bool)), r.op.toNat = p.1 →
      (p.2.2.2 = true → p.2.2.1 = .ok (t, x) → exec p.2.1 s = .next (t.reply ctx src r 0 x 0)) ∧
      (p.2.2.2 = true → p.2.2.1 = .error (c, o) → exec p.2.1 s = .next (s.reply ctx src r c 0 0)) ∧
      (p.2.2.2 = false → exec p.2.1 s = .next (s.reply ctx src r 0x01 0 0))) ∧
    (r.op = 4 → r.arg = 0 → s.closable ctx r.ta = true → s.cachedAnywhere ctx (taHandle r.ta) = false →
      exec (.ewetalClose src r) s = .next ((s.freeHandle ctx (taHandle r.ta)).reply ctx src r 0 0 0)) ∧
    (r.op = 7 → r.arg = 0 → (s.context ctx).priv = false → exec (.ewetalRevoke src r) s = .next (s.reply ctx src r 0x02 0 0)) ∧
    (∀ k h, r.op = 7 → r.arg = 0 → (s.context ctx).priv = true → s.revocable r.tb = some (k, h, true) →
      exec (.ewetalRevoke src r) s = .next (s.reply ctx src r 0 0 s.stampNow)) ∧
    (∀ k h, r.op = 7 → r.arg = 0 → (s.context ctx).priv = true → s.revocable r.tb = some (k, h, false) → ∃ u, exec (.ewetalRevoke src r) s = .next u ∧
      u.shootdowns = s.shootdowns ++ [{ what := .handle k h, why := .revoke (.record ctx src r) 0 s.tick, reached := [] }]) ∧
    (∀ p ∈ [(9, Instr.ewetalPublish src r, false), (10, .ewetalPublishOnConfirmation src r, true)], r.op.toNat = p.1 → r.arg = 0 →
      (s.publishable ctx r.ta = .ok none → exec p.2.1 s = .next (s.reply ctx src r 0 0 s.stampNow)) ∧
      (∀ n v, s.publishable ctx r.ta = .ok (some (n, v)) → ∃ u q, exec p.2.1 s = .next u ∧
        u.publications = s.publications ++ [q] ∧ q.node = n ∧ q.version = v ∧ q.who = .record ctx src r ∧ q.conf = p.2.2)) ∧
    (r.op = 8 → r.arg = 0 → s.readable ctx r.ta = .ok () → (r.p0 = 0 ∨ 2 ^ 20 < r.p0.toNat) →
      exec (.ewetalRead src r) s = .next (s.reply ctx src r 0x09 0 0)) ∧
    (∀ l, r.op = 8 → r.arg = 0 → s.readable ctx r.ta = .ok () → 0 < r.p0.toNat → r.p0.toNat ≤ 64 → s.hubRead ctx r.ta r.p0.toNat = .ok l →
      exec (.ewetalRead src r) s = .next ((s.rmaOut ctx src .read r.p1 l).reply ctx src r 0 r.p0 0))))) ∧
  (∀ (ctx : Nat) (src : RecordFrom) (r : EwetalRec) (status : Cause) (x : Word) (w : Word128) (s : State),
    s.unsettled 0x1118 0 7 < 64 → s.hubWork = [] →
    let t := s.reply ctx src r status x w
    SameMemory s t ∧ ∃ (y : Store) (l : List Byte), t.stores = s.stores ++ [y] ∧ y.src = 0x1118 ∧ y.phase = .issued ∧ y.hub = some .reply ∧
      (∀ port job o, src = .host port job o → y.place = .host port r.reply.toNat) ∧
      (∀ dev dir, src = .peer dev dir → y.place = .peer dev.toNat 0 r.reply.toNat) ∧
      y.op = .bytes (l.map some) ∧ l.length = 32 ∧ (∀ i < 4, l[i]? = some (BitVec.ofNat 8 (r.tag.toNat / 2 ^ (8 * i)))) ∧
      l[4]? = some (status.zeroExtend 8) ∧ (∀ i, 5 ≤ i → i < 8 → l[i]? = some 0) ∧
      (∀ i < 8, l[8 + i]? = some (BitVec.ofNat 8 (x.toNat / 2 ^ (8 * i)))) ∧
      (∀ i < 16, l[16 + i]? = some (BitVec.ofNat 8 (w.toNat / 2 ^ (8 * i)))))

/-- R43, R44, R151, R159, R161, R162, R182, R327: a load of one place is performed once no earlier load of its slot on one of its lines waits
and its witness lets it; it takes the bytes at its place, or poison; a counter read waits besides until the datum has passed the line's
stamp; the arrived result is written into its register. A load found ahead, of an object in HBM and on a line nothing earlier touches, is
sent early; that it is performed in the same step is the model's reading (log entry 18). -/
def Obligations.LoadEvents : Prop := ∀ (n : Nat) (r : Result) (l : Load) (p : Place) (s : State), s.results[n]? = some r →
  (∀ x, r.src = .ready x → r.core < 8192 → ∃ t, exec (.longLatencyResult n) s = .next t ∧ t.results = dropAt s.results n ∧
    (r.reg ≠ 0 → ((t.coreOf r.core).slot r.sel).g[r.reg] = x) ∧
    (∀ q, q ≠ r.reg → ((t.coreOf r.core).slot r.sel).g[q] = ((s.coreOf r.core).slot r.sel).g[q]) ∧
    (∀ c, c ≠ r.core → t.coreOf c = s.coreOf c) ∧ (s.lingering = false → SameMemory s t)) ∧
  (∀ ta, r.src = .poison ta → exec (.longLatencyResult n) s = .next s) ∧
  (r.src = .load l → l.places = [p] → earlierLoad (s.results.take n) r l = false → s.witnessLets (r.core % 8192) l p = true →
    ((p.lines l.reads).any s.poisonedAt = true → exec (.loadPerformed n) s = .next (s.setSource n r (.poison l.ta))) ∧
    ((p.lines l.reads).any s.poisonedAt = false → l.kind = .plain → l.read = [] →
      exec (.loadPerformed n) s = .next (s.setSource n r (.ready (BitVec.ofNat 64 (s.natAt p l.bytes))))) ∧
    (∀ o, (p.lines l.reads).any s.poisonedAt = false → l.kind = .combine o →
      exec (.loadPerformed n) s = .next (s.setSource n r (.ready (BitVec.ofNat 64 (combine o l.bytes (l.read ++ [s.natAt p l.bytes])))))) ∧
    ((p.lines l.reads).any s.poisonedAt = false → l.kind = .crd → l.read = [] → l.got = none →
      ∃ t, exec (.loadPerformed n) s = .next t ∧ SameMemory s t ∧ (t.results[n]?).map (·.src) =
        some (.load { l with places := [], read := [s.natAt p l.bytes], got := some (BitVec.ofNat 64 (s.natAt p l.bytes), s.lineStamp p) }))) ∧
  (r.src = .load l → (l.places = [p] → (earlierLoad (s.results.take n) r l = true ∨ s.witnessLets (r.core % 8192) l p = false) →
    exec (.loadPerformed n) s = .next s)) ∧
  (∀ x st, r.src = .load l → l.places = [] → l.got = some (x, st) →
    (s.datumPast (r.core % 8192) l.scope st = true → exec (.loadPerformed n) s = .next (s.setSource n r (.ready x))) ∧
    (s.datumPast (r.core % 8192) l.scope st = false → exec (.loadPerformed n) s = .next s)) ∧
  (∀ ahead x k h v o u pa, s.slot.run = .running → s.slot.request = none → s.slot.rep = none → gate s = .wait → 1 ≤ ahead → ahead ≤ 4 →
    s.lookAhead ahead s.slot.pc [] [] = some x → (∀ e ∈ s.early, ¬(e.core = s.core.id ∧ e.sel = s.sel ∧ e.pc = x.pc)) →
    s.reach s.core.id s.slot.ctx .load true x.ta x.bytes = .ok (.object k h v o) →
    s.locate s.core.id s.slot.ctx false x.ta (.object k h v o) = .found u [.hbm pa] → meet ((Place.hbm pa).lines x.bytes) x.lines = false →
    s.loadHeld ((Place.hbm pa).lines x.bytes) s.queued = false → s.unread ((Place.hbm pa).lines x.bytes) = false →
    s.poisonedAt (.hbm pa) = false → ∃ t, exec (.earlyLoadSend ahead) s = .next t ∧ SameMemory s t ∧ t.early = s.early ++
      [{ core := s.core.id, sel := s.sel, pc := x.pc, line := (Place.hbm pa).line, ta := x.ta,
         value := .ready (BitVec.ofNat 64 (s.natAt (.hbm pa) x.bytes)) }])

/-- R140, R141, R142, R143, R153, R220, R252, R326, R351, R358: a store that is on its way commits behind its predecessor once it finds a mark
and no message of its virtual channel holds it up; in an SRAM pool its enabled bytes are written and no other byte of any memory changes; in
HBM, outside the system objects and the reserved bytes of a queue, HBM becomes what its operation leaves; or its home refuses it and no byte
changes. The acknowledgement settles it, and only what waited for room in a stream, or an engine's record, may follow it; a refused one of a
task names its kernel to be killed. A store not settled in time is sent again, at most 24 times, and is then lost, which kills the kernel of
its task with 0x36; one that belongs to no kernel stays lost (log entry 87). -/
def Obligations.StoreEvents : Prop := ∀ (n : Nat) (x : Store) (s : State), s.ok = true → s.stores[n]? = some x →
  let goes := x.phase = .issued ∧ x.out = true ∧ s.predDone x = true ∧ s.markRoom x = true ∧ s.arrives x.via = true ∧ s.placeUp x.place = true ∧
    s.vcHeld x = false
  let abroad := ∃ p a, x.place = .host p a
  (∀ c o d, goes → x.place = .sram c o → x.op = .bytes d →
    s.refusal x = none → ∃ t, exec (.storeCommit n) s = .next t ∧ t.stores = s.stores.set n { x with phase := .committed } ∧
      (∀ i b, d[i]? = some (some b) → memRead (t.coreOf c).sram (o + i) = b) ∧
      (∀ a, (∀ i b, d[i]? = some (some b) → a ≠ o + i) → memRead (t.coreOf c).sram a = memRead (s.coreOf c).sram a) ∧
      (∀ k, k ≠ c → (t.coreOf k).sram = (s.coreOf k).sram) ∧ t.hbm = s.hbm ∧ t.host = s.host) ∧
  (∀ o, let u := ((s.clearPoisonIf x).applyOp x.place x.op).1
    goes → x.place = .hbm o → s.refusal x = none → x.op.length ≤ 64 → (∀ i, i < 32 → o + 64 ≤ objectBase i ∨ objectBase (i + 1) ≤ o) →
    (∀ m nd p, (m, nd) ∈ s.nodes → nd.kind = .queue → u.placeOf m 0x20 = some p → x.place.line ≠ p.line) →
    ∃ t, exec (.storeCommit n) s = .next t ∧ t.stores = s.stores.set n { x with phase := .committed } ∧ t.hbm = u.hbm ∧ t.host = s.host ∧
      ∀ k, (t.coreOf k).sram = (s.coreOf k).sram) ∧
  (∀ c, goes → (∃ k o, x.place = .sram k o) → s.refusal x = some c → ∃ t, exec (.storeCommit n) s = .next t ∧
    t.stores = s.stores.set n { x with phase := .refused c } ∧ SameMemory s t) ∧
  ((s.predDone x = false ∨ s.markRoom x = false ∨ s.placeUp x.place = false ∨ s.vcHeld x = true) → exec (.storeCommit n) s = .next s) ∧
  (∀ i, (i = .storeSettle n ∧ ¬abroad) ∨ (i = .hostWriteAcknowledge n ∧ abroad) → x.phase = .committed →
    ∃ t l, exec i s = .next t ∧ t.stores = dropAt s.stores n ++ l ∧ (s.portWork = [] → s.hubWork = [] → x.unit = none → l = []) ∧
      t.kills = s.kills ∧ (s.lingering = false → x.unit = none → s.hubWork = [] → SameMemory s t)) ∧
  (∀ c, ¬abroad → x.phase = .refused c → x.unit = none → (x.src < 4096 ∨ isDispatch x.src = true ∧ x.kernel ≠ 0) →
      x.reply = none → x.hub = none →
    ∃ t l, exec (.storeSettle n) s = .next t ∧ t.stores = dropAt s.stores n ++ l ∧ (s.portWork = [] → s.hubWork = [] → l = []) ∧
      t.kills = s.kills ++ [{ kernel := x.kernel, cause := c, core := 0 }] ∧ (s.lingering = false → s.hubWork = [] → SameMemory s t)) ∧
  (∀ i, (i = .streamTimeout n ∧ ¬abroad) ∨ (i = .uetRetransmit n ∧ abroad) → x.phase ≠ .lost → 32768 ≤ (s.vt - x.sent).toNat →
    (x.sends < 24 → exec i s = .next { s with
      stores := s.stores.set n { x with sends := x.sends + 1, sent := s.vt, out := (s.leave x.src x.place).2, via := (s.leave x.src x.place).1 } }) ∧
    (24 ≤ x.sends → x.hub = none → x.kernel ≠ 0 → (s.kernelRec x.kernel).state = .running → ∃ t, exec i s = .next t ∧
      t.stores = s.stores.set n { x with phase := .lost } ∧ t.kills = s.kills ++ [{ kernel := x.kernel, cause := 0x36, core := 0 }]) ∧
    (24 ≤ x.sends → x.hub = none → x.kernel = 0 → isDispatch x.src = false →
      exec i s = .next { s with stores := s.stores.set n { x with phase := .lost } })) ∧
  (¬abroad → (s.vt - x.sent).toNat < 32768 → exec (.streamTimeout n) s = .next s)

/-- R142, R148, R187, R352, R353: a mark, or a message mark, is released 2^20 cycles after its last commit; a sample, at a VT that is a multiple of 16, 64, 256 or
1,024 by its scope and at no other, takes the oldest stamp its region has unsettled, or the VT; publishing moves a datum only forwards; the hub's beacon carries epoch, VT and package datum; a received one replaces an
empty entry, a later one of its epoch, or one an epoch behind. -/
def Obligations.DatumEvents : Prop := ∀ (n : Nat) (m : Mark) (sc : Scope) (region : Nat) (x : Sample) (dev : BitVec 8) (epoch : BitVec 6)
    (vt datum : BitVec 48) (s : State),
  (s.marks[n]? = some m → (2 ^ 20 ≤ (s.vt - m.vt).toNat → exec (.receiveMarkRelease n) s = .next { s with marks := dropAt s.marks n }) ∧
    ((s.vt - m.vt).toNat < 2 ^ 20 → exec (.receiveMarkRelease n) s = .next s)) ∧
  (s.marks[n]? = none → ∀ k, s.msgMarks[n - s.marks.length]? = some k →
    (2 ^ 20 ≤ (s.vt - k.vt).toNat → exec (.receiveMarkRelease n) s = .next { s with msgMarks := dropAt s.msgMarks (n - s.marks.length) }) ∧
    ((s.vt - k.vt).toNat < 2 ^ 20 → exec (.receiveMarkRelease n) s = .next s)) ∧
  (region < (match sc with | .clu => 256 | .sec => 16 | .die => 4 | .pkg => 1 | _ => 0) →
    s.vt.toNat % (match sc with | .clu => 16 | .sec => 64 | .die => 256 | _ => 1024) ≠ 0 → exec (.datumSample sc region) s = .next s) ∧
  (region < (match sc with | .clu => 256 | .sec => 16 | .die => 4 | .pkg => 1 | _ => 0) →
    s.vt.toNat % (match sc with | .clu => 16 | .sec => 64 | .die => 256 | _ => 1024) = 0 → ∃ v, exec (.datumSample sc region) s =
      .next { s with samples := s.samples ++ [{ scope := sc, region := region, value := v }] } ∧
    (∀ y ∈ s.stores, y.covered = true → covers sc region y.src = true → (s.vt - y.stamp).toNat ≤ (s.vt - v).toNat) ∧
    (v = s.vt ∨ ∃ y ∈ s.stores, y.covered = true ∧ covers sc region y.src = true ∧ v = y.stamp)) ∧
  (s.samples[n]? = some x → ∃ t, exec (.datumPublish n) s = .next t ∧ t.samples = dropAt s.samples n ∧
    (∀ d, tabGet s.published (x.scope.code * 4096 + x.region) = some d →
      tabGet t.published (x.scope.code * 4096 + x.region) = some (if stampAfter x.value d then x.value else d)) ∧
    (tabGet s.published (x.scope.code * 4096 + x.region) = none → tabGet t.published (x.scope.code * 4096 + x.region) = some x.value) ∧
    (∀ k, k ≠ x.scope.code * 4096 + x.region → tabGet t.published k = tabGet s.published k) ∧ SameMemory s t) ∧
  exec .datumBeacon s = .next { s with beaconOut := some { epoch := s.epoch, vt := s.vt, datum := tabGetD s.published (4 * 4096) 0 } } ∧
  (∃ t, exec (.beaconReceive dev epoch vt datum) s = .next t ∧
    (tabGet s.beacons dev.toNat = none → tabGet t.beacons dev.toNat = some { epoch := epoch, vt := vt, datum := datum }) ∧
    (∀ o, tabGet s.beacons dev.toNat = some o → tabGet t.beacons dev.toNat =
      some (if (epoch = o.epoch ∧ stampAfter vt o.vt = true) ∨ epoch = o.epoch + 1 then { epoch := epoch, vt := vt, datum := datum } else o)) ∧
    (∀ k, k ≠ dev.toNat → tabGet t.beacons k = tabGet s.beacons k))

/-- R14, R93, R95, R96, R97, R98, R99, R100, R102, R104, R106: the matrix engine begins an instruction of a slot that runs once no landing is due in its
tiles; a multiplication then reads both tiles whole, and mmar's copies go to its rectangle's members with the landings in return due. A strip
leaves what StripComputes says; tzero and macz zero their bytes and change no other; a piece of tld is read, and its row written with its last
one, or its poison is told to the task; a piece of tst or mepi goes out as a store. An instruction that has done its steps leaves the queue,
empties its descriptor where it releases, fills w15 and an mrd's register; a landing writes its tile, or is refused for another
shape. -/
def Obligations.MatrixEngineEvents : Prop := ∀ (core : Nat) (o : EngOp) (l : List EngOp) (s : State), core < 4096 → s.ok = true →
  let f := s.focusOn core o.sel
  let heads := ((s.coreOf core).slot o.sel).run = .running ∧ ((s.coreOf core).slot o.sel).request = none
  ((s.coreOf core).matrix = o :: l → (s.coreOf core).mrun = false → heads → (∀ d ∈ engineTiles o.instr, ((s.coreOf core).net[d]).due = none) →
    ((∀ zf acc a b vp gs, o.instr ≠ .mma zf acc a b vp gs ∧ o.instr ≠ .mmar zf acc a b vp gs) →
      ∃ t, exec (.matrixEngineExecute core) s = .next t ∧ (t.coreOf core).mrun = true ∧ (t.coreOf core).matrix = o :: l ∧ SameMemory s t) ∧
    (∀ zf acc a b vp gs, o.buf = [] → a ≠ b → (o.instr = .mma zf acc a b vp gs ∨ o.instr = .mmar zf acc a b vp gs) →
      let sa := o.xs.getD 0 0
      let sb := o.xs.getD 1 0
      let tile := fun (sh : Word) => memBytes (s.coreOf core).sram ((s.coreOf core).tileOfs sh) (shBytes sh)
      let r := o.xs.getD 4 0
      ∃ t, exec (.matrixEngineExecute core) s = .next t ∧ (t.coreOf core).mrun = true ∧ SameMemory s t ∧
        (t.coreOf core).matrix = { o with buf := [tile sa, tile sb] } :: l ∧
        (o.instr = .mma zf acc a b vp gs → t.copies = s.copies ∧ (t.coreOf core).net = (s.coreOf core).net) ∧
        (o.instr = .mmar zf acc a b vp gs → t.copies = s.copies ++
            (if westOf core r ≠ core ∧ s.rectMates core (westOf core r) = true then
              [{ kernel := ((s.coreOf core).slot o.sel).kernel, src := core, dst := westOf core r, reg := a, shape := sa, bytes := tile sa }] else []) ++
            (if northOf core r ≠ core ∧ s.rectMates core (northOf core r) = true then
              [{ kernel := ((s.coreOf core).slot o.sel).kernel, src := core, dst := northOf core r, reg := b, shape := sb, bytes := tile sb }] else []) ∧
          (westOf core r ≠ core → ((t.coreOf core).net[a]).read = true ∧
            ((t.coreOf core).net[a]).due = if s.rectMates core (eastOf core r) = true then some (eastOf core r) else none) ∧
          (northOf core r ≠ core → ((t.coreOf core).net[b]).read = true ∧
            ((t.coreOf core).net[b]).due = if s.rectMates core (southOf core r) = true then some (southOf core r) else none)))) ∧
  ((s.coreOf core).matrix = o :: l → (s.coreOf core).mrun = true → o.done < engineSteps o →
    let sram := (s.coreOf core).sram
    let others := fun (t : State) => (∀ k, k ≠ core → (t.coreOf k).sram = (s.coreOf k).sram) ∧ t.hbm = s.hbm ∧ t.host = s.host
    let zeroes := fun (lo n : Nat) => ∃ t, exec (.matrixEngineExecute core) s = .next t ∧ (t.coreOf core).matrix = { o with done := o.done + 1 } :: l ∧
      (∀ a, memRead (t.coreOf core).sram a = if lo ≤ a ∧ a < lo + n then 0 else memRead sram a) ∧ others t
    (∀ zf acc a b vp gs, heads → (o.instr = .mma zf acc a b vp gs ∨ o.instr = .mmar zf acc a b vp gs) →
      ∃ t, exec (.matrixEngineExecute core) s = .next t ∧ (t.coreOf core).matrix = { o with done := o.done + 1 } :: l ∧
        (t.coreOf core).sram = (runStrip (s.coreOf core) zf o (o.xs.getD 0 0) (o.xs.getD 2 0) (o.xs.getD 3 0) o.done).sram ∧ others t) ∧
    (∀ d, o.instr = .macz d → zeroes ((s.coreOf core).accBase + accOfs (o.xs.getD 0 0)) (accBytes (o.xs.getD 0 0))) ∧
    (∀ d, o.instr = .tzero d → zeroes ((s.coreOf core).tileOfs (o.xs.getD 0 0)) (shBytes (o.xs.getD 0 0))) ∧
    (∀ d e a la p ps, o.instr = .tld d e a la → o.places[o.done]? = some (p :: ps) → f.pieceReadHeld o.id (p.1.lines p.2) = false →
      let sh := o.xs.getD 0 0
      let got := o.buf.getD 0 [] ++ f.bytesAt p.1 p.2
      let row := shCols sh * elemSize (shType sh)
      (firstPoison f (o.tas.getD o.done 0) p.1 p.2 = none → ∃ t, exec (.matrixEngineExecute core) s = .next t ∧
        (got.length < row → (t.coreOf core).matrix = { o with done := o.done + 1, buf := [got] } :: l ∧ SameMemory s t) ∧
        (row ≤ got.length → (t.coreOf core).matrix = { o with done := o.done + 1, buf := [[]] } :: l ∧
          (t.coreOf core).sram = memPut sram ((s.coreOf core).tileOfs sh + rowStart row (bytesBefore o.places o.done)) got ∧ others t)) ∧
      (∀ ta, firstPoison f (o.tas.getD o.done 0) p.1 p.2 = some ta → ∃ t, exec (.matrixEngineExecute core) s = .next t ∧ SameMemory s t ∧
        (t.coreOf core).matrix = { o with done := o.places.length } :: l ∧ (t.coreOf core).detected = (s.coreOf core).detected ++ [(o.sel, ta)])) ∧
    (∀ str ps data, o.places[o.done]? = some ps → f.streamRoom str 1 = true → f.pieceStoreHeld o.id str (ps.map fun p => p.1.line) = false →
      let n := (ps.map (·.2)).headD 0
      ((str = 0 ∧ (∃ d e a la, o.instr = .tst d e a la) ∧
          data = memBytes sram ((s.coreOf core).tileOfs (o.xs.getD 0 0) + bytesBefore o.places o.done) n) ∨
        (∃ sc act wv a b rel out acc, o.instr = .mepi sc str act wv a b rel out acc ∧
          data = ((mepiBytes (s.coreOf core) o act out).drop (bytesBefore o.places o.done)).take n)) →
      ∃ t, exec (.matrixEngineExecute core) s = .next t ∧ SameMemory s t ∧ (t.coreOf core).matrix = { o with done := o.done + 1, vt := s.vt } :: l ∧
        t.stores = (f.send str (.bytes (data.map some)) (o.tas.getD o.done 0) none (ps.map (·.1))).stores)) ∧
  ((s.coreOf core).matrix = o :: l → (s.coreOf core).mrun = true → engineSteps o ≤ o.done → ∃ t,
    exec (.matrixInstructionComplete core) s = .next t ∧ (t.coreOf core).matrix = l ∧ (t.coreOf core).mrun = false ∧ SameMemory s t ∧
    (∀ d, o.instr = .mrel d → (t.coreOf core).accd[d] = 0) ∧
    (∀ sc str act b a rel out acc, o.instr = .mepi sc str act true b a rel out acc →
      (rel = true → (t.coreOf core).accd[acc] = 0) ∧
      (((s.coreOf core).slot o.sel).w[(15 : WReg)] = .pending .epilogue o.id →
        ((t.coreOf core).slot o.sel).w[(15 : WReg)] = .val (stampWitness s.epoch o.vt s.device.toNat))) ∧
    (∀ la a b d r, o.instr = .mrd la d a b → (s.coreOf core).poison = [] → r ∈ s.results → r.core = core → r.src = .engine o.id →
      { r with src := Source.ready ((accWord (s.coreOf core).sram (s.coreOf core).accBase (o.xs.getD 0 0)
        ((o.xs.getD 1 0).extractLsb' 0 8).toNat ((o.xs.getD 1 0).extractLsb' 8 8).toNat).zeroExtend 64) } ∈ t.results)) ∧
  (∀ n c, s.copies[n]? = some c → (s.rectAt c.kernel c.dst).isSome = true → (s.coreOf c.dst).task.kernel = c.kernel → s.frozen c.dst = false → ((s.coreOf c.dst).net[c.reg]).read = true →
    let sh := (s.coreOf c.dst).mshape[c.reg]
    let same := shType sh = shType c.shape ∧ shRows sh = shRows c.shape ∧ shCols sh = shCols c.shape
    ∃ t, exec (.tileLanding n) s = .next t ∧ t.copies = dropAt s.copies n ∧ ((t.coreOf c.dst).net[c.reg]).due = none ∧
      ((t.coreOf c.dst).net[c.reg]).read = false ∧ (same → ((t.coreOf c.dst).net[c.reg]).refused = false ∧
        (t.coreOf c.dst).sram = memPut (s.coreOf c.dst).sram ((s.coreOf c.dst).tileOfs sh) c.bytes) ∧
      (¬same → ((t.coreOf c.dst).net[c.reg]).refused = true ∧ SameMemory s t))

/-- R86, R87, R98: a strip of a multiplication gives each word of its up to eight rows what it accumulates from the captured tiles,
scale and lane, and changes no other byte of the pool; the words do not depend on one another. -/
def Obligations.StripComputes : Prop := ∀ (c : Core) (zf : Bool) (o : EngOp) (sa x gs : Word) (strip : Nat), Memory.wf c.sram = true →
  let t := runStrip c zf o sa x gs strip
  let n := min 8 (shRows sa - 8 * strip)
  (∀ i j, i < n → j < accCols x → accWord t.sram c.accBase x (8 * strip + i) j = mmaElement (shType sa) (o.buf.getD 0 []) (o.buf.getD 1 [])
    (shCols sa) (accCols x) (8 * strip + i) j (rowLane o.lanes (8 * strip + i)) (gs.truncate 32)
    (if zf then 0 else accWord c.sram c.accBase x (8 * strip + i) j)) ∧
  (∀ a, (∀ i j, i < n → j < accCols x → a < c.accBase + accOfs x + ((8 * strip + i) * accCols x + j) * 4 ∨
    c.accBase + accOfs x + ((8 * strip + i) * accCols x + j) * 4 + 4 ≤ a) → memRead t.sram a = memRead c.sram a)

/-- R69, R244, R274: exit or end of a resident task, once its instructions have retired, frees the slot with every register zero and
leaves the stream sequences and every core's SRAM; end of an activation releases its held messages, frees its slot and makes its
channel no longer active. ovld takes a 256-byte multiple below DATAOFS once every earlier instruction has retired, and is trapped 0x09 for
any other value. -/
def Obligations.TasksEnd : Prop := ∀ (a : GReg) (s : State), s.outstanding = [] →
  (∀ i ∈ [Instr.exit, .endAct], Issues i s → s.retiredAll = true →
    (s.sel = .task → ∃ t, exec i s = .next t ∧ (t.coreOf s.core.id).task.run = .free ∧ (∀ r : GReg, (t.coreOf s.core.id).task.g[r] = 0) ∧
      (t.coreOf s.core.id).task.streams = s.slot.streams ∧ ∀ c, (t.coreOf c).sram = (s.coreOf c).sram) ∧
    (s.sel = .act → s.ownUncommitted = false → ∃ t, exec i s = .next t ∧ (t.coreOf s.core.id).act.run = .free ∧
      (∀ r : GReg, (t.coreOf s.core.id).act.g[r] = 0) ∧ (t.coreOf s.core.id).act.streams = s.slot.streams ∧
      (∀ c, (t.coreOf c).sram = (s.coreOf c).sram) ∧
      ((∀ m ∈ s.slot.held, m.dst ≠ s.core.id) → t.msgs = s.msgs ++ s.slot.held) ∧
      (∀ n, s.slot.chan = some n → ((t.coreOf s.core.id).chans[n]).active = false))) ∧
  (Issues (.ovld a) s → s.actBesideTask = false →
    (((s.g a).toNat % 256 ≠ 0 ∨ s.core.dataOfs ≤ (s.g a).toNat ∨ 2 ^ 32 ≤ (s.g a).toNat) → exec (.ovld a) s = trap 0x09 (s.g a) s) ∧
    ((s.g a).toNat % 256 = 0 → (s.g a).toNat < s.core.dataOfs → (s.g a).toNat < 2 ^ 32 → s.retiredAll = true → s.core.ovld = none →
      exec (.ovld a) s = .next { s with core := { s.core with ovld := some ((s.g a).truncate 32, s.sel) } }))

/-- R238 to R242, R256: a send whose destination is allowed takes an entry of its queue and leaves with its envelope and n payload words,
from an activation at its end; it changes no register; a fifth entry traps an activation, 0x13 for a request and 0x14 for a reply; sendm
sends a copy to each destination under one entry. A destination that is not allowed is trapped. -/
def Obligations.SendsIssue : Prop := ∀ (ch : Chan) (n : BitVec 4) (a d : GReg) (s : State),
  (∀ p ∈ [(Instr.send ch n a d, false), (.sendr ch n a d, true)],
    (∀ c, Issues p.1 s → s.destination p.2 (s.g a) = .error c → exec p.1 s = trap c (s.g a) s) ∧
    (∀ dst, Issues p.1 s → s.destination p.2 (s.g a) = .ok dst → 4 ≤ s.entriesTaken s.core.id s.sel p.2 → s.sel = .act →
      exec p.1 s = trap (if p.2 then 0x14 else 0x13) (s.g a) s) ∧
    (∀ dst, Issues p.1 s → s.destination p.2 (s.g a) = .ok dst → s.entriesTaken s.core.id s.sel p.2 < 4 → ∃ t m, exec p.1 s = .next t ∧
      m.src = s.core.id ∧ m.sel = s.sel ∧ m.reply = p.2 ∧ (m.dst, m.far) = dst ∧ m.waiting = false ∧ m.body = .message (BitVec.ofNat 64
        ((if p.2 then 2 ^ 36 else 0) + n.toNat * 2 ^ 32 + ch.val * 2 ^ 28 + (if p.2 then 0 else ((s.g a).extractLsb' 24 4).toNat * 2 ^ 24)
          + s.endpoint s.core.id)) ((block d n.toNat).map s.g) ∧
      (s.sel = .task → t.msgs = s.msgs ++ [m]) ∧ (s.sel = .act → t.msgs = s.msgs ∧ t.slot.held = s.slot.held ++ [m]) ∧
      (∀ g, t.g g = s.g g) ∧ t.slot.pc = (s.retired 4).slot.pc ∧ SameMemory s t)) ∧
  (∀ c v, Issues (.sendm ch n a d) s → s.copiesOf ch (s.g a) (envelope (s.endpoint s.core.id) ((s.g a).extractLsb' 56 4).toNat ch.val n.toNat
    false false) ((block d n.toNat).map s.g) = .error (c, v) → exec (.sendm ch n a d) s = trap c v s) ∧
  (∀ l, Issues (.sendm ch n a d) s → s.copiesOf ch (s.g a) (envelope (s.endpoint s.core.id) ((s.g a).extractLsb' 56 4).toNat ch.val n.toNat
    false false) ((block d n.toNat).map s.g) = .ok l → s.entriesTaken s.core.id s.sel false < 4 → ∃ t ms e,
      exec (.sendm ch n a d) s = .next t ∧ ms.map (fun (m : Msg) => (m.dst, m.body)) = l ∧ (∀ m ∈ ms, m.entry = e ∧ m.reply = false) ∧
      (s.sel = .task → t.msgs = s.msgs ++ ms) ∧ (s.sel = .act → t.msgs = s.msgs ∧ t.slot.held = s.slot.held ++ ms) ∧
      (∀ g, t.g g = s.g g) ∧ SameMemory s t)

/-- R243, R257, R258: recv writes envelope and payload of the oldest message not taken and removes it, from an activation only at its end;
peek leaves it and writes all ones where there is none; chb binds and unbinds, chhold and chready set HOLD and READY of the own
core's channel at once for a task; a channel that is not valid traps 0x15. -/
def Obligations.ChannelsIssue : Prop := ∀ (ch : Chan) (v : Bool) (a d : GReg) (s : State),
  let h := s.core.chans[ch]
  (∀ i ∈ [Instr.recv ch d, .peek ch d], Issues i s → h.valid = false → exec i s = trap Cause.channelInvalid (BitVec.ofNat 64 ch.val) s) ∧
  (∀ m, Issues (.recv ch d) s → h.valid = true → h.oldest = some m → s.core.ringPoisoned h m.slot = false →
    (s.sel = .task → exec (.recv ch d) s = .next ((({ s with core := s.core.setChan ch (h.remove m.slot) } : State).setBlock (block d 9)
      (s.core.ringWords h m.slot)).retired 4)) ∧
    (s.sel = .act → ∃ t, exec (.recv ch d) s = .next t ∧ (t.core.chans[ch]).msgs = (h.take m.slot).msgs ∧
      t.slot.took = s.slot.took ++ [(ch.val, m.slot)] ∧ ∀ r, t.g r = (s.setBlock (block d 9) (s.core.ringWords h m.slot)).g r)) ∧
  (Issues (.recv ch d) s → h.valid = true → h.oldest = none → s.sel = .act → exec (.recv ch d) s = trap 0x06 s.word s) ∧
  (∀ m, Issues (.peek ch d) s → h.valid = true → h.oldest = some m → s.core.ringPoisoned h m.slot = false →
    exec (.peek ch d) s = .next ((s.setBlock (block d 9) (s.core.ringWords h m.slot)).retired 4)) ∧
  (Issues (.peek ch d) s → h.valid = true → h.oldest = none →
    exec (.peek ch d) s = .next ((s.setBlock (block d 9) (BitVec.allOnes 64 :: List.replicate 8 0)).retired 4)) ∧
  (Issues (.chb ch false a) s → s.sel = .task → exec (.chb ch false a) s =
    .next (({ s with core := s.core.applyBind ch false (s.g a) (s.e 0) } : State).retired 4)) ∧
  (Issues (.chb ch true a) s → s.sel = .task → bindFault s ch (s.g a) (s.e 0) = none → exec (.chb ch true a) s =
    .next (({ s with core := s.core.applyBind ch true (s.g a) (s.e 0) } : State).retired 4)) ∧
  (∀ c, Issues (.chb ch true a) s → bindFault s ch (s.g a) (s.e 0) = some c → exec (.chb ch true a) s = trap c (s.g a) s) ∧
  (∀ i c, (i = .chhold ch v a ∧ c = s.core.applyHold ch v) ∨ (i = .chready ch v a ∧ c = s.core.applyReady ch v) → Issues i s →
    s.destination false (s.g a) = .ok (s.core.id, none) → s.sel = .task → exec i s = .next (({ s with core := c } : State).retired 4)) ∧
  ∀ c : Core, ((c.applyHold ch v).chans[ch]).hold = (if (c.chans[ch]).valid then v else (c.chans[ch]).hold) ∧
    ((c.applyReady ch v).chans[ch]).ready = (if (c.chans[ch]).valid then v else (c.chans[ch]).ready)

/-- R69, R276, R277, R281 to R286: spawn creates a task and writes its GTID; join makes a group, enters one, or answers the identifier of one
joined already; gidx answers count and index; leave takes the task out; gbar, in a task, goes on once all have arrived and the
package datum is past the latest arrival; migr halts the task for its move. -/
def Obligations.GroupsAndMoves : Prop := ∀ (d a b : GReg) (s : State),
  (∀ tgt, Issues (.spawn d a b) s → (s.g a).toNat < s.core.exb.toNat → (s.g a).getLsbD 0 = false → s.target (s.g b) = .ok tgt →
    s.entriesTaken s.core.id s.sel false < 4 → s.sel = .task → ∃ t m x, exec (.spawn d a b) s = .next t ∧ t.msgs = s.msgs ++ [m] ∧
      m.body = .spawn x (s.g a) ((block 16 8).map s.g) tgt ∧ (d ≠ 0 → t.g d = x) ∧ (∀ g, g ≠ d → t.g g = s.g g) ∧
      x.extractLsb' 32 32 = s.device.zeroExtend 32) ∧
  (Issues (.join d a b) s → s.g a = 0 → s.g b = 0 → s.groupsOf s.slot.kernel < 4096 → s.setsOf s.slot.gtid < 16 →
    ∃ t g, exec (.join d a b) s = .next t ∧ t.groups = s.groups ++ [g] ∧ g.kernel = s.slot.kernel ∧ g.rect = none ∧
      g.members.map (fun m => (m.1, m.2.1, m.2.2.1)) = [(s.core.id, s.sel, s.slot.gtid)] ∧ (d ≠ 0 → t.g d = g.id.zeroExtend 64)) ∧
  (∀ i g, Issues (.join d a b) s → s.g a ≠ 0 → (s.g a).toNat < 2 ^ 32 → s.g b = 0 → s.groups.findIdx? (fun g => decide (g.kernel =
      s.slot.kernel ∧ g.id.toNat = (s.g a).toNat) && g.rect.isNone) = some i → s.groups[i]? = some g →
    (g.has s.slot.gtid = true → exec (.join d a b) s = .next ((s.setG d (s.g a)).retired 4)) ∧
    (g.has s.slot.gtid = false → s.setsOf s.slot.gtid < 16 → ∃ t g', exec (.join d a b) s = .next t ∧ t.groups = s.groups.set i g' ∧
      g'.has s.slot.gtid = true ∧ g'.members.length = g.members.length + 1 ∧ (d ≠ 0 → t.g d = s.g a))) ∧
  (∀ i g, Issues (.gidx d a) s → s.groupOperand (s.g a) = .ok i → s.groups[i]? = some g → exec (.gidx d a) s =
    .next ((s.setG d (BitVec.ofNat 64 (g.members.length % 65536 * 2 ^ 32 + g.index s.core.id s.slot.gtid))).retired 4)) ∧
  (∀ p ∈ [(Instr.gidx d a, true), (.leave a, true), (.gbar a, s.sel = .task)], ∀ c, p.2 → Issues p.1 s → s.groupOperand (s.g a) = .error c →
    exec p.1 s = trap c (s.g a) s) ∧
  (∀ i g, Issues (.leave a) s → s.groupOperand (s.g a) = .ok i → s.groups[i]? = some g → ∃ t, exec (.leave a) s = .next t ∧
    ((g.members.filter fun m => m.2.2.1 ≠ s.slot.gtid) = [] → t.groups = dropAt s.groups i) ∧
    ((g.members.filter fun m => m.2.2.1 ≠ s.slot.gtid) ≠ [] → ∃ g', t.groups = s.groups.set i g' ∧
      g'.members = (g.members.filter fun m => m.2.2.1 ≠ s.slot.gtid) ∧ (g.rect.isSome = true → g'.broken = true)) ∧
    (g.rect.isSome = true → t.slot.rect = 0)) ∧
  (Issues (.gbar a) s → s.sel = .act → exec (.gbar a) s = trap 0x06 s.word s) ∧
  (∀ i g g', Issues (.gbar a) s → s.sel = .task → s.groupOperand (s.g a) = .ok i → s.groups[i]? = some g →
    (s.arrive i g (g.genOf s.slot.gtid)).groups[i]? = some g' → g.genOf s.slot.gtid < g'.generation →
    g'.allArrived (g.genOf s.slot.gtid) = true → stampAfter (s.datum .pkg s.core.id) (g'.latest s.vt (g.genOf s.slot.gtid)) = true →
    ∃ t, exec (.gbar a) s = .next t ∧ t.slot.pc = (s.retired 4).slot.pc ∧ ∃ h, t.groups[i]? = some h ∧
      h.genOf s.slot.gtid = g.genOf s.slot.gtid + 1) ∧
  (Issues (.migr a) s → s.sel = .act → exec (.migr a) s = trap 0x06 s.word s) ∧
  (∀ c, Issues (.migr a) s → s.sel = .task → s.slot.rect.getLsbD 16 = false → s.target (s.g a) = .ok (some c) → s.movable s.core.id c = true →
    s.outstanding = [] → s.queued = [] → s.commandsOf s.core.id s.slot.gtid = false → s.settledAll s.core.id .task = true →
    s.accepts c = true → ∃ t, exec (.migr a) s = .next t ∧ t.slot.run = .halted .moving ∧ (t.coreOf c).reserved = true ∧
      t.migrations = s.migrations ++ [{ src := s.core.id, dst := c }] ∧ ∀ g, t.g g = s.g g)

/-- R236, R240, R241, R243, R253, R254, R352: a message to a core of this device whose tenant is not saved, and which overtakes no earlier
one, is placed in the ring of a valid channel with room, its
envelope and words in the next slot, and wakes the core; a request for an invalid channel turns into its refusal, a reply is
discarded, and one for a full ring waits; a waiting message enters once there is room; a channel operation takes effect at its
core. A message to another device is kept by its gateway under the next sequence; one from another device is noted in its lane's mark at the
core, which has 64: in sequence it goes on, a duplicate is discarded and one past the next waits (log entry 91). -/
def Obligations.MessagesArrive : Prop := ∀ (n : Nat) (m : Msg) (env : Word) (payload : List Word) (ch : Chan) (v : Bool) (s : State),
  s.msgs[n]? = some m → m.dst < 8192 → s.overtakes m = false → ch.val = (env.extractLsb' 28 4).toNat →
  (∀ dev, m.waiting = false → m.far = some dev → (s.routeEntry m.src dev).getLsbD 62 = false → ∃ t k, exec (.messagePlace n) s = .next t ∧
    t.msgs = dropAt s.msgs n ∧ t.kept = s.kept ++ [k] ∧ k.msg = m ∧ k.sent = s.vt ∧ k.seq = tabGetD s.msgSeqs (m.lane dev) 0 + 1 ∧
    tabGetD t.msgSeqs (m.lane dev) 0 = k.seq ∧ SameMemory s t) ∧
  (∀ o, m.waiting = false → m.far = none → m.origin = some o → o.noted = false →
    let noted := ∃ t q, exec (.messagePlace n) s = .next t ∧ q.origin = some { o with noted := true } ∧ q.body = m.body ∧
      t.msgs = s.msgs.set n q ∧ SameMemory s t ∧ (∃ k ∈ t.msgMarks, k.isFor m o.dev = true ∧ k.seq = o.seq ∧ k.vt = s.vt)
    (∀ k, s.msgMarks.find? (·.isFor m o.dev) = some k →
      ((k.seq - o.seq).toNat < 2 ^ 15 → exec (.messagePlace n) s = .next { s with msgs := dropAt s.msgs n }) ∧
      (o.seq = k.seq + 1 → noted) ∧
      (2 ^ 15 ≤ (k.seq - o.seq).toNat → o.seq ≠ k.seq + 1 → exec (.messagePlace n) s = .next s)) ∧
    (s.msgMarks.find? (·.isFor m o.dev) = none →
      ((s.msgMarks.filter fun k => decide (k.core = m.dst)).length < 64 → noted) ∧
      (64 ≤ (s.msgMarks.filter fun k => decide (k.core = m.dst)).length → exec (.messagePlace n) s = .next s))) ∧
  (m.far = none → m.placed = true → s.tenantSaved m.dst m.vf = false →
  let c := s.coreOf m.dst
  let h := c.chans[ch]
  (∀ i ∈ [if m.waiting then Instr.waitingMessageEnter n else .messagePlace n], m.body = .message env payload →
    (h.valid = true → c.alien m.vf = false → h.full = false → ((m.reply = true ∨ h.refuse = false) → s.othersWait n m ch = false) →
      ∃ t, exec i s = .next t ∧ t.msgs = dropAt s.msgs n ∧
        (t.coreOf m.dst).sram = memPut c.sram (h.ring + 128 * h.nextSlot) (ringImage env payload) ∧
        (∃ x, ((t.coreOf m.dst).chans[ch]).msgs = h.msgs ++ [x] ∧ x.slot = h.nextSlot ∧ x.taken = false) ∧
        (∀ k, k ≠ ch → (t.coreOf m.dst).chans[k] = c.chans[k]) ∧ (t.coreOf m.dst).task.latch = true ∧ (t.coreOf m.dst).act.latch = true ∧
        (∀ k, k ≠ m.dst → t.coreOf k = s.coreOf k) ∧ t.hbm = s.hbm ∧ t.host = s.host) ∧
    (m.reply = true → (h.valid = false ∨ c.alien m.vf = true) → exec i s = .next { s with msgs := dropAt s.msgs n }) ∧
    (m.reply = false → (h.valid = false ∨ c.alien m.vf = true ∨ (h.full = true ∧ h.refuse = true)) → ∃ t x e, exec i s = .next t ∧
      t.msgs = dropAt s.msgs n ++ [x] ∧ x.dst = m.src ∧ x.src = m.dst ∧ x.far = m.origin.map (·.dev) ∧ x.reply = true ∧ x.body = .message e payload ∧
      e.getLsbD 37 = true ∧ e.getLsbD 36 = true ∧ SameMemory s t)) ∧
  (m.waiting = false → m.body = .message env payload → h.valid = true → c.alien m.vf = false → h.full = true → h.refuse = false →
    exec (.messagePlace n) s = .next { s with msgs := dropAt s.msgs n ++ [{ m with waiting := true, since := s.vt }] }) ∧
  (m.body = .hold ch v → c.alien m.vf = false → ∃ t, exec (.channelOperationApply n) s = .next t ∧ t.msgs = dropAt s.msgs n ∧
    (h.valid = true → ((t.coreOf m.dst).chans[ch]).hold = v) ∧ (h.valid = false → (t.coreOf m.dst).chans[ch] = h)) ∧
  (m.body = .ready ch v → c.alien m.vf = false → ∃ t, exec (.channelOperationApply n) s = .next t ∧ t.msgs = dropAt s.msgs n ∧
    (h.valid = true → ((t.coreOf m.dst).chans[ch]).ready = v) ∧ (h.valid = false → (t.coreOf m.dst).chans[ch] = h)))

/-- R8, R237, R248, R274, R281, R282, R287 to R290: a free activation slot starts on its lowest Pending channel with the envelope and the
payload in g15 to g23; a spawn starts its task with its parameters in g16 to g23; a stage's queue chooses core KEY mod n of its stage
for its head and delivers it there; a core chosen for rebinding has its stage's channels held and, once it runs no activation, passes to the
busier stage; an idle core takes a message from another of its stage; a moved task goes on behind its migr; a landed window is fetched
from. -/
def Obligations.TaskEvents : Prop := ∀ (core : Nat) (s : State),
  (∀ n, core < 4096 → (s.coreOf core).act.run = .free → (s.coreOf core).pick = some n → ∃ t, exec (.activationStart core) s = .next t ∧
    let c := s.coreOf core
    let u := (t.coreOf core).act
    u.run = .running ∧ u.chan = some n ∧ u.pc = (c.chans[n].entry).zeroExtend 64 ∧ ((t.coreOf core).chans[n]).active = true ∧
      (t.coreOf core).sram = c.sram ∧ (∀ m, (c.chans[n]).oldest = some m → u.trigger = some m.slot ∧
        ∀ i : GReg, 15 ≤ i.val → i.val ≤ 23 → u.g[i] = (c.ringWords c.chans[n] m.slot).getD (i.val - 15) 0)) ∧
  (∀ n m gtid entry params c, s.msgs[n]? = some m → m.body = .spawn gtid entry params (some c) → s.eligible m.kernel c = true → s.accepts c = true →
    s.heldAtStart m.kernel = false → ∃ t, exec (.spawnStart n) s = .next t ∧ t.msgs = dropAt s.msgs n ∧
    let u := (t.coreOf c).task
    u.run = .running ∧ u.gtid = gtid ∧ u.pc = entry ∧ u.kernel = m.kernel ∧
      ∀ i : GReg, u.g[i] = if 16 ≤ i.val ∧ i.val ≤ 23 then params.getD (i.val - 16) 0 else 0) ∧
  (∀ kernel stage i q m l key env payload dst, s.stages.findIdx? (fun q => decide (q.kernel = kernel ∧ q.stage = stage)) = some i →
    s.stages[i]? = some q → q.msgs = m :: l → m.body = .stage stage key env payload →
    (q.pick = none → exec (.stageDelivery kernel stage) s = .next { s with stages := s.stages.set i { q with
      pick := (s.stageCores q.kernel q.stage)[key.toNat % (s.stageCores q.kernel q.stage).length]? } }) ∧
    (q.pick = some dst → s.tenantSaved dst m.vf = false → ((s.coreOf dst).chans[envChan env]).valid = true →
      ((s.coreOf dst).chans[envChan env]).full = false →
    ∃ t q', exec (.stageDelivery kernel stage) s = .next t ∧ t.stages = s.stages.set i q' ∧ q'.msgs = l ∧
      ∃ x, ((t.coreOf dst).chans[envChan env]).msgs = ((s.coreOf dst).chans[envChan env]).msgs ++ [x] ∧ x.stealable = true ∧ x.key = some key)) ∧
  (∀ kernel b u c qu, s.rebinding = none → s.vt.toNat % 4096 = 0 →
    let qs := (List.range 16).filterMap fun n => s.stages.find? fun q => decide (q.kernel = kernel ∧ q.stage = n)
    let loads := qs.map fun q => (q.stage, s.stageLoad q, (s.stageCores kernel q.stage).length)
    extreme true loads = some b → extreme false loads = some u → 8 * b.2.2 ≤ b.2.1 → 4 * u.2.1 * b.2.2 ≤ b.2.1 * u.2.2 → 2 ≤ u.2.2 →
    b.1 ≠ u.1 → (s.stageCores kernel u.1).reverse.find? s.rebindable = some c → s.stageOf kernel u.1 = some qu → ∃ t, exec (.stageRebind kernel) s = .next t ∧
      t.rebinding = some { kernel := kernel, core := c, src := u.1, dst := b.1, held := (s.coreOf c).holdMask, vt := s.vt } ∧
      (∀ n : Fin 16, qu.mask.getLsbD n.val = true → (t.coreOf c).chans[n] = { (s.coreOf c).chans[n] with hold := true }) ∧
      (∀ k, k ≠ c → t.coreOf k = s.coreOf k) ∧ SameMemory s t) ∧
  (∀ kernel r qu qb, s.rebinding = some r → r.vt ≠ s.vt → s.stageOf r.kernel r.src = some qu → s.stageOf r.kernel r.dst = some qb →
    (s.stageCores r.kernel r.src).contains r.core = true → (s.coreOf r.core).task.run = .free → (s.coreOf r.core).act.run = .free →
    ∃ t, exec (.stageRebind kernel) s = .next t ∧ t.rebinding = none ∧
      (t.coreOf r.core).alloc = (s.coreOf r.core).alloc.map (fun a => { a with stage := r.dst }) ∧
      (∀ n : Fin 16, qb.mask.getLsbD n.val = true → (t.coreOf r.core).chans[n] = ((s.kernelHeader r.kernel).channels r.dst false)[n]) ∧
      (∀ k, k ≠ r.core → t.coreOf k = s.coreOf k) ∧ SameMemory s t) ∧
  (∀ a q n v m l, core < 4096 → (s.coreOf core).alloc = some a → (s.coreOf core).task.run = .free → (s.coreOf core).act.run = .free →
    (s.coreOf core).pick = none → s.stages.find? (fun q => decide (q.kernel = a.kernel ∧ q.stage = a.stage)) = some q → q.chans = n :: l →
    ((s.coreOf core).chans[n]).valid = true → ((s.coreOf core).chans[n]).full = false →
    s.victim n ((s.stageCores a.kernel a.stage).filter (· ≠ core)) = some v → (((s.coreOf v).chans[n]).stealable)[0]? = some m → v ≠ core →
    ∃ t, exec (.stageSteal core) s = .next t ∧ ((t.coreOf v).chans[n]).msgs = ((s.coreOf v).chans[n]).msgs.filter (fun x => x.slot ≠ m.slot) ∧
      ∃ x, ((t.coreOf core).chans[n]).msgs = ((s.coreOf core).chans[n]).msgs ++ [x] ∧ x.taken = false ∧ x.kernel = m.kernel ∧ x.rollbacks = m.rollbacks) ∧
  (∀ n m, s.migrations[n]? = some m → m.src ≠ m.dst → s.eligible (s.coreOf m.src).task.kernel m.dst = true → s.vacant m.dst = true → ∃ t, exec (.migrationMoveComplete n) s = .next t ∧
    t.migrations = dropAt s.migrations n ∧ (t.coreOf m.src).task.run = .free ∧ (t.coreOf m.dst).reserved = false ∧
    let a := (s.coreOf m.src).task
    let u := (t.coreOf m.dst).task
    u.run = .running ∧ u.g = a.g ∧ u.e = a.e ∧ u.w = a.w ∧ u.gtid = a.gtid ∧ u.pc = (a.advance 4).pc ∧ u.law = a.law ∧ u.trapv = a.trapv ∧
      (t.coreOf m.dst).v = (s.coreOf m.src).v ∧ (t.coreOf m.dst).k = (s.coreOf m.src).k ∧ (t.coreOf m.dst).accd = (s.coreOf m.src).accd) ∧
  (∀ base sel, (core < 4096 ∨ isDispatch core = true) → (s.coreOf core).ovld = some (base, sel) →
    s.programPoisoned (s.coreOf core).program base.toNat (min (s.coreOf core).exb.toNat ((s.coreOf core).dataOfs - base.toNat)) = false →
    ∃ t, exec (.overlayWindowLanded core) s = .next t ∧ (t.coreOf core).codebase = base ∧ (t.coreOf core).task.fetchbase = base ∧
      (t.coreOf core).act.fetchbase = base ∧ (t.coreOf core).ovld = none ∧ ((t.coreOf core).slot sel).pc = (((s.coreOf core).slot sel).advance 4).pc ∧
      (∀ k, k ≠ core → t.coreOf k = s.coreOf k) ∧ t.hbm = s.hbm ∧ t.host = s.host)

/-- R294, R301, R323, R326 to R329: a line that becomes poisoned yields a fault record, and a register with an error is marked; an
activation that consumed an error is rolled back to a free slot with its messages untaken, or its kernel is to be killed with 0x30; a
poisoned code block is fetched again; FEAT follows the core map.
R293, R296 to R299, R301, R323: a scan unit takes the command its doorbell asks for, and starts a pattern run on an idle core of its
sector marked as its target, or refuses it; a finished or abandoned run returns the core reset, with FEAT from the map; firmware
acts on a fault record that has been stored whole, and a failed pass kills every kernel of the core's log. -/
def Obligations.RollbackAndScans : Prop :=
  (∀ (core line : Nat) (s : State),
    (core < 4096 → 64 * line < 524288 → line ∉ (s.coreOf core).poison → exec (.uncorrectableError core (.line line)) s =
      .next ((s.onCore core fun c => { c with poison := c.poison ++ [line] }).faultRecord 5 core (BitVec.ofNat 64 (64 * line)))) ∧
    (64 * line < Config.hbmBytes → line ∉ s.hbmPoison → exec (.uncorrectableError (0x1000 + sliceOf (64 * line)) (.line line)) s =
      .next ({ s with hbmPoison := s.hbmPoison ++ [line] }.faultRecord 4 (sliceOf (64 * line)) (BitVec.ofNat 64 (64 * line)))) ∧
    (core < 4096 → line ∈ (s.coreOf core).poison → exec (.uncorrectableError core (.line line)) s = .next s) ∧
    (∀ sel r, core < 4096 → r ≠ .g 0 → ∃ t, exec (.uncorrectableError core (.reg sel r)) s = .next t ∧ SameMemory s t ∧
      (r ∈ ((t.coreOf core).slot sel).flaws ∨ r ∈ (t.coreOf core).flaws) ∧ ∀ k, k ≠ core → t.coreOf k = s.coreOf k) ∧
    (core < 4096 → (s.coreOf core).act.run = .halted .firmware → ((s.coreOf core).act.tcause).extractLsb' 0 6 = 0x2F →
      (s.escalates core = true → ∃ t, exec (.activationRollback core) s = .next t ∧ SameMemory s t ∧
        t.kills = s.kills ++ [{ kernel := (s.coreOf core).act.kernel, cause := 0x30, core := 0 }]) ∧
      (s.escalates core = false → (s.coreOf core).holdsWork .act = true → exec (.activationRollback core) s = .next s) ∧
      (s.escalates core = false → (s.coreOf core).holdsWork .act = false → ∃ t, exec (.activationRollback core) s = .next t ∧ (t.coreOf core).act.run = .free ∧
        (∀ r : GReg, (t.coreOf core).act.g[r] = 0) ∧ (∀ c, (t.coreOf c).sram = (s.coreOf c).sram) ∧
        ∀ n, (s.coreOf core).act.chan ≠ some n → ((t.coreOf core).chans[n]).msgs = (((s.coreOf core).untake (s.coreOf core).act).chans[n]).msgs)) ∧
    (∀ block, core < 4096 → 4096 * block < (s.coreOf core).exb.toNat → (∃ l ∈ (s.coreOf core).poison, 4096 * block ≤ 64 * l ∧
        64 * l < min (4096 * block + 4096) (s.coreOf core).exb.toNat) →
      s.programPoisoned (s.coreOf core).program ((s.coreOf core).codebase.toNat + 4096 * block)
        (min (4096 * block + 4096) (s.coreOf core).exb.toNat - 4096 * block) = false →
      ∃ t, exec (.codeBlockRefetch core block) s = .next t ∧ (∀ l ∈ (t.coreOf core).poison, l ∈ (s.coreOf core).poison ∧
        ¬(4096 * block ≤ 64 * l ∧ 64 * l < min (4096 * block + 4096) (s.coreOf core).exb.toNat)) ∧
        (∀ k, k ≠ core → t.coreOf k = s.coreOf k) ∧ t.hbm = s.hbm ∧ t.host = s.host) ∧
    (core < 4096 → 4 ≤ s.bringUp.toNat → (s.coreOf core).entryFeat ≠ s.mapFeat core → ∃ t, exec (.featUpdate core) s = .next t ∧
      (t.coreOf core).feat = s.mapFeat core ∧ (t.coreOf core).entryFeat = s.mapFeat core ∧
      (∀ k, k ≠ core → t.coreOf k = s.coreOf k) ∧ SameMemory s t)) ∧
  (∀ (sector : Nat) (s : State), sector < 16 →
    let u := s.scanUnit sector
    let cmd := s.hubDword (scanSlot sector 0)
    let c := (cmd.extractLsb' 0 12).toNat
    (u.running = none → u.served < (s.hubDword (objectBase 2 + 8 * sector)).toNat →
      s.datumPast hubCore .pkg (s.lineStamp (.hbm (objectBase 2 + 8 * sector))) = true →
      (coreSector c = sector → cmd.extractLsb' 12 20 = 0 → (s.mapEntry c).extractLsb' 0 2 = 1 → s.scanIdle c = true →
        ∃ t, exec (.scanCommand sector) s = .next t ∧ SameMemory s t ∧
          t.scanUnit sector = { u with running := some (c, s.vt, cmd.extractLsb' 32 32), abort := none }) ∧
      ((coreSector c ≠ sector ∨ cmd.extractLsb' 12 20 ≠ 0 ∨ (s.mapEntry c).extractLsb' 0 2 ≠ 1 ∨ s.scanIdle c = false) →
        ∃ t, exec (.scanCommand sector) s = .next t ∧ t.scanUnit sector = { served := u.served + 1, running := none, abort := none })) ∧
    ((u.running.isSome = true ∨ (s.hubDword (objectBase 2 + 8 * sector)).toNat ≤ u.served) → exec (.scanCommand sector) s = .next s) ∧
    (∀ k v r, u.running = some (k, v, r) →
      (u.abort = none → ∃ t, exec (.patternRunComplete sector) s = .next t ∧
        t.scanUnit sector = { served := u.served + 1, running := none, abort := none } ∧ (t.coreOf k).feat = s.mapFeat k ∧
        (t.coreOf k).task.run = .free ∧ (∀ g : GReg, (t.coreOf k).task.g[g] = 0) ∧ ∀ j, (t.coreOf j).sram = (s.coreOf j).sram) ∧
      (∀ rank queue, u.abort = some (rank, queue) → ∃ t, exec (.scanAbort sector rank queue) s = .next t ∧
        t.scanUnit sector = { served := u.served + 1, running := none, abort := none } ∧ (t.coreOf k).feat = s.mapFeat k ∧
        (t.coreOf k).task.run = .free)) ∧
    (s.faultsServed < (s.hubDword (objectBase 2 + 0x108)).toNat →
      s.datumPast hubCore .pkg (s.lineStamp (.hbm (objectBase 2 + 0x108))) = true →
      (s.faultSlots = [] → exec .faultDoorbellService s = .next { s with faultsServed := (s.hubDword (objectBase 2 + 0x108)).toNat }) ∧
      ∀ n, s.faultSlots = [n] →
        let d := s.hubDword (objectBase 3 + 64 + 16 * n)
        ∃ t, exec .faultDoorbellService s = .next t ∧ t.faultsServed = (s.hubDword (objectBase 2 + 0x108)).toNat ∧
          t.faultsStored = tabDel s.faultsStored n ∧
          (d.extractLsb' 0 8 = 1 → (t.coreOf (d.extractLsb' 8 12).toNat).log = [] ∧
            ∀ e ∈ (s.coreOf (d.extractLsb' 8 12).toNat).log, ∃ x ∈ t.kills, x.kernel = e.kernel ∧ x.cause = 0x31)))

/-- R105, R179, R261, R269 to R273, R292, R317, R335, R363: firmware repairs, forwards or kills as the queue's policy says; an absent
feature moves the task to a core that covers it; a request reaches a slot and its whole rectangle, but on a dispatch core neither a rank nor
a time slice does; the slot then halts; a halted context is saved with its core's image once the activation has ended and the engines are
empty, and is restored; the next guest with work has its turn once the running one's is over. That what the host answers a forwarded record
with is a kill of cause 0x34 is the model's reading (log entry 47). -/
def Obligations.PreemptionEvents : Prop := ∀ (core n : Nat) (s : State), s.ok = true →
  (∀ r, s.trapRecords[n]? = some r → r.core < 8192 →
    ((r.forwarded = true ∨ (s.policyOf (s.recordKernel r) % 2 = 1 ∧ (r.cause = 0x0E ∨ r.cause = 0x0F))) →
      ∃ t, exec (.firmwareTrapService n .repair) s = .next t ∧ t.trapRecords = dropAt s.trapRecords n ∧
        ((t.coreOf r.core).slot r.sel).run = .running ∧ ((t.coreOf r.core).slot r.sel).g = ((s.coreOf r.core).slot r.sel).g ∧
        ((t.coreOf r.core).slot r.sel).pc = ((s.coreOf r.core).slot r.sel).tpc ∧ SameMemory s t) ∧
    (forwards (s.policyOf (s.recordKernel r)) r = true → exec (.firmwareTrapService n .forward) s =
      .next { s with trapRecords := s.trapRecords.set n { r with forwarded := true } }) ∧
    (r.forwarded = false → s.killsFor (s.policyOf (s.recordKernel r)) r = true → exec (.firmwareTrapService n .kill) s =
      .next (({ s with trapRecords := dropAt s.trapRecords n }).mustKill (s.recordKernel r) r.cause)) ∧
    (r.forwarded = true → exec (.firmwareTrapService n .kill) s =
      .next (({ s with trapRecords := dropAt s.trapRecords n }).mustKill (s.recordKernel r) 0x34))) ∧
  (∀ r target, s.trapRecords[n]? = some r → r.cause = 0x04 → r.sel = .task → r.core < 4096 → target < 4096 →
    (s.coreOf r.core).task.rect.getLsbD 16 = false → s.eligible (s.coreOf r.core).task.kernel target = true → s.accepts target = true →
    s.movable r.core target = true → (s.coreOf r.core).covers (s.coreOf target).feat = true → s.moveReady r.core = true →
    (s.coreOf r.core).drained = true →
    ∃ t, exec (.featureAbsentMove n target) s = .next t ∧ (t.coreOf r.core).task.run = .free ∧ (t.coreOf target).task.run = .running ∧
      (t.coreOf target).task.g = (s.coreOf r.core).task.g ∧ (t.coreOf target).task.pc = (s.coreOf r.core).task.tpc ∧
      (t.coreOf target).task.gtid = (s.coreOf r.core).task.gtid) ∧
  (∀ c, core < 4096 → (c = 0x32 ∨ c = 0x33 ∨ c = 0x34) → ∃ t, exec (.preemptionRequest core c) s = .next t ∧ SameMemory s t ∧
    ∀ k ∈ s.rectangleOf core, (s.coreOf k).task.run ≠ .free → (t.coreOf k).task = (s.coreOf k).task.asked c) ∧
  (∀ c, isDispatch core = true → (c = 0x32 ∨ c = 0x33) → exec (.preemptionRequest core c) s = .next s) ∧
  (∀ sel x, core < 4096 → (s.coreOf core).requested = some (sel, x) → (∀ r ∈ s.results, r.isOf core sel = false) →
    (s.coreOf core).matrixHolds sel = false → (∀ o ∈ (s.coreOf core).vector, o.sel ≠ sel) → ∃ t, exec (.haltReported core) s = .next t ∧
      (((s.coreOf core).slot sel).stop = false → ((t.coreOf core).slot sel).run = .halted (.preempted x) ∧
        ((t.coreOf core).slot sel).request = none) ∧
      (((s.coreOf core).slot sel).stop = true → ((t.coreOf core).slot sel).run = .halted (.preempted 0x3E) ∧
        ((t.coreOf core).slot sel).request = some x) ∧
      ((t.coreOf core).slot sel).g = ((s.coreOf core).slot sel).g ∧ ((t.coreOf core).slot sel).pc = ((s.coreOf core).slot sel).pc ∧ SameMemory s t) ∧
  (∀ p, core < 4096 → (s.coreOf core).toSave = some p →
    ((s.coreOf core).heldBefore = none → ∃ t, exec (.contextSave core) s = .next t ∧ (t.coreOf core).allHeld = true ∧
      (t.coreOf core).heldBefore = some (s.coreOf core).holdMask ∧ SameMemory s t) ∧
    ((s.coreOf core).heldBefore ≠ none → (s.coreOf core).act.run = .free → (s.coreOf core).saveable = true → ∃ t x,
      exec (.contextSave core) s = .next t ∧ t.saved = s.saved ++ [x] ∧ x.core = core ∧ x.slot.g = (s.coreOf core).task.g ∧ x.cause = p ∧
      x.image = some (s.coreOf core) ∧ (t.coreOf core).task.run = .free ∧ (t.coreOf core).alloc = none)) ∧
  (∀ x img, core < 4096 → s.saved[n]? = some x → x.image = some img → s.restorable x core = true → ∃ t,
    exec (.contextRestore n core) s = .next t ∧ t.saved = dropAt s.saved n ∧ (t.coreOf core).task.g = x.slot.g ∧
    (t.coreOf core).task.gtid = x.slot.gtid ∧ (t.coreOf core).v = x.v ∧ (t.coreOf core).accd = x.accd ∧ (t.coreOf core).sram = img.sram ∧
    (t.coreOf core).alloc = img.alloc ∧ (t.coreOf core).tids = []) ∧
  (s.turnOver = true → s.guestBusy = false →
    (s.nextGuest ≠ s.guest → ∃ t, exec .timeSliceExpiry s = .next t ∧ t.guest = s.nextGuest ∧ t.sliceVt = s.vt ∧ SameMemory s t) ∧
    (s.nextGuest = s.guest → exec .timeSliceExpiry s = .next { s with sliceVt := s.vt }))

/-- R246, R294, R318, R321, R322, R324, R325, R338: a finished kernel becomes complete and its cores leave it; a dispatch core goes on giving them
back; a complete one is confirmed once its cores have passed since and its publications are through; a kill first asks its tasks to halt with
cause 0x34, writes the dumps its launch asked for, step by step, and then ends it (log entry 47); a confirmed kernel is never withdrawn. -/
def Obligations.KernelEnds : Prop := ∀ (k : Nat) (cause : Cause) (K : Kernel) (s : State), s.ok = true → tabGet s.kernels k = some K →
  (K.reporter.isSome = true → exec (.kernelComplete k) s = .next (s.giveOn k)) ∧
  (K.reporter = none → K.state = .running → s.finished k = true → ∃ t L, exec (.kernelComplete k) s = .next t ∧
    tabGet t.kernels k = some L ∧ L.state = .complete ∧ L.vtEnd = s.vt ∧ (∀ g ∈ t.groups, g.kernel ≠ k) ∧
    ∀ c a, (s.coreOf c).alloc = some a → a.kernel = k → (t.coreOf c).alloc = none ∧ ∀ n : Fin 16, ((t.coreOf c).chans[n]).valid = false) ∧
  (K.reporter = none → K.state = .running → s.finished k = false → exec (.kernelComplete k) s = .next s) ∧
  (K.state = .complete → s.confirmedAt k K.vtEnd = true → (∀ p ∈ s.publications, p.kernel ≠ k) → ∃ t, exec (.kernelConfirmed k) s = .next t ∧
    tabGet t.kernels k = some { K with state := .confirmed }) ∧
  (K.state = .complete → s.confirmedAt k K.vtEnd = false → exec (.kernelConfirmed k) s = .next s) ∧
  (∀ core, K.reporter = none → s.kills.find? (fun x => decide (x.kernel = k ∧ x.cause = cause)) = some { kernel := k, cause := cause, core := core } →
    (K.state = .running → s.unhalted k = [] → (s.killDumps k K cause).2.all (·.ended) = false → ∃ t, exec (.kernelKill k cause) s = .next t ∧
      tabGet t.kernels k = some { K with dumps := some (s.killDumps k K cause).2 }) ∧
    (K.state = .running → s.unhalted k = [] → (s.killDumps k K cause).2.all (·.ended) = true → ∃ t L, exec (.kernelKill k cause) s = .next t ∧
      tabGet t.kernels k = some L ∧ L.state = .killed ∧ L.cause = cause ∧ L.vtEnd = s.vt ∧ (∀ x ∈ t.kills, x.kernel ≠ k) ∧
      ∀ c a, (s.coreOf c).alloc = some a → a.kernel = k → (t.coreOf c).alloc = none) ∧
    (K.state = .running → s.unhalted k ≠ [] → ∃ t, exec (.kernelKill k cause) s = .next t ∧ t.kernels = s.kernels ∧ SameMemory s t ∧
      ∀ c ∈ s.unhalted k, (t.coreOf c).task.kernel = k → (s.coreOf c).task.run ≠ .free → (t.coreOf c).task = (s.coreOf c).task.asked 0x34) ∧
    (K.state = .complete → ∃ t, exec (.kernelKill k cause) s = .next t ∧ tabGet t.kernels k = some { K with state := .killed, cause := cause }) ∧
    (K.state = .confirmed → exec (.kernelKill k cause) s = .next { s with kills := s.kills.filter fun x => x.kernel ≠ k }))

/-- R304, R306 to R313, R363: tokens accrue up to the burst; writing STATE 1 starts a queue; a rank program is checked and takes effect
with a new version; the rank core ranks the first event whose queue is free: by program 0's formula, or by what the event's program leaves
in g1 at EXIT, each of its instructions having its own effect from the inputs in g16 to g23, and a program that gives no rank faults the
queue with 0x39; the lowest idle dispatch core takes the head of the PIFO, waits for SEQ and accepts a well-formed packet; a watchdog and a
failed self-check fault the queue, with 0x3C and 0x3D: STATE 2, a failed record, and the core lets it go. -/
def Obligations.QueueEvents : Prop := ∀ (q dc slot i : Nat) (s : State),
  ((tabGet s.queues q).isSome = true → s.rateOf q ≠ 0 → ∃ t, exec (.tokenAccrual q) s = .next t ∧ (t.queue q).accrued = s.vt ∧
    (t.queue q).tokens = min ((s.queue q).tokens + s.rateOf q * (s.vt - (s.queue q).accrued).toNat) (1024 * s.burstOf q) ∧ SameMemory s t) ∧
  (∀ u, s.updates.findIdx? (fun u => u.1 = q) = some i → s.updates[i]? = some u →
    (u.2 = true → ∃ t, exec (.queueUpdateCommand q) s = .next t ∧ t.updates = dropAt s.updates i ∧ (t.queue q).tokens = 1024 * s.burstOf q ∧
      (∃ e ∈ t.events, e.queue = q) ∧ SameMemory s t) ∧
    (u.2 = false → exec (.queueUpdateCommand q) s = .next { s with updates := dropAt s.updates i })) ∧
  (slot < 64 →
    let x := s.hubDword (objectBase 5 + 512 * slot)
    let len := (x.extractLsb' 40 8).toNat
    let code := s.hubBytes (objectBase 5 + 512 * slot + 64) len
    let good := slot ≠ 0 ∧ 2 ≤ len ∧ len ≤ 128 ∧ len % 2 = 0 ∧ x.extractLsb' 48 16 = 0 ∧ x.extractLsb' 34 6 = 0 ∧ rankOk code = true
    x.getLsbD 32 = true →
      (good → ∃ t, exec (.rankProgramReload slot) s = .next t ∧
        tabGet t.rank slot = some { code := code, version := x.truncate 32 + 1 }) ∧
      (¬good → ∃ t, exec (.rankProgramReload slot) s = .next t ∧ t.rank = s.rank)) ∧
  (∀ e, s.events.findIdx? (fun e => !s.locked e.queue && s.hasToken e.queue) = some i → s.events[i]? = some e →
    (s.queueState e.queue = 1 → (∀ x ∈ s.pifo, x.2 ≠ e.queue) → e.code = none → ∃ t, exec .rankEvent s = .next t ∧
      t.events = dropAt s.events i ∧
      t.pifo = s.pifo ++ [(BitVec.ofNat 32 (s.shadowByte e.queue 5 % 8 * 2 ^ 29 + s.vt.toNat / 2 ^ 19), e.queue)] ∧ SameMemory s t) ∧
    (∀ code, s.queueState e.queue = 1 → (∀ x ∈ s.pifo, x.2 ≠ e.queue) → e.code = some code →
      let u : State := { s with events := dropAt s.events i }
      let sh := s.shadowHalf e.queue
      let head := (s.slotWords e.queue (shadowSize sh) (s.readIdx e.queue)).getD 0 0
      (∀ r, rankRun code 33 (u.rankCore e.queue) = some r → ∃ t, exec .rankEvent s = .next t ∧ t.events = dropAt s.events i ∧
        t.pifo = s.pifo ++ [(r, e.queue)] ∧ SameMemory s t) ∧
      (rankRun code 33 (u.rankCore e.queue) = none → exec .rankEvent s = .next ((u.putShadow e.queue 7 1 2).writeRecord hubCore e.queue
        (shadowCtx sh) (recordAt (s.queueCr e.queue) (shadowSize sh) (s.readIdx e.queue)) (recordHead head 3 0x39 0) 0 (s.vt.zeroExtend 64) 0))) ∧
    (s.queueState e.queue ≠ 1 → exec .rankEvent s = .next { s with events := dropAt s.events i })) ∧
  (let p := s.slotWords q (shadowSize (s.shadowHalf q)) (s.readIdx q)
   let u := s.rankCore q
   u.slot.pc = 0 ∧ (∀ x : GReg, (16 ≤ x.val ∧ x.val ≤ 23 → u.g x = [p.getD 0 0, p.getD 1 0, s.queueDword q 0, BitVec.ofNat 64 (s.readIdx q),
      BitVec.ofNat 64 (s.shadowNat q 0 8), BitVec.ofNat 64 (s.shadowNat q 0x10 8), s.vt.zeroExtend 64, BitVec.ofNat 64 q].getD (x.val - 16) 0) ∧
      (x.val < 16 ∨ 23 < x.val → u.g x = 0))) ∧
  (∀ code k n, ∀ u v : State, (decode (code.drop u.slot.pc.toNat) = .ok (.exit, n) → rankRun code (k + 1) u = some ((u.g 1).truncate 32)) ∧
    (∀ j, decode (code.drop u.slot.pc.toNat) = .ok (j, n) → (rankMeaning j).isSome = true → exec j u = .next v →
      rankRun code (k + 1) u = rankRun code k v) ∧
    (code.length ≤ u.slot.pc.toNat → rankRun code (k + 1) u = none)) ∧
  (∀ n, s.pifoHead = some q → (List.range 12).find? s.idleDc = some n → s.queueState q = 1 → s.queueFlags q = 0 →
    s.writeIdx q ≠ s.readIdx q → (s.writeIdx q + 2 ^ 64 - s.readIdx q) % 2 ^ 64 ≤ shadowSize (s.shadowHalf q) →
    let p := s.slotWords q (shadowSize (s.shadowHalf q)) (s.readIdx q)
    let st := shadowField (s.shadowHalf q) 0x12 1
    ∃ t, exec .pifoDispatch s = .next t ∧ t.pifo = s.pifo.filter (fun e => e.2 ≠ q) ∧
      (st < 128 → ((p.getD 0 0).extractLsb' 48 16).toNat ≠ s.readIdx q % 2 ^ 16 → (t.dispatcher (dcId n)).queue = some q ∧
        (t.dispatcher (dcId n)).seqWait = some s.vt ∧ (t.dispatcher (dcId n)).packet = []) ∧
      ((128 ≤ st ∨ ((p.getD 0 0).extractLsb' 48 16).toNat = s.readIdx q % 2 ^ 16) → headerBad p = false →
        (∀ j < steps (p.getD 0 0), (BitVec.ofNat 16 (shadowField (s.shadowHalf q) 0x10 2)).getLsbD (stepKind (p.getD 0 0) j) = true) →
        (t.dispatcher (dcId n)).queue = some q ∧ (t.dispatcher (dcId n)).packet = p ∧ (t.dispatcher (dcId n)).index = s.readIdx q ∧
        (t.dispatcher (dcId n)).step = (if 128 ≤ st then st % 4 else 0))) ∧
  (∀ v, dc < 12 → (s.dispatcher (dcId dc)).queue = some q → (s.dispatcher (dcId dc)).seqWait = some v →
    let p := s.slotWords q (shadowSize (s.dispatcher (dcId dc)).shadow) (s.dispatcher (dcId dc)).index
    (((p.getD 0 0).extractLsb' 48 16).toNat = (s.dispatcher (dcId dc)).index % 2 ^ 16 → exec (.seqRecheck dc) s = .next (s.accept dc q p)) ∧
    (((p.getD 0 0).extractLsb' 48 16).toNat ≠ (s.dispatcher (dcId dc)).index % 2 ^ 16 →
      (4096 ≤ (s.vt - v).toNat → exec (.seqRecheck dc) s = .next (s.letGo dc)) ∧
      ((s.vt - v).toNat < 4096 → exec (.seqRecheck dc) s = .next s))) ∧
  (dc < 12 → (s.dispatcher (dcId dc)).queue = some q → (s.dispatcher (dcId dc)).packet ≠ [] →
    (2 ^ 20 ≤ (s.vt - (s.dispatcher (dcId dc)).vt).toNat → exec (.firmwareWatchdog dc) s = .next (s.faultQueue dc q 0x3C)) ∧
    ((s.vt - (s.dispatcher (dcId dc)).vt).toNat < 2 ^ 20 → exec (.firmwareWatchdog dc) s = .next s)) ∧
  (dc < 12 → (∃ t, exec (.dispatchSelfCheck dc false) s = .next t ∧ (t.dispatcher (dcId dc)).down = true ∧
      (t.dispatcher (dcId dc)).queue = none ∧
      ((s.dispatcher (dcId dc)).queue = some q → t = (s.faultQueue dc q 0x3D).onDispatch (dcId dc) fun d => { d with down := true })) ∧
    exec (.dispatchSelfCheck dc true) s = .next s) ∧
  (let d := s.dispatcher (dcId dc)
   let head := (s.slotWords q (shadowSize d.shadow) d.index).getD 0 0
   (∀ c, s.faultQueue dc q c = ((s.putShadow q 7 1 2).writeRecord (dcId dc) q (shadowCtx d.shadow) (recordAt d.cr (shadowSize d.shadow) d.index)
      (recordHead head 3 c 0) 0 (s.vt.zeroExtend 64) 0).letGo dc) ∧
    (Memory.wf s.hbm = true → (objectBase 4 + 32 * q) / 64 ∉ s.hbmPoison → (s.putShadow q 7 1 2).shadowByte q 7 = 2))

/-- R140, R158, R159, R171, R216, R311, R314, R315, R358: WRITE and SIGNAL send their store where their stream has room, and wait for it to
settle; WAIT waits for the datum to pass the stamp its line had when the counter sufficed, or yields and watches its counter; COPY and LAYOUT give their command to an engine; a TREE walk and a failing TREE stat
do what the instructions do; READBACK delivers, and waits for what goes to host memory; a step that fails fails its packet. A step done is
followed by the next; a finished packet moves READIDX on and releases its queue. -/
def Obligations.PacketSteps : Prop := ∀ (dc q : Nat) (s : State), dc < 12 →
  let d := s.dispatcher (dcId dc)
  let ctx := shadowCtx d.shadow
  (∀ p ∈ ([(.write dc, 3, .store, .bytes ((natBytes 8 d.b.toNat).map some)), (.signal dc, 4, .cadd, .cadd d.b)] :
      List (Instr × Nat × AccOp × StoreOp)), s.atStep dc p.2.1 = some q →
    (d.waiting = false → taOfs d.a % 8 = 0 → ∀ u ps, s.hubReach ctx p.2.2.1 true d.a 8 = .ok (u, ps) → u.unsettled (dcId dc) 0 0 < 64 →
      ∃ t l, exec p.1 s = .next t ∧ t.stores = u.stores ++ l ∧ l.map (·.place) = ps ∧
        (∀ x ∈ l, x.src = dcId dc ∧ x.stream = 0 ∧ x.op = p.2.2.2 ∧ x.seq = (u.coreOf (dcId dc)).task.streams[(0 : Stream)] + 1 ∧
          x.phase = .issued) ∧ (t.dispatcher (dcId dc)).waiting = true) ∧
    (d.waiting = false → taOfs d.a % 8 = 0 → ∀ u ps, s.hubReach ctx p.2.2.1 true d.a 8 = .ok (u, ps) → 64 ≤ u.unsettled (dcId dc) 0 0 →
      exec p.1 s = .next s) ∧
    (∀ c, d.waiting = false → taOfs d.a % 8 = 0 → s.hubReach ctx p.2.2.1 true d.a 8 = .error c → exec p.1 s = .next (s.failPacket dc q c 0)) ∧
    (d.waiting = true → (∀ r ∈ s.refusals, r.1 ≠ dcId dc) → (∀ x ∈ s.stores, x.src ≠ dcId dc) → exec p.1 s = .next (s.stepDone dc q 0))) ∧
  (s.atStep dc 3 = some q → d.waiting = false → taOfs d.a % 8 ≠ 0 → exec (.write dc) s = .next (s.failPacket dc q 0x09 0)) ∧
  (∀ st, s.atStep dc 5 = some q → d.passing = some st →
    (s.datumPast (dcId dc) .pkg st = true → exec (.wait dc) s = .next (s.stepDone dc q 0)) ∧
    (s.datumPast (dcId dc) .pkg st = false → exec (.wait dc) s = .next s)) ∧
  (∀ t p, s.atStep dc 5 = some q → d.passing = none → s.hubReach ctx .crd true d.a 8 = .ok (t, [p]) → t.poisonedAt p = false →
    (t.natAt p 8 < d.b.toNat → exec (.wait dc) s = .next (t.yieldPacket dc q p)) ∧
    (d.b.toNat ≤ t.natAt p 8 → t.datumPast (dcId dc) .pkg (t.lineStamp p) = true → exec (.wait dc) s = .next (t.stepDone dc q 0)) ∧
    (d.b.toNat ≤ t.natAt p 8 → t.datumPast (dcId dc) .pkg (t.lineStamp p) = false → exec (.wait dc) s =
      .next (t.onDispatch (dcId dc) fun d => { d with passing := some (t.lineStamp p) }))) ∧
  (s.atStep dc 6 = some q → d.waiting = false →
    let c := packetCmd d dc q .packetCopy s.vt (d.packet.getD 1 0) (d.packet.getD 2 0) [d.packet.getD 3 0] []
    let r : EngineRef := .layout (s.layoutHome true c.core c.ctx c.b)
    (∀ x v, s.copyFault c = some (x, v) → exec (.copy dc) s = .next (s.failPacket dc q x 0)) ∧
    (s.copyFault c = none → (s.engine r).room r = true → ∃ t, exec (.copy dc) s = .next t ∧
      (t.engine r).queue = (s.engine r).queue ++ [c] ∧ (t.dispatcher (dcId dc)).waiting = true ∧ SameMemory s t)) ∧
  (∀ src dst, s.atStep dc 7 = some q → d.waiting = false → s.packetRecordAt ctx (d.packet.getD 1 0) = .ok src →
    s.packetRecordAt ctx (d.packet.getD 2 0) = .ok dst →
    let c := packetCmd d dc q .packetLayout s.vt (d.packet.getD 1 0) (d.packet.getD 2 0) [d.packet.getD 3 0] [src, dst]
    let r : EngineRef := .layout (s.layoutHome true c.core c.ctx dst.base)
    (∀ x v, s.layFault c 0 = some (x, v) → exec (.layout dc) s = .next (s.failPacket dc q x 0)) ∧
    (s.layFault c 0 = none → (s.engine r).room r = true → ∃ t, exec (.layout dc) s = .next t ∧
      (t.engine r).queue = (s.engine r).queue ++ [c] ∧ (t.dispatcher (dcId dc)).waiting = true ∧ SameMemory s t)) ∧
  (∀ k ∈ [(Instr.copy dc, 6), (.layout dc, 7), (.tree dc, 8), (.readback dc, 9)], ∀ c x, s.atStep dc k.2 = some q → d.waiting = true →
    d.answer = some (c, x) → (∀ r ∈ s.refusals, r.1 ≠ dcId dc) → s.dataDue (dcId dc) = false →
    exec k.1 s = .next (if c = 0 then s.stepDone dc q x else s.failPacket dc q c x)) ∧
  (∀ u x, s.atStep dc 8 = some q → d.waiting = false → d.packet.getD 1 0 = 0 →
    treeWalk hubCore ctx (d.packet.getD 2 0) (d.packet.getD 4 0) (d.packet.getD 5 0) s = .ok (u, x) →
    exec (.tree dc) s = .next (u.stepDone dc q x)) ∧
  (∀ c o, s.atStep dc 8 = some q → d.waiting = false → d.packet.getD 1 0 = 5 → treeStat hubCore ctx (d.packet.getD 2 0) s = .error (c, o) →
    exec (.tree dc) s = .next (s.failPacket dc q c 0)) ∧
  (∀ c, s.atStep dc 9 = some q → d.waiting = false → s.readable ctx (d.packet.getD 1 0) = .error c → exec (.readback dc) s = .next (s.failPacket dc q c 0)) ∧
  (∀ l u, s.atStep dc 9 = some q → d.waiting = false → s.readable ctx (d.packet.getD 1 0) = .ok () → 0 < (d.packet.getD 3 0).toNat →
    (d.packet.getD 3 0).toNat ≤ 64 → taOfs (d.packet.getD 1 0) < 2 ^ 48 → taOfs (d.packet.getD 2 0) < 2 ^ 48 →
    s.hubRead ctx (d.packet.getD 1 0) (d.packet.getD 3 0).toNat = .ok l → s.hubWrite (dcWriter (dcId dc) .data) ctx (d.packet.getD 2 0) l = .ok u →
    (u.dataDue (dcId dc) = false → exec (.readback dc) s = .next (u.stepDone dc q (d.packet.getD 3 0))) ∧
    (u.dataDue (dcId dc) = true → ∃ t, exec (.readback dc) s = .next t ∧ t.stores = u.stores ∧
      (t.dispatcher (dcId dc)).waiting = true ∧ (t.dispatcher (dcId dc)).answer = some (0, d.packet.getD 3 0))) ∧
  (∀ x, d.step + 1 < steps (d.packet.getD 0 0) → ((s.stepDone dc q x).dispatcher (dcId dc)).step = d.step + 1 ∧
    SameMemory s (s.stepDone dc q x)) ∧
  (∀ x, steps (d.packet.getD 0 0) ≤ d.step + 1 → s.stepDone dc q x = (s.packetRecord dc q 1 0 x).passPacket dc q) ∧
  (Memory.wf s.hbm = true → (objectBase 4 + 32 * q) / 64 ∉ s.hbmPoison → (s.passPacket dc q).readIdx q = (d.index + 1) % 2 ^ 64 ∧ ((s.passPacket dc q).dispatcher (dcId dc)).queue = none) ∧
  (Memory.wf s.hbm = true → (objectBase 4 + 32 * q) / 64 ∉ s.hbmPoison → ∀ p, (s.yieldPacket dc q p).shadowByte q 0x12 = (128 + d.step) % 256 ∧
    ((s.yieldPacket dc q p).queue q).watch = some p.line ∧ ((s.yieldPacket dc q p).dispatcher (dcId dc)).queue = none)

/-- R9, R25, R26, R28, R203, R279, R292, R294, R314, R316, R318: a PREPARE that passes its checks binds a program object; a LAUNCH opens its
parameter paths and then, where it passes its checks, starts a kernel on the cores chosen, each of them then the kernel's; it yields while
too few are free and fails its packet where it may never run, or where a path is not found. The paths are the step's operand, and what becomes of
a path that fails is the model's choice (log entry 78). -/
def Obligations.LaunchAndPrepare : Prop := ∀ (dc q : Nat) (s : State), dc < 12 →
  let d := s.dispatcher (dcId dc)
  let ctx := shadowCtx d.shadow
  let x := fun (i : Nat) => d.packet.getD i 0
  (s.atStep dc 2 = some q →
    ((x 6 ≠ 0 ∨ x 7 ≠ 0) → exec (.prepare dc) s = .next (s.failPacket dc q 0x09 0)) ∧
    (∀ l, x 6 = 0 → x 7 = 0 → s.hubRead ctx (x 1) (x 2).toNat = .ok l →
      let h := parseHeader l
      let n := headerBytes h.nchan h.nregion h.nstage h.npatch
      let image := (l.drop n).take h.imageLen
      ((l.length < n + h.imageLen ∨ headerBroken h image = true) → exec (.prepare dc) s = .next (s.failPacket dc q 0x01 0)) ∧
      (∀ t, n + h.imageLen ≤ l.length → headerBroken h image = false → s.bindProgram ctx (x 5) (x 3) (x 4) (l.take n) image = .ok t →
        exec (.prepare dc) s = .next (t.stepDone dc q 0)))) ∧
  (∀ cores paths u m p, s.atStep dc 1 = some q → (∀ c ∈ cores, isDispatch c = false) → s.withPaths ctx paths = .ok (u, m) →
    s.plan316 ctx x m = .ok p →
    let r := s.placing (shadowVf d.shadow) (shadowCtx d.shadow) (BitVec.ofNat 3 p.header.featreq) p.rect p.count cores
    (∀ c, r = .refused c → exec (.launch dc ⟨cores, paths⟩) s = .next (s.failPacket dc q c 0)) ∧
    (r = .wait → exec (.launch dc ⟨cores, paths⟩) s = .next (s.yieldPacket dc q (.hbm (objectBase 2 + 0x100)))) ∧
    (r = .found → ∃ t K, exec (.launch dc ⟨cores, paths⟩) s = .next t ∧ tabGet t.kernels u.nextKernel = some K ∧ K.state = .running ∧
      K.cores = cores ∧ K.ctx = ctx ∧ K.params = p.params ∧ K.vtStart = s.vt ∧ t.nextKernel = u.nextKernel + 1 ∧
      (t.context ctx).floor = pathFloor m ∧
      ∀ c ∈ cores, (t.coreOf c).alloc.map (·.kernel) = some u.nextKernel ∧ (t.coreOf c).exb = BitVec.ofNat 20 p.header.exb ∧
        (t.coreOf c).partw = p.header.partw ∧ (t.coreOf c).task.run ≠ .free)) ∧
  (∀ cores paths u m c, s.atStep dc 1 = some q → s.withPaths ctx paths = .ok (u, m) → s.plan316 ctx x m = .error c →
    exec (.launch dc ⟨cores, paths⟩) s = .next (s.failPacket dc q c 0)) ∧
  (∀ cores paths c, s.atStep dc 1 = some q → s.withPaths ctx paths = .error c → exec (.launch dc ⟨cores, paths⟩) s = .next (s.failPacket dc q c 0))

/-- R331, R344 to R352: a failing lane or bank, a training's end, a retrain, flits in sequence and refused, replays, discarded packets, kept
messages and route entries each change what the rules say of them.
R140, R354 to R357: a job-table entry takes effect or is ignored; a host write of one line in a job that allows it is checked whole and
then sent to its homes, a host atomic with an answer likewise, where the stream has room, and is kept until it has; without a job both are
refused and counted, and every read is answered as unsupported and counted. Nothing comes through a port that stays down. The port's endpoint
number, the alignment asked of a write of 1, 2, 4 or 8 bytes and the pieces that wait are the model's reading (log entries 23, 82 and 84). -/
def Obligations.FabricAndHostPorts : Prop :=
  (∀ (link n : Nat) (s : State),
    (link < 24 → ∀ lane bank : Fin 9, ∀ good : BitVec 9, ∀ seq : BitVec 12,
      let k := s.link link
      (k.good.getLsbD lane.val = true → k.state = .full → 5 < maskCount k.good → 48 ≤ 16 * maskCount k.banks →
        ∃ t, exec (.laneFailure link lane) s = .next t ∧ (t.link link).state = .erasure ∧ (t.link link).erased = some lane ∧
          (t.link link).good.getLsbD lane.val = false) ∧
      (k.good.getLsbD lane.val = true → k.state = .erasure → 5 < maskCount k.good → 48 ≤ 16 * maskCount k.banks →
        ∃ t, exec (.laneFailure link lane) s = .next t ∧ (t.link link).state = .training ∧ (t.link link).erased = none) ∧
      (k.state = .training → maskCount (good &&& k.good) < 5 → ∃ t, exec (.linkTrainingComplete link good) s = .next t ∧
        (t.link link).state = .removed) ∧
      (k.state = .training → 5 ≤ maskCount (good &&& k.good) → 18 ≤ 16 * maskCount (k.banks &&& (good &&& k.good)) → ∃ t,
        exec (.linkTrainingComplete link good) s = .next t ∧ (t.link link).good = good &&& k.good ∧
        (t.link link).state = (if k.keep = some .narrow then .narrow
          else if k.keep = some .erasure ∧ maskCount (good &&& k.good) = 8 then .erasure
          else if good &&& k.good = 0x1FF then .full else .narrow)) ∧
      (k.state = .removed → ∃ t, exec (.linkRetrainRequest link) s = .next t ∧ (t.link link).state = .training ∧ (t.link link).good = 0x1FF) ∧
      (∃ t, exec (.bankRetire link bank) s = .next t ∧ (t.link link).banks.getLsbD bank.val = false) ∧
      (k.state.carries = true → k.refused = none → seq = k.expect →
        (∃ t, exec (.flitReceive link seq .part) s = .next t ∧ (t.link link).expect = k.expect + 1 ∧ (t.link link).again = 0 ∧ t.msgs = s.msgs) ∧
        (∀ m, ∃ t, exec (.flitReceive link seq (.message m)) s = .next t ∧ (t.link link).expect = k.expect + 1 ∧ (t.link link).again = 0 ∧
          t.msgs = s.msgs ++ [arriving m link s.vt]) ∧
        (∃ t, exec (.flitReceive link seq .bad) s = .next t ∧ (t.link link).refused = some seq ∧ (t.link link).expect = k.expect ∧ t.msgs = s.msgs)) ∧
      (k.state.carries = true → (k.refused ≠ none ∨ seq ≠ k.expect) → ∀ what, exec (.flitReceive link seq what) s = .next s) ∧
      (k.state.carries = true → k.refused = some seq →
        (k.again + 1 < 8 → ∃ t, exec (.flitReplay link seq) s = .next t ∧ (t.link link).refused = none ∧ (t.link link).again = k.again + 1 ∧
          (t.link link).state = k.state) ∧
        (8 ≤ k.again + 1 → ∃ t, exec (.flitReplay link seq) s = .next t ∧ (t.link link).state = .training))) ∧
    (∀ x d m o, s.stores[n]? = some x → x.place = .peer d m o → x.phase = .issued → x.out = true →
      (2 ^ 17 ≤ (s.vt - x.sent).toNat → exec (.packetLifetimeExpiry ⟨.store n, .lifetime⟩) s =
        .next { s with stores := s.stores.set n { x with out := false } }) ∧
      exec (.packetLifetimeExpiry ⟨.store n, .stomped⟩) s = .next { s with stores := s.stores.set n { x with out := false } }) ∧
    (∀ x, s.stores[n]? = some x → (∀ h o, x.place ≠ .host h o) → x.phase = .issued → x.out = true →
      exec (.packetLifetimeExpiry ⟨.store n, .endToEnd⟩) s = .next { s with stores := s.stores.set n { x with out := false } }) ∧
    (∀ k, s.kept[n]? = some k →
      (k.out = true → 2 ^ 17 ≤ (s.vt - k.sent).toNat → exec (.packetLifetimeExpiry ⟨.kept n, .lifetime⟩) s =
        .next { s with kept := s.kept.set n { k with out := false } }) ∧
      ((s.vt - k.sent).toNat < 32768 → exec (.messageResend n) s = .next s) ∧
      (32768 ≤ (s.vt - k.sent).toNat → k.msg.sends < 24 → ∃ t j, exec (.messageResend n) s = .next t ∧ t.kept = s.kept.set n j ∧
        j.msg = { k.msg with sends := k.msg.sends + 1 } ∧ j.seq = k.seq ∧ j.sent = s.vt ∧
        (∀ l, s.route k.msg.src (k.msg.far.getD 0) k.msg.dst = some l → j.link = l ∧ j.out = true) ∧
        (s.route k.msg.src (k.msg.far.getD 0) k.msg.dst = none → j.out = false)) ∧
      (32768 ≤ (s.vt - k.sent).toNat → 24 ≤ k.msg.sends → ∃ t, exec (.messageResend n) s = .next t ∧ t.kept = dropAt s.kept n ∧
        ∃ x ∈ t.kills, x.kernel = k.msg.kernel ∧ x.cause = 0x36) ∧
      (k.out = true → s.arrives (some k.link) = true → exec (.gatewayAcknowledge n) s = .next { s with kept := dropAt s.kept n }) ∧
      (k.out = false → exec (.gatewayAcknowledge n) s = .next s)) ∧
    (∀ die dev, die < 4 → dev < 256 → exec (.routeEntryUpdate die dev) s = .next { s with
      routes := tabPut s.routes (256 * die + dev) (s.hubDword (objectBase 7 + 8 * (256 * die + dev))) })) ∧
  (∀ (port entry flow : Nat) (job : BitVec 24) (ordered wide fetch : Bool) (op : UetOp)
      (ta operand cmp : Word) (data : List Byte) (s : State), port < 8 →
    (s.portDown port = true → ∀ i ∈ [Instr.rmaWrite port job ordered flow ta data, .uetAtomic port job ordered flow op wide fetch ta operand cmp,
      .rmaRead port], exec i s = .next s) ∧
    (s.portDown port = false →
    let p := (s.nextPacket port flow false).1
    let v := (s.nextPacket port flow false).2
    let aligned := decide (data.length = 1 ∨ data.length = 2 ∨ data.length = 4 ∨ data.length = 8)
    (entry < 256 →
      let lo := s.hubDword (objectBase 12 + 16 * (256 * port + entry))
      let hi := s.hubDword (objectBase 12 + 16 * (256 * port + entry) + 8)
      (lo.getLsbD 63 = true → lo.extractLsb' 56 7 = 0 → lo.extractLsb' 16 16 = 0 → hi.extractLsb' 2 62 = 0 →
        ∃ t, exec (.jobTableUpdate port entry) s = .next t ∧ SameMemory s t ∧ tabGet t.jobs (256 * port + entry) =
          some { job := lo.extractLsb' 32 24, ord := hi.getLsbD 0, unord := hi.getLsbD 1, ctx := (lo.extractLsb' 0 16).toNat }) ∧
      ((lo.getLsbD 63 = false ∨ lo.extractLsb' 56 7 ≠ 0 ∨ lo.extractLsb' 16 16 ≠ 0 ∨ hi.extractLsb' 2 62 ≠ 0) →
        exec (.jobTableUpdate port entry) s = .next { s with jobs := tabDel s.jobs (256 * port + entry) })) ∧
    (s.jobContext port job ordered = none →
      ∀ i ∈ [Instr.rmaWrite port job ordered flow ta data, .uetAtomic port job ordered flow op wide fetch ta operand cmp],
        exec i s = .next ((s.portRefuses port).portAnswer port (some flow) .refused)) ∧
    exec (.rmaRead port) s = .next ((s.portRefuses port).portAnswer port none .unsupported) ∧ tabGet (s.portRefuses port).portErrors port = some (tabGetD s.portErrors port 0 + 1) ∧
    (∀ ctx w u ps, s.jobContext port job ordered = some ctx → data ≠ [] → taOfs ta % 64 + data.length ≤ 64 →
      s.hubReach ctx .store aligned ta data.length = .ok w → v.hubReach ctx .store false ta data.length = .ok (u, ps) → u.portWork = [] →
      (u.portRoom p = true → ∃ t l, exec (.rmaWrite port job ordered flow ta data) s = .next t ∧ t.stores = u.stores ++ l ∧
        l.map (·.place) = ps ∧ ∀ x ∈ l, x.op = .bytes (data.map some) ∧ x.covered = false ∧ x.src = 0x1124 + port ∧ x.phase = .issued) ∧
      (u.portRoom p = false → exec (.rmaWrite port job ordered flow ta data) s =
        .next { u with portWork := [{ packet := p, ctx := ctx, op := .bytes (data.map some), ta := ta, places := ps }] })) ∧
    (∀ ctx c, s.jobContext port job ordered = some ctx → s.hubReach ctx .store aligned ta data.length = .error c →
      exec (.rmaWrite port job ordered flow ta data) s = .next (s.portAnswer port (some flow) .refused)) ∧
    (∀ ctx u ps, s.jobContext port job ordered = some ctx → (op = .swap ∨ op = .cas ∨ fetch = true) →
      v.hubReach ctx .returning true ta (if wide then 8 else 4) = .ok (u, ps) → u.portWork = [] →
      u.portRoom (s.nextPacket port flow true).1 = true → ∃ t l,
        exec (.uetAtomic port job ordered flow op wide fetch ta operand cmp) s = .next t ∧ t.stores = u.stores ++ l ∧ l.map (·.place) = ps ∧
        ∀ x ∈ l, x.op = .atomic op wide operand cmp ∧ x.src = 0x1124 + port)))

/-- R267, R332 to R336, R341, R342: a debug request is served for the tasks it names; a stop is recorded for the debugger, or kills the kernel
where there is none; a commit to POINTS takes effect 2,000 cycles on; the link counters are latched at their interval, and the snapshot is then
written part by part, a sample that falls due meanwhile being counted as skipped. -/
def Obligations.DebugEvents : Prop := ∀ (slot n core : Nat) (w : Word) (rest : List (Nat × Word)) (s : State), core < 4096 →
  (s.requests = (slot, w) :: rest → w.extractLsb' 40 20 = 0 →
    (∀ p ∈ [(Instr.halt slot, (1 : Nat)), (.haltAll slot, 4)], (w.extractLsb' 60 4).toNat = p.2 → s.requestTargets slot w = [(core, .task)] →
      (s.coreOf core).task.run = .running → ∃ t, exec p.1 s = .next t ∧ t.requests = rest ∧
        (t.coreOf core).task = (s.coreOf core).task.asked 0x3E ∧ SameMemory s t) ∧
    (∀ p ∈ [(Instr.continueTask slot, (2 : Nat), false), (.stepTask slot, 3, true), (.continueAll slot, 5, false)],
      (w.extractLsb' 60 4).toNat = p.2.1 → s.requestTargets slot w = [(core, .task)] → s.unserved [(core, .task)] = false →
      (s.coreOf core).task.run = .halted .debug → ∃ t, exec p.1 s = .next t ∧ t.requests = rest ∧ (t.coreOf core).task.run = .running ∧
        (t.coreOf core).task.skip = true ∧ (t.coreOf core).task.stepping = p.2.2 ∧ (t.coreOf core).task.pc = (s.coreOf core).task.tpc ∧
        (t.coreOf core).fetchbase = (s.coreOf core).codebase ∧ SameMemory s t) ∧
    (∀ i ∈ [Instr.halt slot, .continueTask slot, .stepTask slot, .haltAll slot, .continueAll slot],
      ((w.extractLsb' 60 4).toNat = 0 ∨ 5 < (w.extractLsb' 60 4).toNat) → exec i s = .next { s with requests := rest })) ∧
  (∀ c, s.pointCommits = [c] → c.attachment = slot → s.attachedSlots slot = [(core, .task)] →
    (2000 ≤ (s.vt - c.vt).toNat → ∃ t, exec (.pointsUpdate slot) s = .next t ∧ t.pointCommits = [] ∧ SameMemory s t ∧
      ((c.vt - (s.coreOf core).task.pointsVt).toNat < 2 ^ 47 → (t.coreOf core).task.points = c.points (s.coreOf core).task.gtid) ∧
      (2 ^ 47 ≤ (c.vt - (s.coreOf core).task.pointsVt).toNat → (t.coreOf core).task.points = (s.coreOf core).task.points)) ∧
    ((s.vt - c.vt).toNat < 2000 → exec (.pointsUpdate slot) s = .next s)) ∧
  (∀ p, s.stops[n]? = some p → s.attachmentOfKernel p.kernel = none → exec (.debugStop n) s =
    .next (({ s with stops := dropAt s.stops n }).mustKill p.kernel p.cause)) ∧
  (∀ p a, s.stops[n]? = some p → s.attachmentOfKernel p.kernel = some a →
    (p.dump = none → s.attach a 0x28 = 0 →
      exec (.debugStop n) s = .next ({ s with stops := dropAt s.stops n }.stopServed a p 0)) ∧
    (∀ v j, s.stopDump a p = (v, some j) →
      (j.ended = true → exec (.debugStop n) s = .next ({ v with stops := dropAt v.stops n }.stopServed a p (if j.failed then 2 else 1))) ∧
      (j.ended = false → exec (.debugStop n) s = .next { v with stops := v.stops.set n { p with dump := some j } })) ∧
    ∀ (v : State) (dump : Nat),
      let ring := v.attach a 8
      let k := v.ringCount ring
      let slotTa := ring + 64 + BitVec.ofNat 64 (32 * (k % 64))
      let counted := fun (u : State) => u.countAt u.reporter pfContext (u.attach a 0x10)
      (ring = 0 → v.stopServed a p dump = counted v) ∧
      (ring ≠ 0 → ∀ u, v.recordPut (dcWriter v.reporter .note) pfContext
          [(slotTa + 8, BitVec.ofNat 64 (dumpCore (p.core % 8192) * 2 ^ 40 + (p.gtid.extractLsb' 0 40).toNat)),
           (slotTa + 16, BitVec.ofNat 64 (p.tpc.extractLsb' 0 32).toNat), (slotTa + 24, p.tval),
           (slotTa, BitVec.ofNat 64 (p.vt.toNat * 2 ^ 16 + dump * 2 ^ 8 + p.cause.toNat)), (ring, BitVec.ofNat 64 (k + 1))] = .ok u →
        v.stopServed a p dump = counted (u.countRing ring))) ∧
  (let c := s.hubDword (objectBase 6)
   let num := s.hubDword (objectBase 6 + 16)
   let ta := s.hubDword (objectBase 6 + 8) + BitVec.ofNat 64 (0x100000 * (s.snapshots % num.toNat))
   let faulted := fun (u : State) => memPutDword u.hbm (objectBase 6) ((u.hubDword (objectBase 6) &&& ~~~(2 ^ 63 : Word)) ||| (2 ^ 62 : Word))
   c.getLsbD 63 = true → c.extractLsb' 14 48 = 0 → 0 < (c.extractLsb' 0 14).toNat → (c.extractLsb' 0 14).toNat ≤ 10000 → 0 < num.toNat →
   num.toNat ≤ 255 → taOfs (s.hubDword (objectBase 6 + 8)) % 64 = 0 →
   let due := s.vt.toNat % ((c.extractLsb' 0 14).toNat * 1300) = 0
   (s.snap = none → (due → ∃ t, exec .linkSnapshot s = .next t ∧ t.latches = s.latches ++ [s.tick] ∧
        t.snap = some { vt := s.vt, due := s.vt, latches := s.latches ++ [s.tick], stage := 0, failed := false } ∧ SameMemory s t) ∧
      (¬due → exec .linkSnapshot s = .next s)) ∧
   (∀ x, s.snap = some x →
     (due → s.vt ≠ x.due → exec .linkSnapshot s = .next { s with skipped := s.skipped + 1, snap := some { x with due := s.vt } }) ∧
     (s.vt = x.due → exec .linkSnapshot s = .next s) ∧
     (¬due → s.vt ≠ x.due → x.failed = true → ∃ t, exec .linkSnapshot s = .next t ∧ t.snap = none ∧ t.hbm = faulted s) ∧
     (¬due → s.vt ≠ x.due → x.failed = false → s.hubDue .snapshot = false →
       (∀ u, x.stage = 0 → s.hubWrite (dcWriter hubCore .snapshot) pfContext ta (natBytes 8 0) = .ok u → exec .linkSnapshot s =
         .next { u with snap := some { x with stage := 1 } }) ∧
       (x.stage = 1 →
         let l := dwordBytes ([x.vt.zeroExtend 64, BitVec.ofNat 64 s.skipped, 0, 0, 0, 0, 0] ++
           (List.range (4096 * 24 + 24 * 6)).map (snapshotDword x.latches))
         let b := writeBody (dcWriter hubCore .snapshot) pfContext ta 8 l (cutLines (l.length / 64 + 2) (taOfs ta + 8) 0 l.length) s 0
         ∃ t, exec .linkSnapshot s = .next t ∧ (b.fault = none → t = { b.state with snap := some { x with stage := 2 } }) ∧
           (b.fault ≠ none → t.snap = none ∧ t.hbm = faulted b.state)) ∧
       (∀ u, x.stage = 2 → s.hubWrite (dcWriter hubCore .snapshot) pfContext ta (natBytes 8 (s.snapshots + 1)) = .ok u →
         (u.hubDue .snapshot = false → exec .linkSnapshot s = .next { u with snap := none, snapshots := u.snapshots + 1 }) ∧
         (u.hubDue .snapshot = true → exec .linkSnapshot s = .next { u with snap := some { x with stage := 3 } })) ∧
       (x.stage = 3 → exec .linkSnapshot s = .next { s with snap := none, snapshots := s.snapshots + 1 }) ∧
       (∀ e, x.stage = 0 → s.hubWrite (dcWriter hubCore .snapshot) pfContext ta (natBytes 8 0) = .error e → ∃ t, exec .linkSnapshot s = .next t ∧
         t.snap = none ∧ t.hbm = faulted s))))

/-- R147, R294, R359 to R367: the hub enables a function whose record breaks no rule, with the quotas of its contexts those of the record from
then on (log entry 83), or writes ERR and leaves STATE at 0; disabling stops its queues, at once, and kills its kernels, complete ones among
them, once no packet of it is in execution; the security engine answers a request with the nonce it came with; throttling shows in the
status; power-on reset keeps the epoch, the fuses, the device's number and host memory; bring-up goes step by step: the boot ROM refuses an
unsigned or older image and raises the fuses with a newer one, a failed channel's slice and a dead die are left out, the fourth step begins
an epoch at VT 0 and builds the map, a port that does not negotiate stays down. How a die that is out stands in the map, and what survives a
power-on reset beside the epoch and the fuses, are the model's choice where the rules do not say (log entries 8 and 30). -/
def Obligations.SystemEvents : Prop := ∀ (f : Nat) (die : Fin 4) (x : StepFinds) (s : State), Memory.wf s.hbm = true → f < 17 →
  let qbase := leNat (memBytes s.hbm (objectBase 9 + 128 * f + 8) 2)
  let nqueue := leNat (memBytes s.hbm (objectBase 9 + 128 * f + 0xA) 2)
  (∀ u, s.takeVf f true = some u → (objectBase 9 + 128 * f) / 64 ∉ s.hbmPoison →
    (u.enableFault f = none → ∃ t, exec (.vfEnable f) s = .next t ∧ t.vfField f 0 1 = 1 ∧ t.vfRequests = u.vfRequests ∧
      ∀ c ∈ t.contexts, c.2.vf = f → c.2.maxBytes = t.vfField f 0x20 8 ∧ c.2.maxHandles = t.vfField f 0x10 4) ∧
    (∀ e, u.enableFault f = some e → ∃ t, exec (.vfEnable f) s = .next t ∧ t.vfField f 0xD 1 = e.toNat ∧ t.vfField f 0 1 = s.vfField f 0 1)) ∧
  (∀ u, s.takeVf f false = some u → ∃ t, exec (.vfDisable f) s = .next t ∧
    (∀ i < nqueue, memRead t.hbm (objectBase 4 + 32 * (qbase + i) + 7) = 0) ∧
    (s.functionBusy f = true → t.vfRequests = s.vfRequests ∧ t.kills = s.kills) ∧
    (s.functionBusy f = false → t.vfRequests = u.vfRequests ∧
      ∀ k K, tabGet s.kernels k = some K → K.vf = f → (K.state = .running ∨ K.state = .complete) → ∃ x ∈ t.kills, x.kernel = k ∧ x.cause = 0x34)) ∧
  (memDword s.hbm (objectBase 10 + 32) = 1 → (∀ l, s.nonce = some l → l.length = 32) → ∃ t, exec .attestationRequest s = .next t ∧
    memDword t.hbm (objectBase 10 + 32) = 0 ∧ memBytes t.hbm (objectBase 10 + 64) 32 = s.nonce.getD (memBytes s.hbm (objectBase 10) 32) ∧
    memBytes t.hbm (objectBase 10 + 160) 32 = sha3 (memBytes s.hbm (objectBase 9) 2176) ∧
    memDword t.hbm (objectBase 10 + 192) = s.imageVersion ∧ memDword t.hbm (objectBase 10 + 200) = s.vtr ∧ ∀ c, t.coreOf c = s.coreOf c) ∧
  (memDword s.hbm (objectBase 10 + 32) ≠ 1 → exec .attestationRequest s = .next s) ∧
  (∃ t, exec (.thermalThrottle die) s = .next t ∧ t.throttled.getLsbD die.val = true ∧ (memDword t.hbm (objectBase 11)).getLsbD 16 = true) ∧
  (∃ t, exec (.thermalThrottleEnd die) s = .next t ∧ t.throttled.getLsbD die.val = false ∧
    (t.throttled = 0 → (memDword t.hbm (objectBase 11)).getLsbD 16 = false)) ∧
  (∃ t, exec .powerOnReset s = .next t ∧ t.epoch = s.epoch ∧ t.fuse = s.fuse ∧ t.device = s.device ∧ t.host = s.host ∧
    t.core = State.reset.core ∧ t.others = State.reset.others ∧ t.bringUp = 0 ∧ t.hbm = State.reset.hbm) ∧
  (s.bringUp.toNat < 7 → s.failCode ≠ 1 → s.mayEnd (s.bringUp.toNat + 1) = true →
    (s.bringUp = 0 → (x.signed = false ∨ x.version < s.fuse) → ∃ t, exec (.bringUpStep x) s = .next t ∧ t.bringUp = 0 ∧ t.failCode = 1 ∧
      t.fuse = s.fuse) ∧
    ((s.bringUp = 0 → x.signed = true ∧ s.fuse ≤ x.version) → ∃ t, exec (.bringUpStep x) s = .next t ∧ t.bringUp = s.bringUp + 1 ∧
      (s.bringUp = 0 → t.fuse = x.version ∧ t.imageVersion = x.version) ∧
      (s.bringUp = 1 → (∀ c, c ∈ t.badSlices ↔ c ∈ x.channels ∧ c < 256) ∧ ((∃ c ∈ x.channels, c < 256) → t.failCode = 2)) ∧
      (s.bringUp = 2 → t.deadDies = s.deadDies ||| x.lanes ∧ (x.lanes ≠ 0 → t.failCode = 3)) ∧
      (s.bringUp = 3 → t.epoch = s.epoch + 1 ∧ t.vt = 0 ∧ ∀ c < 4096, memDword t.hbm (objectBase 0 + 8 * c) =
        if s.deadDies.getLsbD (c / 1024) then 3 else BitVec.ofNat 64 ((s.coreOf c).hw.toNat * 32)) ∧
      (s.bringUp = 5 → t.portsDown = x.ports) ∧
      (s.bringUp ≠ 3 → t.epoch = s.epoch ∧ t.vt = s.vt))) ∧
  (s.failCode = 1 → exec (.bringUpStep x) s = .next s)

/-- R154, R156, R158, R160: what an atomic, a counter and a cell operation leave at their home: the new word of each form, its old word
zero-extended as the answer, a counter that saturates, a cell that accumulates or is cleared; no byte beside the word changes. -/
def Obligations.AtomicsAtHome : Prop := ∀ (p : Place) (x cmp : Word) (fx : Word32) (s : State), s.ok = true →
  ((∃ a, p = .hbm a) ∨ ∃ c o, c < 8192 ∧ p = .sram c o) →
  (let old := s.natAt p 8
   let w : Word := BitVec.ofNat 64 old
   ∀ q ∈ ([(.add, w + x), (.and, w &&& x), (.or, w ||| x), (.xor, w ^^^ x), (.min, if w.toInt ≤ x.toInt then w else x),
       (.max, if w.toInt ≤ x.toInt then x else w), (.swap, x), (.cas, if w = cmp then x else w)] : List (UetOp × Word)),
     (s.applyOp p (.atomic q.1 true x cmp)).1.natAt p 8 = q.2.toNat ∧ (s.applyOp p (.atomic q.1 true x cmp)).2 = w) ∧
  (let old := s.natAt p 4
   let w : Word32 := BitVec.ofNat 32 old
   let y : Word32 := x.truncate 32
   ∀ q ∈ ([(.add, w + y), (.and, w &&& y), (.or, w ||| y), (.xor, w ^^^ y), (.min, if w.toInt ≤ y.toInt then w else y),
       (.max, if w.toInt ≤ y.toInt then y else w), (.swap, y), (.cas, if w = cmp.truncate 32 then y else w)] : List (UetOp × Word32)),
     (s.applyOp p (.atomic q.1 false x cmp)).1.natAt p 4 = q.2.toNat ∧ (s.applyOp p (.atomic q.1 false x cmp)).2 = w.zeroExtend 64) ∧
  ((s.applyOp p (.fadd fx)).1.natAt p 4 = (fadd (BitVec.ofNat 32 (s.natAt p 4)) fx).toNat ∧
    (s.applyOp p (.fadd fx)).2 = BitVec.ofNat 64 (s.natAt p 4)) ∧
  (s.applyOp p (.cadd x)).1.natAt p 8 = min (s.natAt p 8 + x.toNat) (2 ^ 64 - 1) ∧
  (s.applyOp p .xclr).1.natAt p 64 = 0 ∧
  (s.applyOp p (.xadd fx)).1.natAt p 64 = ((Cell.of (s.natAt p 64)).add (fp32 fx)).bits % 2 ^ 512 ∧
  ∀ o : StoreOp, ∀ q : Place, (∀ i < o.length, q ≠ p.add i) → (s.applyOp p o).1.byteAt q = s.byteAt q

/-- R31 to R39, R47: words written out from the encodings of the spec decode to the instructions they stand for, at every format of the
opcode map; the all-zero halfword and the all-ones word are no instructions. -/
def Obligations.DecodesSpecWords : Prop := (∀ p ∈ ([(0x00290C03, .add 12 8 10), (0x40102311, .srli 3 1 4), (0x0680011B, .ctlr 1 0x00D), (0x79010941, .ld 7 .pkg .w 0 8 9),
      (0x20000033, .wfe), (0x00140033, .trap 5), (0xF8D4, .hli 3 (-1)), (0x314A, .hadd 5 6), (0x08000033, .eret),
      (0x0194835F, .acas 0 0 true 4 5 3), (0x21948351, .retAadd 2 0 true 4 5 3), (0x001CDA49, .cadd none 0 6 7),
      (0x000122B1, .pub false 2 9), (0x001CC5D1, .spawn 5 6 7), (0x0000E0AD, .tidset 0 7),
      (0xFFF88305, .addi 3 4 (-2)), (0x000C8613, .movi 6 100), (0xFF98BD21, .beq 5 6 0x1FF 29), (0x00029F2D, .jal 31 20), (0x18000731, .tid 7),
      (0x02FD2845, .st 1 .h (-1) 9 8), (0xA214D049, .postedAadd (some 4) 2 true 6 5), (0x34012A4B, .crd 3 .sec 9 10), (0x1C00A04D, .wchk .pkg 5),
      (0x8180024F, .drain 0x81 (some 2)), (0x2A0C4977, .mma true 1 2 3 4 5), (0xC5A9367B, .mepi .host 1 .relu true 10 9 true .bf16 2),
      (0xF80D2273, .tld 2 9 (-1) 3), (0x19306B7D, .mrd 2 11 3 12), (0xB0052A81, .vld (some 1) .n8 1 9 10),
      (0x1E0C4189, .vfma (some 2) 1 2 3), (0x0004A491, .vcvt .fp32Bf16 none .rz 4 5), (0x10A0E69D, .vmovg 1 6 7 40),
      (0x331482A1, .cpy 1 (some 3) 2 4 5), (0x002907B3, .walk 7 8 10), (0xC12907B3, .mkobj .queue 7 8 10), (0x530130C1, .send 5 3 9 16),
      (0x60000AC7, .recv 6 10), (0x780120CD, .chhold 7 true 9)] : List (Nat × Instr)),
    decodeTableWord 32 p.1 = some p.2) ∧
  decodeTableWord 16 0 = none ∧ decodeTableWord 32 0xFFFFFFFF = none

/-- R31 to R39: for every well-formed instruction that has an encoding, with every operand at every value the encoding admits, decoding the
bytes of its encoding gives it back and takes exactly those bytes, whatever follows. -/
def Obligations.EncodeDecode : Prop := ∀ (i : Instr) (e : Enc) (rest : List Byte), i.wellFormed = true → encode i = some e →
  decode (e.bytes ++ rest) = .ok (i, e.bytes.length)

/-- R31, R47: whatever decodes is a well-formed instruction that has an encoding, and its encoding is the very bytes it was decoded
from: no two words stand for one instruction, and every bit of a word that decodes is told. -/
def Obligations.DecodeEncode : Prop := ∀ (l : List Byte) (i : Instr) (n : Nat), decode l = .ok (i, n) →
  i.wellFormed = true ∧ ∃ e, encode i = some e ∧ e.bytes = l.take n

/-- R27, R31, R64, R223, R248, R266, R329: a step that is a slot's turn executes the instruction that the bytes at the slot's image offset
decode to; under REP the follower with its fields advanced; an illegal word and a miss are the steps that trap them. Where no turn is named
the core in focus issues, an activation before the task, and the task besides where the activation is stalled; where an instruction has to
wait the other agents act and the focus passes; in one cycle of four they act besides. Whose turn it is is the model's choice (log
entry 1). -/
def Obligations.StepRunsDecoded : Prop := ∀ (i : Instr) (w : Word32) (n : Nat) (s : State),
  let u := s.cycle
  (∀ sel rest, let v : State := { u with agenda := rest, sel := sel }
    let c := v.core.slot sel
    s.agenda = .issue u.core.id sel :: rest → (sel = .act ∨ u.core.act.run ≠ .running) → c.run = .running → c.request = none →
    v.core.ovld = none → v.core.codePoisoned sel c.pc = false → c.breakpoint = none →
    (c.rep = none → fetch v.core sel c.pc = .instr i w n → step s = Out.unstall (exec i { v with ir := w })) ∧
    (c.rep = none → fetch v.core sel c.pc = .illegal w → step s = Out.unstall (exec (.illegalEncoding w) { v with ir := w })) ∧
    (∀ o, c.rep = none → fetch v.core sel c.pc = .miss o → step s = Out.unstall (exec (.overlayMiss o) v)) ∧
    (∀ r j, c.rep = some r → fetch v.core sel (c.pc + 2) = .instr i w n → repInstr r.step r.done.toNat i = some j →
      step s = Out.unstall (exec j { v with ir := w }))) ∧
  (let k : State → Out := if agentsTurn u.vt then .next else progressPass
   let fin : Out → Out := fun o => if agentsTurn u.vt then Out.andThen o progressPass else o
   let v : State := { u with sel := .task }
   let c := v.core.task
   s.agenda = [] → u.core.act.run ≠ .running → c.run = .running → c.request = none → v.core.ovld = none →
    v.core.codePoisoned .task c.pc = false → c.breakpoint = none →
    (c.rep = none → fetch v.core .task c.pc = .instr i w n → step s = fin (Out.orElse (exec i { v with ir := w }) k) ∧
      ∀ t, exec i { v with ir := w } = .next t → t.stalled = false → step s = fin (.next t)) ∧
    (c.rep = none → fetch v.core .task c.pc = .illegal w → step s = fin (Out.orElse (exec (.illegalEncoding w) { v with ir := w }) k)) ∧
    (∀ o, c.rep = none → fetch v.core .task c.pc = .miss o → step s = fin (Out.orElse (exec (.overlayMiss o) v) k)) ∧
    (∀ r j, c.rep = some r → fetch v.core .task (c.pc + 2) = .instr i w n → repInstr r.step r.done.toNat i = some j →
      step s = fin (Out.orElse (exec j { v with ir := w }) k))) ∧
  (let k : State → Out := if agentsTurn u.vt then .next else progressPass
   let fin : Out → Out := fun o => if agentsTurn u.vt then Out.andThen o progressPass else o
   let v : State := { u with sel := .act }
   let c := v.core.act
   s.agenda = [] → c.run = .running → c.gap = 0 → c.request = none → v.core.ovld = none → v.core.codePoisoned .act c.pc = false →
    c.breakpoint = none → c.rep = none → fetch v.core .act c.pc = .instr i w n →
    step s = fin (Out.orElse (exec i { v with ir := w }) (fun x => Out.orElse (issueSlot { x with sel := .task }) k)) ∧
      ∀ t, exec i { v with ir := w } = .next t → t.stalled = false → step s = fin (.next t)) ∧
  (∀ (c : Core) (sel : SlotSel) (pc : Word), c.base sel ≤ pc.toNat → pc.toNat - c.base sel + n ≤ c.exb.toNat →
    decode (memBytes c.sram (pc.toNat - c.base sel) 4) = .ok (i, n) →
    fetch c sel pc = .instr i (BitVec.ofNat 32 (leNat (memBytes c.sram (pc.toNat - c.base sel) n))) n) ∧
  (∀ rest, isAgent i = true →
    (s.agenda = .hw i :: rest → step s = Out.unstall (exec i { u with agenda := rest })) ∧
    (s.agenda = .also i :: rest → step s = Out.unstall (exec i { s with tick := s.tick + 1, agenda := rest })))

/-- R1, R5, R218, R224: every step, of an instruction or of any agent, keeps each core under its own number and every memory of the package
in its canonical form. -/
def Obligations.StepKeepsOk : Prop := ∀ (s t : State), s.ok = true → step s = .next t → t.ok = true

/-- R51, R140, R228, R249, R279, R349, R366: what package reset leaves: VT 0, no bring-up step completed, the serial counter at 1; at every core
FEAT 7, every stream's sequence 0 and every channel field 0; links training with all lanes good and none erased; and memory in
canonical form. That every other register reads 0 is the model's choice (log entry 5), and that every byte of HBM outside /hv/links and the
object descriptors, and of every SRAM, reads 0 (log entry 6); where the descriptors lie, those of the system objects among them, is the model's
too (log entries 12 and 69). -/
def Obligations.ResetOk : Prop := State.reset.ok = true ∧ State.reset.vt = 0 ∧ State.reset.bringUp = 0 ∧ State.reset.serial = 1 ∧
  (∀ c, (State.reset.coreOf c).feat = 7 ∧ (State.reset.coreOf c).copy.streams = Vector.replicate 8 0 ∧
    (∀ n : Chan, (State.reset.coreOf c).chans[n] = Channel.reset) ∧
    ∀ sel, ((State.reset.coreOf c).slot sel).streams = Vector.replicate 8 0 ∧ ((State.reset.coreOf c).slot sel).run = .free ∧
      (∀ r : GReg, ((State.reset.coreOf c).slot sel).g[r] = 0) ∧ ∀ r : WReg, ((State.reset.coreOf c).slot sel).w[r] = .val 0) ∧
  (∀ n, (State.reset.link n).state = .training ∧ (State.reset.link n).good = 0x1FF ∧ (State.reset.link n).erased = none) ∧
  (∀ a, (∀ l < 24, ∀ k < 8, a ≠ objectBase 8 + 8 * l + k) → (a < cadastreBase ∨ cadastreBase + 2 ^ 32 ≤ a) → memRead State.reset.hbm a = 0) ∧
  (∀ p ∈ rootNodes, ∀ o vs, p.2.body = .object o vs → ∀ v ∈ vs, ∀ b, v.loc = .fixed b →
    memDword State.reset.hbm (descriptorOf v.id + 16) = BitVec.ofNat 64 b ∧ (memDword State.reset.hbm (descriptorOf v.id + 8)).toNat = v.length) ∧
  (∀ c a, memRead (State.reset.coreOf c).sram a = 0)

/-- R27, R45, R54, R56, R57, R58, R59, R61, R63: an instruction on g registers alone changes, of all registers and memories, only its
destination and the program counter: every other g register, the e, w, v and k registers, accumulator descriptors, tile shapes, the
special and trap registers, the streams, stores on their way, results, messages and every byte of memory stay. -/
def Obligations.RegisterFrame : Prop := ∀ (d a b x y : GReg) (imm : BitVec 14) (sh : BitVec 6) (wide : BitVec 19) (small : BitVec 5)
    (s t : State),
  ∀ p ∈ ([(.add d a b, d), (.sub d a b, d), (.and d a b, d), (.or d a b, d), (.xor d a b, d), (.sll d a b, d), (.srl d a b, d),
      (.sra d a b, d), (.mul d a b, d), (.mulh d a b, d), (.mulhu d a b, d), (.slt d a b, d), (.sltu d a b, d), (.min d a b, d),
      (.max d a b, d), (.mov d a, d), (.addi d a imm, d), (.andi d a imm, d), (.ori d a imm, d), (.xori d a imm, d),
      (.slti d a imm, d), (.muli d a imm, d), (.slli d a sh, d), (.srli d a sh, d), (.srai d a sh, d), (.movi d wide, d),
      (.movsi d wide, d), (.hdl d a, d), (.ofs d a, d), (.vtr d, d), (.hmov x y, x), (.hadd x y, x), (.hsub x y, x), (.hand x y, x),
      (.hor x y, x), (.hxor x y, x), (.hli x small, x), (.haddi x small, x), (.hslli x small, x), (.hsrli x small, x),
      (.hsrai x small, x)] : List (Instr × GReg)),
  Issues p.1 s → exec p.1 s = .next t →
    (∀ r, r ≠ p.2 → t.g r = s.g r) ∧ t.g 0 = 0 ∧ (∀ r, t.e r = s.e r) ∧ (∀ r, t.w r = s.w r) ∧
    t.slot.gtid = s.slot.gtid ∧ t.slot.repc = s.slot.repc ∧ t.slot.law = s.slot.law ∧ t.slot.trapv = s.slot.trapv ∧
    t.slot.tcause = s.slot.tcause ∧ t.slot.tpc = s.slot.tpc ∧ t.slot.tval = s.slot.tval ∧ t.slot.rect = s.slot.rect ∧
    t.slot.dealpat = s.slot.dealpat ∧ t.slot.streams = s.slot.streams ∧ t.slot.run = s.slot.run ∧ t.slot.priv = s.slot.priv ∧
    t.slot.ctx = s.slot.ctx ∧ t.slot.latch = s.slot.latch ∧ t.core.v = s.core.v ∧ t.core.k = s.core.k ∧ t.core.accd = s.core.accd ∧
    t.core.mshape = s.core.mshape ∧ t.core.net = s.core.net ∧ t.core.partw = s.core.partw ∧ t.core.exb = s.core.exb ∧
    t.core.codebase = s.core.codebase ∧ t.core.fetchbase = s.core.fetchbase ∧ t.core.feat = s.core.feat ∧
    t.core.chans = s.core.chans ∧ t.core.tids = s.core.tids ∧ t.core.matrix = s.core.matrix ∧ t.core.vector = s.core.vector ∧
    t.stores = s.stores ∧ t.results = s.results ∧ t.msgs = s.msgs ∧ t.nodes = s.nodes ∧ t.contexts = s.contexts ∧
    t.others = s.others ∧ SameMemory s t

/-- R49, R93, R100, R108, R141, R151, R163, R240: no instruction changes a byte of any core's SRAM pool by itself: stores, engines, landings
and messages do, each as a step of its own. -/
def Obligations.PoolsUnchanged : Prop := ∀ (i : Instr) (s t : State), (encode i).isSome = true → exec i s = .next t →
  ∀ c, (t.coreOf c).sram = (s.coreOf c).sram
end

