-- ==== Sys2Proof/Laws/Issue.lean ====
section
/-! SUPPORT. What issuing does, once for all instructions: the preamble, and the shared shapes built on it. -/

namespace Sys2Proof.Machine

theorem Issues.decode {i : Instr} {s : State} (h : Issues i s) : decodeCause i s = none := by
  obtain ⟨h1, h2, h3, h4, -, -, -⟩ := h
  have f1 : (privilegedInstr i && !s.slot.priv) = false := by
    cases e : privilegedInstr i <;> simp_all
  have f3 : (gNames i).find? s.slot.windowed = none := by
    rw [List.find?_eq_none]; intro r hr; simp [h3 r hr]
  have f4 : overCapacity s.slot (longLatency i) = none := by
    cases e : longLatency i with
    | none => rfl
    | some p =>
      obtain ⟨r, la⟩ := p
      simp only [overCapacity]
      split
      · next hc => exact absurd (h4 r la e hc.1 hc.2.1) (Nat.not_lt.mpr hc.2.2)
      · rfl
  cases e : feature i with
  | none => simp [decodeCause, f1, f3, f4, e]
  | some n => simp [decodeCause, f1, f3, f4, e, h2 n e]

theorem Issues.gate_go {i : Instr} {s : State} (h : Issues i s) : gate s = .go := by
  obtain ⟨-, -, -, -, h5, h6, -⟩ := h
  have f : s.outstanding.filter s.slot.waitsFor = [] := by
    rw [List.filter_eq_nil_iff]; intro r hr
    simp [Slot.waitsFor, (h5 r hr).1, (h5 r hr).2]
  have f2 : s.outstanding.any s.slot.waitsFor = false := by
    rw [List.any_eq_false]; intro r hr; simp [Slot.waitsFor, (h5 r hr).1, (h5 r hr).2]
  have f3 : s.core.detected.find? (fun d => d.1 = s.sel) = none := by
    rw [List.find?_eq_none]; intro d hd; simpa using h6 d hd
  simp [gate, f, f2, f3]

/-- Issuing as questions that can be computed: no decode cause, an open gate, and no register with an error read. -/
theorem issues_iff {i : Instr} {s : State} : Issues i s ↔ decodeCause i s = none ∧ gate s = .go ∧ s.slot.readsFlaw i = false := by
  refine ⟨fun h => ⟨h.decode, h.gate_go, h.2.2.2.2.2.2⟩, fun ⟨hd, hg, hf⟩ => ?_⟩
  have d1 : ¬(privilegedInstr i && !s.slot.priv) = true := by
    intro h; simp [decodeCause, h] at hd
  simp only [decodeCause, if_neg d1] at hd
  have d2 : ∀ n, feature i = some n → s.core.feat.getLsbD n = true := by
    intro n hn
    cases e : s.core.feat.getLsbD n with
    | true => rfl
    | false => simp [hn, e] at hd
  have d3 : (gNames i).find? s.slot.windowed = none := by
    cases e : (gNames i).find? s.slot.windowed with
    | none => rfl
    | some r =>
      cases f : feature i with
      | none => simp [f, e] at hd
      | some n => simp [f, d2 n f, e] at hd
  have d4 : overCapacity s.slot (longLatency i) = none := by
    cases e : overCapacity s.slot (longLatency i) with
    | none => rfl
    | some r =>
      cases f : feature i with
      | none => simp [f, d3, e] at hd
      | some n => simp [f, d2 n f, d3, e] at hd
  have g1 : (s.outstanding.any s.slot.waitsFor) = false := by
    cases e : s.outstanding.any s.slot.waitsFor with
    | false => rfl
    | true => unfold gate at hg; split at hg <;> simp [e] at hg
  have g2 : s.core.detected.find? (fun d => d.1 = s.sel) = none := by
    cases e : s.core.detected.find? (fun d => d.1 = s.sel) with
    | none => rfl
    | some d => unfold gate at hg; split at hg <;> simp [g1, e] at hg; split at hg <;> simp at hg
  refine ⟨?_, d2, ?_, ?_, ?_, ?_, hf⟩
  · intro h; cases e : s.slot.priv with
    | true => rfl
    | false => exact absurd (by simp [h, e]) d1
  · intro r hr; rw [List.find?_eq_none] at d3; simpa using d3 r hr
  · intro r la h hr hla; simp only [h, overCapacity] at d4
    refine Nat.lt_of_not_le fun hc => ?_
    rw [if_pos ⟨hr, hla, hc⟩] at d4; exact absurd d4 (by simp)
  · intro r hr; rw [List.any_eq_false] at g1
    have := g1 r hr
    simp only [Slot.waitsFor, Bool.or_eq_true, decide_eq_true_eq, Bool.not_eq_true', not_or] at this
    exact ⟨this.1, by simpa using this.2⟩
  · intro d hdm; rw [List.find?_eq_none] at g2; simpa using g2 d hdm

/-- An instruction that issues has its own effect. -/
theorem issue_go {i : Instr} {s : State} (h : Issues i s) (k : State → Out) : issue i s k = k s := by
  simp [issue, h.decode, h.gate_go, h.2.2.2.2.2.2]

/-- What issuing answers otherwise: the trap of a decode cause, a wait, or the report of an error (R44, R48, R327, R329). -/
theorem issue_cases (i : Instr) (s : State) (k : State → Out) :
    (∃ c v, decodeCause i s = some (c, v) ∧ issue i s k = trap c v s) ∨
    (decodeCause i s = none ∧
      ((gate s = .go ∧ s.slot.readsFlaw i = false ∧ issue i s k = k s) ∨
        (gate s = .go ∧ s.slot.readsFlaw i = true ∧ issue i s k = trap Cause.errorConsumed 0 s) ∨
        (gate s = .wait ∧ issue i s k = stall s) ∨
        (∃ ta, gate s = .poisoned ta ∧ issue i s k = trap Cause.errorConsumed ta s) ∨
        (∃ ta, gate s = .detected ta ∧ issue i s k = trap Cause.errorConsumed ta
          { s with core := { s.core with detected := s.core.detected.filter fun d => d.1 ≠ s.sel } }))) := by
  unfold issue
  cases hd : decodeCause i s with
  | some p => exact .inl ⟨p.1, p.2, rfl, rfl⟩
  | none =>
    refine .inr ⟨rfl, ?_⟩
    cases hg : gate s with
    | go =>
      cases hf : s.slot.readsFlaw i with
      | false => exact .inl ⟨rfl, rfl, by simp⟩
      | true => exact .inr (.inl ⟨rfl, rfl, by simp⟩)
    | wait => exact .inr (.inr (.inl ⟨rfl, rfl⟩))
    | poisoned ta => exact .inr (.inr (.inr (.inl ⟨ta, rfl, rfl⟩)))
    | detected ta => exact .inr (.inr (.inr (.inr ⟨ta, rfl, rfl⟩)))

theorem writeG_go {i : Instr} {s : State} (h : Issues i s) (len : Nat) (d : GReg) (x : State → Word) :
    writeG len i d x s = .next ((s.setG d (x s)).retired len) := issue_go h _

theorem lateG_go {i : Instr} {s : State} (h : Issues i s) (la : BitVec 4) (d : GReg) (x : State → Word) :
    lateG i la d x s = .next ((s.addResult d (.ready (x s))).opened 4 d la) := issue_go h _

theorem branch_go {i : Instr} {s : State} (h : Issues i s) (len : Nat) (ofs : Word) (c : State → Bool) :
    branch len i ofs c s = .next (if c s then s.jumped (s.slot.pc + ofs) else s.retired len) := by
  rw [branch, issue_go h]; split <;> rfl

end Sys2Proof.Machine
end

