-- ==== Sys2Proof/Laws/Memory.lean ====
section
/-! SUPPORT. Tables, memories and cores: reading back what was written, what a write leaves alone, and that every memory
operation keeps the canonical form. -/

namespace Sys2Proof.Machine

/-! ### Tables -/

theorem tabGet_tabPut {α : Type} (t : Tab α) (k j : Nat) (x : α) :
    tabGet (tabPut t k x) j = if j = k then some x else tabGet t j := by
  induction t with
  | nil => simp only [tabPut, tabGet, eq_comm]
  | cons p t ih =>
    obtain ⟨i, y⟩ := p
    simp only [tabPut]
    by_cases h1 : k < i
    · by_cases h : j = k
      · simp [h1, tabGet, h]
      · simp [h1, tabGet, h, Ne.symm h]
    · by_cases h2 : k = i
      · subst h2; by_cases h : j = k
        · simp [tabGet, h]
        · simp [tabGet, h, Ne.symm h]
      · by_cases h3 : i = j
        · subst h3; simp [h1, h2, tabGet, Ne.symm h2]
        · simp [h1, h2, h3, tabGet, ih]

theorem tabGetD_tabPut {α : Type} (t : Tab α) (k j : Nat) (x d : α) :
    tabGetD (tabPut t k x) j d = if j = k then x else tabGetD t j d := by
  unfold tabGetD; rw [tabGet_tabPut]; split <;> rfl

theorem tabGet_tabDel_ne {α : Type} (t : Tab α) (k j : Nat) (h : j ≠ k) : tabGet (tabDel t k) j = tabGet t j := by
  induction t with
  | nil => rfl
  | cons p t ih =>
    obtain ⟨i, y⟩ := p
    simp only [tabDel]
    by_cases h1 : i = k
    · subst h1; simp [tabGet, Ne.symm h]
    · simp [h1, tabGet, ih]

/-- What holds of every value of a table holds after one more is written. -/
theorem all_tabPut {α : Type} (f : Nat × α → Bool) (t : Tab α) (k : Nat) (x : α) (ht : t.all f = true) (hx : f (k, x) = true) :
    (tabPut t k x).all f = true := by
  induction t with
  | nil => simp [tabPut, hx]
  | cons p t ih =>
    obtain ⟨i, y⟩ := p
    simp only [List.all_cons, Bool.and_eq_true] at ht
    simp only [tabPut]; split
    · simp only [List.all_cons, hx, ht, Bool.and_self]
    · split <;> simp only [List.all_cons, hx, ht, ih ht.2, Bool.and_self]

theorem all_tabDel {α : Type} (f : Nat × α → Bool) (t : Tab α) (k : Nat) (ht : t.all f = true) : (tabDel t k).all f = true := by
  induction t with
  | nil => rfl
  | cons p t ih =>
    obtain ⟨i, y⟩ := p
    simp only [List.all_cons, Bool.and_eq_true] at ht
    simp only [tabDel]; split
    · exact ht.2
    · simp only [List.all_cons, ht, ih ht.2, Bool.and_self]

theorem all_tabGet {α : Type} (f : Nat × α → Bool) (t : Tab α) (k : Nat) (x : α) (ht : t.all f = true) (h : tabGet t k = some x) :
    f (k, x) = true := by
  induction t with
  | nil => simp [tabGet] at h
  | cons p t ih =>
    obtain ⟨i, y⟩ := p
    simp only [List.all_cons, Bool.and_eq_true] at ht
    simp only [tabGet] at h
    split at h
    · next e => cases h; subst e; exact ht.1
    · exact ih ht.2 h

/-! ### Memory: one byte -/

theorem memWfFrom_mono {lo lo' : Nat} {m : Mem} (h : lo ≤ lo') (w : memWfFrom lo' m = true) : memWfFrom lo m = true := by
  cases m with
  | nil => rfl
  | cons p m => obtain ⟨a, x⟩ := p; simp only [memWfFrom, Bool.and_eq_true, decide_eq_true_eq] at *; exact ⟨⟨by omega, w.1.2⟩, w.2⟩

/-- Below its bound a memory lists nothing. -/
theorem memRead_below {lo : Nat} {m : Mem} (w : memWfFrom lo m = true) {a : Nat} (h : a < lo) : memRead m a = Mem.unlisted := by
  induction m generalizing lo with
  | nil => rfl
  | cons p m ih =>
    obtain ⟨b, x⟩ := p
    simp only [memWfFrom, Bool.and_eq_true, decide_eq_true_eq] at w
    rw [memRead, if_neg (by omega)]
    exact ih w.2 (by omega)

theorem memWrite_wfFrom {lo : Nat} {m : Mem} (w : memWfFrom lo m = true) (a : Nat) (x : Byte) (h : lo ≤ a) :
    memWfFrom lo (memWrite m a x) = true := by
  induction m generalizing lo with
  | nil => simp only [memWrite]; split <;> simp_all [memWfFrom]
  | cons p m ih =>
    obtain ⟨b, y⟩ := p
    simp only [memWfFrom, Bool.and_eq_true, decide_eq_true_eq] at w
    simp only [memWrite]
    split
    · split <;> simp_all [memWfFrom]
    · split
      · split
        · exact memWfFrom_mono (by omega) w.2
        · simp_all [memWfFrom]
      · simp only [memWfFrom, Bool.and_eq_true, decide_eq_true_eq]
        exact ⟨w.1, ih w.2 (by omega)⟩

theorem memRead_memWrite_from {lo : Nat} {m : Mem} (w : memWfFrom lo m = true) (a b : Nat) (x : Byte) :
    memRead (memWrite m a x) b = if b = a then x else memRead m b := by
  induction m generalizing lo with
  | nil =>
    simp only [memWrite]; by_cases h : b = a
    · subst h; split <;> simp_all [memRead]
    · split <;> simp_all [memRead, Ne.symm h]
  | cons p m ih =>
    obtain ⟨c, y⟩ := p
    simp only [memWfFrom, Bool.and_eq_true, decide_eq_true_eq] at w
    simp only [memWrite]
    by_cases h1 : a < c
    · rw [if_pos h1]
      by_cases h : b = a
      · subst h; split
        · next e => rw [memRead, if_neg (by omega), memRead_below w.2 (by omega), e]; simp
        · simp [memRead]
      · simp only [if_neg h]; split
        · rfl
        · rw [memRead, if_neg (Ne.symm h)]
    · rw [if_neg h1]
      by_cases h2 : a = c
      · subst h2; rw [if_pos rfl]
        by_cases h : b = a
        · subst h; split
          · next e => rw [memRead_below w.2 (by omega), e]; simp
          · simp [memRead]
        · simp only [if_neg h]; split <;> simp [memRead, Ne.symm h]
      · rw [if_neg h2, memRead, memRead, ih w.2]
        by_cases h : c = b
        · subst h; rw [if_pos rfl, if_pos rfl, if_neg (Ne.symm h2)]
        · rw [if_neg h, if_neg h]

/-- A byte reads as it was written, and every other byte as before. -/
theorem memRead_memWrite {m : Mem} (w : Memory.wf m = true) (a b : Nat) (x : Byte) :
    memRead (memWrite m a x) b = if b = a then x else memRead m b := memRead_memWrite_from w a b x

theorem memWrite_wf {m : Mem} (w : Memory.wf m = true) (a : Nat) (x : Byte) : Memory.wf (memWrite m a x) = true :=
  memWrite_wfFrom w a x (Nat.zero_le _)

/-! ### Memory: several bytes -/

theorem memPut_wf {m : Mem} (w : Memory.wf m = true) (a : Nat) (l : List Byte) : Memory.wf (memPut m a l) = true := by
  induction l generalizing m a with
  | nil => exact w
  | cons x l ih => exact ih (memWrite_wf w a x) _

theorem memPutEnabled_wf {m : Mem} (w : Memory.wf m = true) (a : Nat) (l : List (Option Byte)) :
    Memory.wf (memPutEnabled m a l) = true := by
  induction l generalizing m a with
  | nil => exact w
  | cons x l ih =>
    cases x with
    | none => exact ih w _
    | some x => exact ih (memWrite_wf w a x) _

theorem memPutDword_wf {m : Mem} (w : Memory.wf m = true) (a : Nat) (x : Word) : Memory.wf (memPutDword m a x) = true :=
  memPut_wf w a _

/-- An enabled byte of a write reads as written; a byte that is not enabled, or beside the write, as before. -/
theorem memRead_memPutEnabled {m : Mem} (w : Memory.wf m = true) (a b : Nat) (l : List (Option Byte)) :
    memRead (memPutEnabled m a l) b = if a ≤ b then (match l[b - a]? with | some (some x) => x | _ => memRead m b) else memRead m b := by
  induction l generalizing m a with
  | nil => simp [memPutEnabled]
  | cons o l ih =>
    have key : ∀ m', Memory.wf m' = true → (∀ b, b ≠ a → memRead m' b = memRead m b) →
        memRead (memPutEnabled m' (a + 1) l) b = if a ≤ b then (if b = a then memRead m' b else
          (match (o :: l)[b - a]? with | some (some x) => x | _ => memRead m b)) else memRead m b := by
      intro m' w' hm
      rw [ih w']
      by_cases h : a + 1 ≤ b
      · obtain ⟨k, rfl⟩ : ∃ k, b = a + 1 + k := ⟨b - (a + 1), by omega⟩
        rw [if_pos h, if_pos (by omega), if_neg (by omega), hm _ (by omega)]
        have e1 : a + 1 + k - (a + 1) = k := by omega
        have e2 : a + 1 + k - a = k + 1 := by omega
        rw [e1, e2]; simp
      · by_cases e : b = a
        · subst e; simp
        · rw [if_neg h, if_neg (by omega), hm _ e]
    cases o with
    | none =>
      rw [memPutEnabled, key m w (fun _ _ => rfl)]
      by_cases e : b = a
      · subst e; simp
      · simp [e]
    | some x =>
      rw [memPutEnabled, key _ (memWrite_wf w a x) (fun b hb => by rw [memRead_memWrite w, if_neg hb])]
      by_cases e : b = a
      · subst e; simp [memRead_memWrite w]
      · simp [e]

theorem memPut_eq_enabled (m : Mem) (a : Nat) (l : List Byte) : memPut m a l = memPutEnabled m a (l.map some) := by
  induction l generalizing m a with
  | nil => rfl
  | cons x l ih => exact ih _ _

theorem memRead_memPut {m : Mem} (w : Memory.wf m = true) (a b : Nat) (l : List Byte) :
    memRead (memPut m a l) b = if a ≤ b then (match l[b - a]? with | some x => x | none => memRead m b) else memRead m b := by
  rw [memPut_eq_enabled, memRead_memPutEnabled w]
  simp only [List.getElem?_map]
  cases l[b - a]? <;> rfl

/-- A write changes no byte outside its own. -/
theorem memRead_memPut_outside {m : Mem} (w : Memory.wf m = true) (a b : Nat) (l : List Byte) (h : b < a ∨ a + l.length ≤ b) :
    memRead (memPut m a l) b = memRead m b := by
  rw [memRead_memPut w]
  split
  · have : l[b - a]? = none := List.getElem?_eq_none (by omega)
    simp [this]
  · rfl

theorem memBytes_memPut {m : Mem} (w : Memory.wf m = true) (a : Nat) (l : List Byte) : memBytes (memPut m a l) a l.length = l := by
  apply List.ext_getElem
  · simp [memBytes]
  · intro i h1 h2
    simp only [memBytes, List.getElem_map, List.getElem_range, memRead_memPut w]
    rw [if_pos (by omega)]
    have : a + i - a = i := by omega
    rw [this, List.getElem?_eq_getElem h2]

/-! ### Numbers in memory -/

@[simp] theorem natBytes_length (n x : Nat) : (natBytes n x).length = n := by
  induction n generalizing x with
  | zero => rfl
  | succ n ih => simp [natBytes, ih]

theorem leNat_natBytes (n x : Nat) : leNat (natBytes n x) = x % 2 ^ (8 * n) := by
  induction n generalizing x with
  | zero => simp [natBytes, leNat, Nat.mod_one]
  | succ n ih =>
    simp only [natBytes, leNat, ih, BitVec.toNat_ofNat]
    rw [show 8 * (n + 1) = 8 + 8 * n from by omega, pow_add, Nat.mod_mul]
    norm_num

theorem leNat_lt (l : List Byte) : leNat l < 2 ^ (8 * l.length) := by
  induction l with
  | nil => simp [leNat]
  | cons b l ih =>
    simp only [leNat, List.length_cons]
    rw [show 8 * (l.length + 1) = 8 + 8 * l.length from by omega, pow_add]
    have := b.isLt
    omega

/-- A dword reads as it was written. -/
theorem memDword_memPutDword {m : Mem} (w : Memory.wf m = true) (a : Nat) (x : Word) : memDword (memPutDword m a x) a = x := by
  have h := memBytes_memPut w a (natBytes 8 x.toNat)
  rw [natBytes_length] at h
  rw [memDword, memPutDword, h, leNat_natBytes]
  apply BitVec.eq_of_toNat_eq
  simpa using x.isLt

/-! ### Cores -/

theorem State.coreOf_setCore (s : State) (i j : Nat) (c : Core) (h : s.core.id = i → c.id = i) :
    (s.setCore i c).coreOf j = if j = i then c else s.coreOf j := by
  unfold State.setCore State.coreOf
  by_cases e : s.core.id = i
  · rw [if_pos e]
    have hc := h e
    by_cases k : j = i
    · subst k; simp [hc]
    · simp [hc, e, Ne.symm k, k]
  · rw [if_neg e]
    by_cases k : j = i
    · subst k; simp [e, tabGetD_tabPut]
    · simp [k, tabGetD_tabPut]

theorem State.coreOf_onCore (s : State) (i j : Nat) (f : Core → Core) (h : ∀ c : Core, (f c).id = c.id) :
    (s.onCore i f).coreOf j = if j = i then f (s.coreOf i) else s.coreOf j := by
  unfold State.onCore
  refine State.coreOf_setCore _ _ _ _ (fun e => ?_)
  rw [h, State.coreOf, if_pos e, e]

/-- Changing the slot in focus changes no other core. -/
theorem State.coreOf_mapSlot (s : State) (f : Slot → Slot) (j : Nat) (h : j ≠ s.core.id) : (s.mapSlot f).coreOf j = s.coreOf j := by
  have e : (s.core.setSlot s.sel (f s.slot)).id = s.core.id := by cases s.sel <;> rfl
  show (if (s.core.setSlot s.sel (f s.slot)).id = j then _ else _) = _
  rw [e, if_neg (Ne.symm h), State.coreOf, if_neg (Ne.symm h)]; rfl

theorem State.coreOf_mapSlot_sram (s : State) (f : Slot → Slot) (j : Nat) : ((s.mapSlot f).coreOf j).sram = (s.coreOf j).sram := by
  by_cases h : j = s.core.id
  · subst h
    have e : (s.core.setSlot s.sel (f s.slot)).id = s.core.id := by cases s.sel <;> rfl
    show (if (s.core.setSlot s.sel (f s.slot)).id = s.core.id then s.core.setSlot s.sel (f s.slot) else _).sram = _
    rw [e, if_pos rfl, State.coreOf, if_pos rfl]; cases s.sel <;> rfl
  · rw [State.coreOf_mapSlot s f j h]

theorem SameMemory.refl (s : State) : SameMemory s s := ⟨fun _ => rfl, rfl, rfl⟩

theorem SameMemory.trans {a b c : State} (h : SameMemory a b) (k : SameMemory b c) : SameMemory a c :=
  ⟨fun i => (k.1 i).trans (h.1 i), k.2.1.trans h.2.1, k.2.2.trans h.2.2⟩

theorem sameMemory_mapSlot (s : State) (f : Slot → Slot) : SameMemory s (s.mapSlot f) :=
  ⟨State.coreOf_mapSlot_sram s f, rfl, rfl⟩

theorem sameMemory_retired (s : State) (n : Nat) : SameMemory s (s.retired n) := sameMemory_mapSlot _ _
theorem sameMemory_jumped (s : State) (p : Word) : SameMemory s (s.jumped p) := sameMemory_mapSlot _ _
theorem sameMemory_opened (s : State) (n : Nat) (r : GReg) (la : BitVec 4) : SameMemory s (s.opened n r la) := sameMemory_mapSlot _ _
theorem sameMemory_setE (s : State) (r : EReg) (x : Word) : SameMemory s (s.setE r x) := sameMemory_mapSlot _ _
theorem sameMemory_setW (s : State) (r : WReg) (x : WVal) : SameMemory s (s.setW r x) := sameMemory_mapSlot _ _
theorem sameMemory_setG (s : State) (r : GReg) (x : Word) : SameMemory s (s.setG r x) := by
  unfold State.setG; split
  · exact SameMemory.refl s
  · exact sameMemory_mapSlot _ _

/-! ### The canonical form of a state -/

theorem Core.reset_ok (i : Nat) : (Core.reset i).ok i = true := by simp [Core.ok, Core.reset, Memory.wf, memWfFrom]

/-- A state in canonical form has every core under its number, and its pool in canonical form. -/
theorem State.ok_coreOf {s : State} (h : s.ok = true) (i : Nat) : (s.coreOf i).ok i = true := by
  simp only [State.ok, Bool.and_eq_true] at h
  unfold State.coreOf
  split
  · next e => rw [← e]; exact h.1.1.1.1
  · unfold tabGetD
    cases g : tabGet s.others i with
    | none => exact Core.reset_ok i
    | some c => exact all_tabGet (fun c : Nat × Core => c.2.ok c.1) _ _ _ h.1.1.1.2 g

theorem State.ok_setCore {s : State} (h : s.ok = true) (i : Nat) (c : Core) (hc : c.ok i = true) : (s.setCore i c).ok = true := by
  simp only [State.ok, Bool.and_eq_true] at h ⊢
  unfold State.setCore; split
  · next e =>
    have hid : c.id = i := by simp only [Core.ok, Bool.and_eq_true, decide_eq_true_eq] at hc; exact hc.1
    exact ⟨⟨⟨⟨by rw [hid]; exact hc, h.1.1.1.2⟩, h.1.1.2⟩, h.1.2⟩, h.2⟩
  · exact ⟨⟨⟨⟨h.1.1.1.1, all_tabPut (fun c : Nat × Core => c.2.ok c.1) _ _ _ h.1.1.1.2 hc⟩, h.1.1.2⟩, h.1.2⟩, h.2⟩

theorem State.ok_onCore {s : State} (h : s.ok = true) (i : Nat) (f : Core → Core) (hf : ∀ c, c.ok i = true → (f c).ok i = true) :
    (s.onCore i f).ok = true := State.ok_setCore h i _ (hf _ (State.ok_coreOf h i))

theorem Core.ok_setSlot (c : Core) (i : Nat) (q : SlotSel) (t : Slot) : (c.setSlot q t).ok i = c.ok i := by cases q <;> rfl

theorem State.ok_mapSlot {s : State} (f : Slot → Slot) : (s.mapSlot f).ok = s.ok := by
  unfold State.ok State.mapSlot State.setSlot
  have e : (s.core.setSlot s.sel (f s.slot)).id = s.core.id := by cases s.sel <;> rfl
  simp only [e, Core.ok_setSlot]

theorem State.ok_retired {s : State} (n : Nat) : (s.retired n).ok = s.ok := State.ok_mapSlot _
theorem State.ok_jumped {s : State} (p : Word) : (s.jumped p).ok = s.ok := State.ok_mapSlot _
theorem State.ok_opened {s : State} (n : Nat) (r : GReg) (la : BitVec 4) : (s.opened n r la).ok = s.ok := State.ok_mapSlot _
theorem State.ok_setE {s : State} (r : EReg) (x : Word) : (s.setE r x).ok = s.ok := State.ok_mapSlot _
theorem State.ok_setW {s : State} (r : WReg) (x : WVal) : (s.setW r x).ok = s.ok := State.ok_mapSlot _
theorem State.ok_setG {s : State} (r : GReg) (x : Word) : (s.setG r x).ok = s.ok := by
  unfold State.setG; split
  · rfl
  · exact State.ok_mapSlot _

theorem State.ok_focusOn {s : State} (h : s.ok = true) (i : Nat) (q : SlotSel) : (s.focusOn i q).ok = true := by
  unfold State.focusOn; split
  · exact h
  · have hc := State.ok_coreOf h i
    have hid : (s.coreOf i).id = i := by simp only [Core.ok, Bool.and_eq_true, decide_eq_true_eq] at hc; exact hc.1
    simp only [State.ok, Bool.and_eq_true] at h ⊢
    refine ⟨⟨⟨⟨by rw [hid]; exact hc, ?_⟩, h.1.1.2⟩, h.1.2⟩, h.2⟩
    exact all_tabPut (fun c : Nat × Core => c.2.ok c.1) _ _ _ (all_tabDel (fun c : Nat × Core => c.2.ok c.1) _ _ h.1.1.1.2) h.1.1.1.1

theorem State.ok_putAt {s : State} (h : s.ok = true) (p : Place) (l : List (Option Byte)) : (s.putAt p l).ok = true := by
  cases p with
  | sram c o =>
    refine State.ok_onCore h c _ (fun k hk => ?_)
    simp only [Core.ok, Bool.and_eq_true] at hk ⊢
    exact ⟨hk.1, memPutEnabled_wf hk.2 _ _⟩
  | hbm a =>
    simp only [State.ok, Bool.and_eq_true] at h ⊢
    exact ⟨⟨⟨h.1.1.1, memPutEnabled_wf h.1.1.2 _ _⟩, h.1.2⟩, h.2⟩
  | host q a =>
    simp only [State.ok, Bool.and_eq_true] at h ⊢
    exact ⟨⟨⟨h.1.1.1, h.1.1.2⟩, memPutEnabled_wf h.1.2 _ _⟩, h.2⟩
  | peer d m o => exact h

theorem State.ok_applyOp {s : State} (h : s.ok = true) (p : Place) (o : StoreOp) : (s.applyOp p o).1.ok = true := by
  cases o <;> exact State.ok_putAt h _ _

end Sys2Proof.Machine
end

