-- ==== Sys2Proof/Laws/State.lean ====
section
/-! SUPPORT. What each shared update of the state leaves as it was and what it writes: one lemma for each field, so that no proof
unfolds a record update. -/

namespace Sys2Proof.Machine

/-! ### Slots of a core -/

@[simp] theorem Core.setSlot_slot (c : Core) (q : SlotSel) (t : Slot) : (c.setSlot q t).slot q = t := by cases q <;> rfl
theorem Core.setSlot_slot_ne (c : Core) (q r : SlotSel) (t : Slot) (h : r ≠ q) : (c.setSlot q t).slot r = c.slot r := by
  cases q <;> cases r <;> first | rfl | exact absurd rfl h
@[simp] theorem Core.setSlot_id (c : Core) (q : SlotSel) (t : Slot) : (c.setSlot q t).id = c.id := by cases q <;> rfl
@[simp] theorem Core.setSlot_sram (c : Core) (q : SlotSel) (t : Slot) : (c.setSlot q t).sram = c.sram := by cases q <;> rfl
@[simp] theorem Core.setSlot_poison (c : Core) (q : SlotSel) (t : Slot) : (c.setSlot q t).poison = c.poison := by cases q <;> rfl
@[simp] theorem Core.setSlot_feat (c : Core) (q : SlotSel) (t : Slot) : (c.setSlot q t).feat = c.feat := by cases q <;> rfl
@[simp] theorem Core.setSlot_entryFeat (c : Core) (q : SlotSel) (t : Slot) : (c.setSlot q t).entryFeat = c.entryFeat := by cases q <;> rfl
@[simp] theorem Core.setSlot_hw (c : Core) (q : SlotSel) (t : Slot) : (c.setSlot q t).hw = c.hw := by cases q <;> rfl
@[simp] theorem Core.setSlot_partw (c : Core) (q : SlotSel) (t : Slot) : (c.setSlot q t).partw = c.partw := by cases q <;> rfl
@[simp] theorem Core.setSlot_exb (c : Core) (q : SlotSel) (t : Slot) : (c.setSlot q t).exb = c.exb := by cases q <;> rfl
@[simp] theorem Core.setSlot_codebase (c : Core) (q : SlotSel) (t : Slot) : (c.setSlot q t).codebase = c.codebase := by cases q <;> rfl
@[simp] theorem Core.setSlot_fetchbase (c : Core) (q : SlotSel) (t : Slot) : (c.setSlot q t).fetchbase = c.fetchbase := by cases q <;> rfl
@[simp] theorem Core.setSlot_ovld (c : Core) (q : SlotSel) (t : Slot) : (c.setSlot q t).ovld = c.ovld := by cases q <;> rfl
@[simp] theorem Core.setSlot_v (c : Core) (q : SlotSel) (t : Slot) : (c.setSlot q t).v = c.v := by cases q <;> rfl
@[simp] theorem Core.setSlot_k (c : Core) (q : SlotSel) (t : Slot) : (c.setSlot q t).k = c.k := by cases q <;> rfl
@[simp] theorem Core.setSlot_flaws (c : Core) (q : SlotSel) (t : Slot) : (c.setSlot q t).flaws = c.flaws := by cases q <;> rfl
@[simp] theorem Core.setSlot_accd (c : Core) (q : SlotSel) (t : Slot) : (c.setSlot q t).accd = c.accd := by cases q <;> rfl
@[simp] theorem Core.setSlot_mshape (c : Core) (q : SlotSel) (t : Slot) : (c.setSlot q t).mshape = c.mshape := by cases q <;> rfl
@[simp] theorem Core.setSlot_net (c : Core) (q : SlotSel) (t : Slot) : (c.setSlot q t).net = c.net := by cases q <;> rfl
@[simp] theorem Core.setSlot_matrix (c : Core) (q : SlotSel) (t : Slot) : (c.setSlot q t).matrix = c.matrix := by cases q <;> rfl
@[simp] theorem Core.setSlot_mrun (c : Core) (q : SlotSel) (t : Slot) : (c.setSlot q t).mrun = c.mrun := by cases q <;> rfl
@[simp] theorem Core.setSlot_vector (c : Core) (q : SlotSel) (t : Slot) : (c.setSlot q t).vector = c.vector := by cases q <;> rfl
@[simp] theorem Core.setSlot_copy (c : Core) (q : SlotSel) (t : Slot) : (c.setSlot q t).copy = c.copy := by cases q <;> rfl
@[simp] theorem Core.setSlot_tids (c : Core) (q : SlotSel) (t : Slot) : (c.setSlot q t).tids = c.tids := by cases q <;> rfl
@[simp] theorem Core.setSlot_chans (c : Core) (q : SlotSel) (t : Slot) : (c.setSlot q t).chans = c.chans := by cases q <;> rfl
@[simp] theorem Core.setSlot_regions (c : Core) (q : SlotSel) (t : Slot) : (c.setSlot q t).regions = c.regions := by cases q <;> rfl
@[simp] theorem Core.setSlot_dataEnd (c : Core) (q : SlotSel) (t : Slot) : (c.setSlot q t).dataEnd = c.dataEnd := by cases q <;> rfl
@[simp] theorem Core.setSlot_dataOfs (c : Core) (q : SlotSel) (t : Slot) : (c.setSlot q t).dataOfs = c.dataOfs := by cases q <;> rfl
@[simp] theorem Core.setSlot_program (c : Core) (q : SlotSel) (t : Slot) : (c.setSlot q t).program = c.program := by cases q <;> rfl
@[simp] theorem Core.setSlot_tlb (c : Core) (q : SlotSel) (t : Slot) : (c.setSlot q t).tlb = c.tlb := by cases q <;> rfl
@[simp] theorem Core.setSlot_detected (c : Core) (q : SlotSel) (t : Slot) : (c.setSlot q t).detected = c.detected := by cases q <;> rfl
@[simp] theorem Core.setSlot_alloc (c : Core) (q : SlotSel) (t : Slot) : (c.setSlot q t).alloc = c.alloc := by cases q <;> rfl
@[simp] theorem Core.setSlot_lastVf (c : Core) (q : SlotSel) (t : Slot) : (c.setSlot q t).lastVf = c.lastVf := by cases q <;> rfl
@[simp] theorem Core.setSlot_lastCtx (c : Core) (q : SlotSel) (t : Slot) : (c.setSlot q t).lastCtx = c.lastCtx := by cases q <;> rfl
@[simp] theorem Core.setSlot_reserved (c : Core) (q : SlotSel) (t : Slot) : (c.setSlot q t).reserved = c.reserved := by cases q <;> rfl
@[simp] theorem Core.setSlot_heldBefore (c : Core) (q : SlotSel) (t : Slot) : (c.setSlot q t).heldBefore = c.heldBefore := by cases q <;> rfl
@[simp] theorem Core.setSlot_log (c : Core) (q : SlotSel) (t : Slot) : (c.setSlot q t).log = c.log := by cases q <;> rfl

/-! ### The slot in focus: mapSlot -/

@[simp] theorem State.mapSlot_slot (s : State) (f : Slot → Slot) : (s.mapSlot f).slot = f s.slot := Core.setSlot_slot _ _ _
@[simp] theorem State.mapSlot_others (s : State) (f : Slot → Slot) : (s.mapSlot f).others = s.others := rfl
@[simp] theorem State.mapSlot_sel (s : State) (f : Slot → Slot) : (s.mapSlot f).sel = s.sel := rfl
@[simp] theorem State.mapSlot_device (s : State) (f : Slot → Slot) : (s.mapSlot f).device = s.device := rfl
@[simp] theorem State.mapSlot_epoch (s : State) (f : Slot → Slot) : (s.mapSlot f).epoch = s.epoch := rfl
@[simp] theorem State.mapSlot_vt (s : State) (f : Slot → Slot) : (s.mapSlot f).vt = s.vt := rfl
@[simp] theorem State.mapSlot_hbm (s : State) (f : Slot → Slot) : (s.mapSlot f).hbm = s.hbm := rfl
@[simp] theorem State.mapSlot_hbmPoison (s : State) (f : Slot → Slot) : (s.mapSlot f).hbmPoison = s.hbmPoison := rfl
@[simp] theorem State.mapSlot_stamps (s : State) (f : Slot → Slot) : (s.mapSlot f).stamps = s.stamps := rfl
@[simp] theorem State.mapSlot_host (s : State) (f : Slot → Slot) : (s.mapSlot f).host = s.host := rfl
@[simp] theorem State.mapSlot_stores (s : State) (f : Slot → Slot) : (s.mapSlot f).stores = s.stores := rfl
@[simp] theorem State.mapSlot_marks (s : State) (f : Slot → Slot) : (s.mapSlot f).marks = s.marks := rfl
@[simp] theorem State.mapSlot_results (s : State) (f : Slot → Slot) : (s.mapSlot f).results = s.results := rfl
@[simp] theorem State.mapSlot_early (s : State) (f : Slot → Slot) : (s.mapSlot f).early = s.early := rfl
@[simp] theorem State.mapSlot_samples (s : State) (f : Slot → Slot) : (s.mapSlot f).samples = s.samples := rfl
@[simp] theorem State.mapSlot_beacons (s : State) (f : Slot → Slot) : (s.mapSlot f).beacons = s.beacons := rfl
@[simp] theorem State.mapSlot_published (s : State) (f : Slot → Slot) : (s.mapSlot f).published = s.published := rfl
@[simp] theorem State.mapSlot_nodes (s : State) (f : Slot → Slot) : (s.mapSlot f).nodes = s.nodes := rfl
@[simp] theorem State.mapSlot_remotes (s : State) (f : Slot → Slot) : (s.mapSlot f).remotes = s.remotes := rfl
@[simp] theorem State.mapSlot_contexts (s : State) (f : Slot → Slot) : (s.mapSlot f).contexts = s.contexts := rfl
@[simp] theorem State.mapSlot_nextNode (s : State) (f : Slot → Slot) : (s.mapSlot f).nextNode = s.nextNode := rfl
@[simp] theorem State.mapSlot_nextVersion (s : State) (f : Slot → Slot) : (s.mapSlot f).nextVersion = s.nextVersion := rfl
@[simp] theorem State.mapSlot_freeFrames (s : State) (f : Slot → Slot) : (s.mapSlot f).freeFrames = s.freeFrames := rfl
@[simp] theorem State.mapSlot_lingering (s : State) (f : Slot → Slot) : (s.mapSlot f).lingering = s.lingering := rfl
@[simp] theorem State.mapSlot_sectorTlb (s : State) (f : Slot → Slot) : (s.mapSlot f).sectorTlb = s.sectorTlb := rfl
@[simp] theorem State.mapSlot_sectorHandles (s : State) (f : Slot → Slot) : (s.mapSlot f).sectorHandles = s.sectorHandles := rfl
@[simp] theorem State.mapSlot_beaconOut (s : State) (f : Slot → Slot) : (s.mapSlot f).beaconOut = s.beaconOut := rfl
@[simp] theorem State.mapSlot_misses (s : State) (f : Slot → Slot) : (s.mapSlot f).misses = s.misses := rfl
@[simp] theorem State.mapSlot_barren (s : State) (f : Slot → Slot) : (s.mapSlot f).barren = s.barren := rfl
@[simp] theorem State.mapSlot_pageCopies (s : State) (f : Slot → Slot) : (s.mapSlot f).pageCopies = s.pageCopies := rfl
@[simp] theorem State.mapSlot_shootdowns (s : State) (f : Slot → Slot) : (s.mapSlot f).shootdowns = s.shootdowns := rfl
@[simp] theorem State.mapSlot_publications (s : State) (f : Slot → Slot) : (s.mapSlot f).publications = s.publications := rfl
@[simp] theorem State.mapSlot_layouts (s : State) (f : Slot → Slot) : (s.mapSlot f).layouts = s.layouts := rfl
@[simp] theorem State.mapSlot_steals (s : State) (f : Slot → Slot) : (s.mapSlot f).steals = s.steals := rfl
@[simp] theorem State.mapSlot_msgs (s : State) (f : Slot → Slot) : (s.mapSlot f).msgs = s.msgs := rfl
@[simp] theorem State.mapSlot_kept (s : State) (f : Slot → Slot) : (s.mapSlot f).kept = s.kept := rfl
@[simp] theorem State.mapSlot_msgMarks (s : State) (f : Slot → Slot) : (s.mapSlot f).msgMarks = s.msgMarks := rfl
@[simp] theorem State.mapSlot_msgSeqs (s : State) (f : Slot → Slot) : (s.mapSlot f).msgSeqs = s.msgSeqs := rfl
@[simp] theorem State.mapSlot_answers (s : State) (f : Slot → Slot) : (s.mapSlot f).answers = s.answers := rfl
@[simp] theorem State.mapSlot_brokenPackets (s : State) (f : Slot → Slot) : (s.mapSlot f).brokenPackets = s.brokenPackets := rfl
@[simp] theorem State.mapSlot_portWork (s : State) (f : Slot → Slot) : (s.mapSlot f).portWork = s.portWork := rfl
@[simp] theorem State.mapSlot_hubWork (s : State) (f : Slot → Slot) : (s.mapSlot f).hubWork = s.hubWork := rfl
@[simp] theorem State.mapSlot_dumpFaults (s : State) (f : Slot → Slot) : (s.mapSlot f).dumpFaults = s.dumpFaults := rfl
@[simp] theorem State.mapSlot_ringCounts (s : State) (f : Slot → Slot) : (s.mapSlot f).ringCounts = s.ringCounts := rfl
@[simp] theorem State.mapSlot_serial (s : State) (f : Slot → Slot) : (s.mapSlot f).serial = s.serial := rfl
@[simp] theorem State.mapSlot_groups (s : State) (f : Slot → Slot) : (s.mapSlot f).groups = s.groups := rfl
@[simp] theorem State.mapSlot_copies (s : State) (f : Slot → Slot) : (s.mapSlot f).copies = s.copies := rfl
@[simp] theorem State.mapSlot_stages (s : State) (f : Slot → Slot) : (s.mapSlot f).stages = s.stages := rfl
@[simp] theorem State.mapSlot_kernels (s : State) (f : Slot → Slot) : (s.mapSlot f).kernels = s.kernels := rfl
@[simp] theorem State.mapSlot_nextKernel (s : State) (f : Slot → Slot) : (s.mapSlot f).nextKernel = s.nextKernel := rfl
@[simp] theorem State.mapSlot_programs (s : State) (f : Slot → Slot) : (s.mapSlot f).programs = s.programs := rfl
@[simp] theorem State.mapSlot_trapRecords (s : State) (f : Slot → Slot) : (s.mapSlot f).trapRecords = s.trapRecords := rfl
@[simp] theorem State.mapSlot_stops (s : State) (f : Slot → Slot) : (s.mapSlot f).stops = s.stops := rfl
@[simp] theorem State.mapSlot_saved (s : State) (f : Slot → Slot) : (s.mapSlot f).saved = s.saved := rfl
@[simp] theorem State.mapSlot_migrations (s : State) (f : Slot → Slot) : (s.mapSlot f).migrations = s.migrations := rfl
@[simp] theorem State.mapSlot_kills (s : State) (f : Slot → Slot) : (s.mapSlot f).kills = s.kills := rfl
@[simp] theorem State.mapSlot_refusals (s : State) (f : Slot → Slot) : (s.mapSlot f).refusals = s.refusals := rfl
@[simp] theorem State.mapSlot_updates (s : State) (f : Slot → Slot) : (s.mapSlot f).updates = s.updates := rfl
@[simp] theorem State.mapSlot_requests (s : State) (f : Slot → Slot) : (s.mapSlot f).requests = s.requests := rfl
@[simp] theorem State.mapSlot_muted (s : State) (f : Slot → Slot) : (s.mapSlot f).muted = s.muted := rfl
@[simp] theorem State.mapSlot_events (s : State) (f : Slot → Slot) : (s.mapSlot f).events = s.events := rfl
@[simp] theorem State.mapSlot_pifo (s : State) (f : Slot → Slot) : (s.mapSlot f).pifo = s.pifo := rfl
@[simp] theorem State.mapSlot_queues (s : State) (f : Slot → Slot) : (s.mapSlot f).queues = s.queues := rfl
@[simp] theorem State.mapSlot_rank (s : State) (f : Slot → Slot) : (s.mapSlot f).rank = s.rank := rfl
@[simp] theorem State.mapSlot_dispatch (s : State) (f : Slot → Slot) : (s.mapSlot f).dispatch = s.dispatch := rfl
@[simp] theorem State.mapSlot_scans (s : State) (f : Slot → Slot) : (s.mapSlot f).scans = s.scans := rfl
@[simp] theorem State.mapSlot_links (s : State) (f : Slot → Slot) : (s.mapSlot f).links = s.links := rfl
@[simp] theorem State.mapSlot_jobs (s : State) (f : Slot → Slot) : (s.mapSlot f).jobs = s.jobs := rfl
@[simp] theorem State.mapSlot_routes (s : State) (f : Slot → Slot) : (s.mapSlot f).routes = s.routes := rfl
@[simp] theorem State.mapSlot_portSeqs (s : State) (f : Slot → Slot) : (s.mapSlot f).portSeqs = s.portSeqs := rfl
@[simp] theorem State.mapSlot_vfRequests (s : State) (f : Slot → Slot) : (s.mapSlot f).vfRequests = s.vfRequests := rfl
@[simp] theorem State.mapSlot_faultsServed (s : State) (f : Slot → Slot) : (s.mapSlot f).faultsServed = s.faultsServed := rfl
@[simp] theorem State.mapSlot_faultsStored (s : State) (f : Slot → Slot) : (s.mapSlot f).faultsStored = s.faultsStored := rfl
@[simp] theorem State.mapSlot_snapshots (s : State) (f : Slot → Slot) : (s.mapSlot f).snapshots = s.snapshots := rfl
@[simp] theorem State.mapSlot_latches (s : State) (f : Slot → Slot) : (s.mapSlot f).latches = s.latches := rfl
@[simp] theorem State.mapSlot_snap (s : State) (f : Slot → Slot) : (s.mapSlot f).snap = s.snap := rfl
@[simp] theorem State.mapSlot_skipped (s : State) (f : Slot → Slot) : (s.mapSlot f).skipped = s.skipped := rfl
@[simp] theorem State.mapSlot_rebinding (s : State) (f : Slot → Slot) : (s.mapSlot f).rebinding = s.rebinding := rfl
@[simp] theorem State.mapSlot_pointCommits (s : State) (f : Slot → Slot) : (s.mapSlot f).pointCommits = s.pointCommits := rfl
@[simp] theorem State.mapSlot_portErrors (s : State) (f : Slot → Slot) : (s.mapSlot f).portErrors = s.portErrors := rfl
@[simp] theorem State.mapSlot_throttled (s : State) (f : Slot → Slot) : (s.mapSlot f).throttled = s.throttled := rfl
@[simp] theorem State.mapSlot_bringUp (s : State) (f : Slot → Slot) : (s.mapSlot f).bringUp = s.bringUp := rfl
@[simp] theorem State.mapSlot_failCode (s : State) (f : Slot → Slot) : (s.mapSlot f).failCode = s.failCode := rfl
@[simp] theorem State.mapSlot_fuse (s : State) (f : Slot → Slot) : (s.mapSlot f).fuse = s.fuse := rfl
@[simp] theorem State.mapSlot_imageVersion (s : State) (f : Slot → Slot) : (s.mapSlot f).imageVersion = s.imageVersion := rfl
@[simp] theorem State.mapSlot_badSlices (s : State) (f : Slot → Slot) : (s.mapSlot f).badSlices = s.badSlices := rfl
@[simp] theorem State.mapSlot_deadDies (s : State) (f : Slot → Slot) : (s.mapSlot f).deadDies = s.deadDies := rfl
@[simp] theorem State.mapSlot_portsDown (s : State) (f : Slot → Slot) : (s.mapSlot f).portsDown = s.portsDown := rfl
@[simp] theorem State.mapSlot_nonce (s : State) (f : Slot → Slot) : (s.mapSlot f).nonce = s.nonce := rfl
@[simp] theorem State.mapSlot_guest (s : State) (f : Slot → Slot) : (s.mapSlot f).guest = s.guest := rfl
@[simp] theorem State.mapSlot_sliceVt (s : State) (f : Slot → Slot) : (s.mapSlot f).sliceVt = s.sliceVt := rfl
@[simp] theorem State.mapSlot_agenda (s : State) (f : Slot → Slot) : (s.mapSlot f).agenda = s.agenda := rfl
@[simp] theorem State.mapSlot_tick (s : State) (f : Slot → Slot) : (s.mapSlot f).tick = s.tick := rfl
@[simp] theorem State.mapSlot_turn (s : State) (f : Slot → Slot) : (s.mapSlot f).turn = s.turn := rfl
@[simp] theorem State.mapSlot_ir (s : State) (f : Slot → Slot) : (s.mapSlot f).ir = s.ir := rfl
@[simp] theorem State.mapSlot_stalled (s : State) (f : Slot → Slot) : (s.mapSlot f).stalled = s.stalled := rfl
@[simp] theorem State.mapSlot_core_id (s : State) (f : Slot → Slot) : (s.mapSlot f).core.id = s.core.id := Core.setSlot_id _ _ _
@[simp] theorem State.mapSlot_core_sram (s : State) (f : Slot → Slot) : (s.mapSlot f).core.sram = s.core.sram := Core.setSlot_sram _ _ _
@[simp] theorem State.mapSlot_core_poison (s : State) (f : Slot → Slot) : (s.mapSlot f).core.poison = s.core.poison := Core.setSlot_poison _ _ _
@[simp] theorem State.mapSlot_core_feat (s : State) (f : Slot → Slot) : (s.mapSlot f).core.feat = s.core.feat := Core.setSlot_feat _ _ _
@[simp] theorem State.mapSlot_core_entryFeat (s : State) (f : Slot → Slot) : (s.mapSlot f).core.entryFeat = s.core.entryFeat := Core.setSlot_entryFeat _ _ _
@[simp] theorem State.mapSlot_core_hw (s : State) (f : Slot → Slot) : (s.mapSlot f).core.hw = s.core.hw := Core.setSlot_hw _ _ _
@[simp] theorem State.mapSlot_core_partw (s : State) (f : Slot → Slot) : (s.mapSlot f).core.partw = s.core.partw := Core.setSlot_partw _ _ _
@[simp] theorem State.mapSlot_core_exb (s : State) (f : Slot → Slot) : (s.mapSlot f).core.exb = s.core.exb := Core.setSlot_exb _ _ _
@[simp] theorem State.mapSlot_core_codebase (s : State) (f : Slot → Slot) : (s.mapSlot f).core.codebase = s.core.codebase := Core.setSlot_codebase _ _ _
@[simp] theorem State.mapSlot_core_fetchbase (s : State) (f : Slot → Slot) : (s.mapSlot f).core.fetchbase = s.core.fetchbase := Core.setSlot_fetchbase _ _ _
@[simp] theorem State.mapSlot_core_ovld (s : State) (f : Slot → Slot) : (s.mapSlot f).core.ovld = s.core.ovld := Core.setSlot_ovld _ _ _
@[simp] theorem State.mapSlot_core_v (s : State) (f : Slot → Slot) : (s.mapSlot f).core.v = s.core.v := Core.setSlot_v _ _ _
@[simp] theorem State.mapSlot_core_k (s : State) (f : Slot → Slot) : (s.mapSlot f).core.k = s.core.k := Core.setSlot_k _ _ _
@[simp] theorem State.mapSlot_core_flaws (s : State) (f : Slot → Slot) : (s.mapSlot f).core.flaws = s.core.flaws := Core.setSlot_flaws _ _ _
@[simp] theorem State.mapSlot_core_accd (s : State) (f : Slot → Slot) : (s.mapSlot f).core.accd = s.core.accd := Core.setSlot_accd _ _ _
@[simp] theorem State.mapSlot_core_mshape (s : State) (f : Slot → Slot) : (s.mapSlot f).core.mshape = s.core.mshape := Core.setSlot_mshape _ _ _
@[simp] theorem State.mapSlot_core_net (s : State) (f : Slot → Slot) : (s.mapSlot f).core.net = s.core.net := Core.setSlot_net _ _ _
@[simp] theorem State.mapSlot_core_matrix (s : State) (f : Slot → Slot) : (s.mapSlot f).core.matrix = s.core.matrix := Core.setSlot_matrix _ _ _
@[simp] theorem State.mapSlot_core_mrun (s : State) (f : Slot → Slot) : (s.mapSlot f).core.mrun = s.core.mrun := Core.setSlot_mrun _ _ _
@[simp] theorem State.mapSlot_core_vector (s : State) (f : Slot → Slot) : (s.mapSlot f).core.vector = s.core.vector := Core.setSlot_vector _ _ _
@[simp] theorem State.mapSlot_core_copy (s : State) (f : Slot → Slot) : (s.mapSlot f).core.copy = s.core.copy := Core.setSlot_copy _ _ _
@[simp] theorem State.mapSlot_core_tids (s : State) (f : Slot → Slot) : (s.mapSlot f).core.tids = s.core.tids := Core.setSlot_tids _ _ _
@[simp] theorem State.mapSlot_core_chans (s : State) (f : Slot → Slot) : (s.mapSlot f).core.chans = s.core.chans := Core.setSlot_chans _ _ _
@[simp] theorem State.mapSlot_core_regions (s : State) (f : Slot → Slot) : (s.mapSlot f).core.regions = s.core.regions := Core.setSlot_regions _ _ _
@[simp] theorem State.mapSlot_core_dataEnd (s : State) (f : Slot → Slot) : (s.mapSlot f).core.dataEnd = s.core.dataEnd := Core.setSlot_dataEnd _ _ _
@[simp] theorem State.mapSlot_core_dataOfs (s : State) (f : Slot → Slot) : (s.mapSlot f).core.dataOfs = s.core.dataOfs := Core.setSlot_dataOfs _ _ _
@[simp] theorem State.mapSlot_core_program (s : State) (f : Slot → Slot) : (s.mapSlot f).core.program = s.core.program := Core.setSlot_program _ _ _
@[simp] theorem State.mapSlot_core_tlb (s : State) (f : Slot → Slot) : (s.mapSlot f).core.tlb = s.core.tlb := Core.setSlot_tlb _ _ _
@[simp] theorem State.mapSlot_core_detected (s : State) (f : Slot → Slot) : (s.mapSlot f).core.detected = s.core.detected := Core.setSlot_detected _ _ _
@[simp] theorem State.mapSlot_core_alloc (s : State) (f : Slot → Slot) : (s.mapSlot f).core.alloc = s.core.alloc := Core.setSlot_alloc _ _ _
@[simp] theorem State.mapSlot_core_lastVf (s : State) (f : Slot → Slot) : (s.mapSlot f).core.lastVf = s.core.lastVf := Core.setSlot_lastVf _ _ _
@[simp] theorem State.mapSlot_core_lastCtx (s : State) (f : Slot → Slot) : (s.mapSlot f).core.lastCtx = s.core.lastCtx := Core.setSlot_lastCtx _ _ _
@[simp] theorem State.mapSlot_core_reserved (s : State) (f : Slot → Slot) : (s.mapSlot f).core.reserved = s.core.reserved := Core.setSlot_reserved _ _ _
@[simp] theorem State.mapSlot_core_heldBefore (s : State) (f : Slot → Slot) : (s.mapSlot f).core.heldBefore = s.core.heldBefore := Core.setSlot_heldBefore _ _ _
@[simp] theorem State.mapSlot_core_log (s : State) (f : Slot → Slot) : (s.mapSlot f).core.log = s.core.log := Core.setSlot_log _ _ _

/-! ### Writing a register, retiring, continuing elsewhere -/

@[simp] theorem State.setE_others (s : State) (r : EReg) (x : Word) : (s.setE r x).others = s.others := rfl
@[simp] theorem State.setE_sel (s : State) (r : EReg) (x : Word) : (s.setE r x).sel = s.sel := rfl
@[simp] theorem State.setE_device (s : State) (r : EReg) (x : Word) : (s.setE r x).device = s.device := rfl
@[simp] theorem State.setE_epoch (s : State) (r : EReg) (x : Word) : (s.setE r x).epoch = s.epoch := rfl
@[simp] theorem State.setE_vt (s : State) (r : EReg) (x : Word) : (s.setE r x).vt = s.vt := rfl
@[simp] theorem State.setE_hbm (s : State) (r : EReg) (x : Word) : (s.setE r x).hbm = s.hbm := rfl
@[simp] theorem State.setE_hbmPoison (s : State) (r : EReg) (x : Word) : (s.setE r x).hbmPoison = s.hbmPoison := rfl
@[simp] theorem State.setE_stamps (s : State) (r : EReg) (x : Word) : (s.setE r x).stamps = s.stamps := rfl
@[simp] theorem State.setE_host (s : State) (r : EReg) (x : Word) : (s.setE r x).host = s.host := rfl
@[simp] theorem State.setE_stores (s : State) (r : EReg) (x : Word) : (s.setE r x).stores = s.stores := rfl
@[simp] theorem State.setE_marks (s : State) (r : EReg) (x : Word) : (s.setE r x).marks = s.marks := rfl
@[simp] theorem State.setE_results (s : State) (r : EReg) (x : Word) : (s.setE r x).results = s.results := rfl
@[simp] theorem State.setE_early (s : State) (r : EReg) (x : Word) : (s.setE r x).early = s.early := rfl
@[simp] theorem State.setE_samples (s : State) (r : EReg) (x : Word) : (s.setE r x).samples = s.samples := rfl
@[simp] theorem State.setE_beacons (s : State) (r : EReg) (x : Word) : (s.setE r x).beacons = s.beacons := rfl
@[simp] theorem State.setE_published (s : State) (r : EReg) (x : Word) : (s.setE r x).published = s.published := rfl
@[simp] theorem State.setE_nodes (s : State) (r : EReg) (x : Word) : (s.setE r x).nodes = s.nodes := rfl
@[simp] theorem State.setE_remotes (s : State) (r : EReg) (x : Word) : (s.setE r x).remotes = s.remotes := rfl
@[simp] theorem State.setE_contexts (s : State) (r : EReg) (x : Word) : (s.setE r x).contexts = s.contexts := rfl
@[simp] theorem State.setE_nextNode (s : State) (r : EReg) (x : Word) : (s.setE r x).nextNode = s.nextNode := rfl
@[simp] theorem State.setE_nextVersion (s : State) (r : EReg) (x : Word) : (s.setE r x).nextVersion = s.nextVersion := rfl
@[simp] theorem State.setE_freeFrames (s : State) (r : EReg) (x : Word) : (s.setE r x).freeFrames = s.freeFrames := rfl
@[simp] theorem State.setE_lingering (s : State) (r : EReg) (x : Word) : (s.setE r x).lingering = s.lingering := rfl
@[simp] theorem State.setE_sectorTlb (s : State) (r : EReg) (x : Word) : (s.setE r x).sectorTlb = s.sectorTlb := rfl
@[simp] theorem State.setE_sectorHandles (s : State) (r : EReg) (x : Word) : (s.setE r x).sectorHandles = s.sectorHandles := rfl
@[simp] theorem State.setE_beaconOut (s : State) (r : EReg) (x : Word) : (s.setE r x).beaconOut = s.beaconOut := rfl
@[simp] theorem State.setE_misses (s : State) (r : EReg) (x : Word) : (s.setE r x).misses = s.misses := rfl
@[simp] theorem State.setE_barren (s : State) (r : EReg) (x : Word) : (s.setE r x).barren = s.barren := rfl
@[simp] theorem State.setE_pageCopies (s : State) (r : EReg) (x : Word) : (s.setE r x).pageCopies = s.pageCopies := rfl
@[simp] theorem State.setE_shootdowns (s : State) (r : EReg) (x : Word) : (s.setE r x).shootdowns = s.shootdowns := rfl
@[simp] theorem State.setE_publications (s : State) (r : EReg) (x : Word) : (s.setE r x).publications = s.publications := rfl
@[simp] theorem State.setE_layouts (s : State) (r : EReg) (x : Word) : (s.setE r x).layouts = s.layouts := rfl
@[simp] theorem State.setE_steals (s : State) (r : EReg) (x : Word) : (s.setE r x).steals = s.steals := rfl
@[simp] theorem State.setE_msgs (s : State) (r : EReg) (x : Word) : (s.setE r x).msgs = s.msgs := rfl
@[simp] theorem State.setE_kept (s : State) (r : EReg) (x : Word) : (s.setE r x).kept = s.kept := rfl
@[simp] theorem State.setE_msgMarks (s : State) (r : EReg) (x : Word) : (s.setE r x).msgMarks = s.msgMarks := rfl
@[simp] theorem State.setE_msgSeqs (s : State) (r : EReg) (x : Word) : (s.setE r x).msgSeqs = s.msgSeqs := rfl
@[simp] theorem State.setE_answers (s : State) (r : EReg) (x : Word) : (s.setE r x).answers = s.answers := rfl
@[simp] theorem State.setE_brokenPackets (s : State) (r : EReg) (x : Word) : (s.setE r x).brokenPackets = s.brokenPackets := rfl
@[simp] theorem State.setE_portWork (s : State) (r : EReg) (x : Word) : (s.setE r x).portWork = s.portWork := rfl
@[simp] theorem State.setE_hubWork (s : State) (r : EReg) (x : Word) : (s.setE r x).hubWork = s.hubWork := rfl
@[simp] theorem State.setE_dumpFaults (s : State) (r : EReg) (x : Word) : (s.setE r x).dumpFaults = s.dumpFaults := rfl
@[simp] theorem State.setE_ringCounts (s : State) (r : EReg) (x : Word) : (s.setE r x).ringCounts = s.ringCounts := rfl
@[simp] theorem State.setE_serial (s : State) (r : EReg) (x : Word) : (s.setE r x).serial = s.serial := rfl
@[simp] theorem State.setE_groups (s : State) (r : EReg) (x : Word) : (s.setE r x).groups = s.groups := rfl
@[simp] theorem State.setE_copies (s : State) (r : EReg) (x : Word) : (s.setE r x).copies = s.copies := rfl
@[simp] theorem State.setE_stages (s : State) (r : EReg) (x : Word) : (s.setE r x).stages = s.stages := rfl
@[simp] theorem State.setE_kernels (s : State) (r : EReg) (x : Word) : (s.setE r x).kernels = s.kernels := rfl
@[simp] theorem State.setE_nextKernel (s : State) (r : EReg) (x : Word) : (s.setE r x).nextKernel = s.nextKernel := rfl
@[simp] theorem State.setE_programs (s : State) (r : EReg) (x : Word) : (s.setE r x).programs = s.programs := rfl
@[simp] theorem State.setE_trapRecords (s : State) (r : EReg) (x : Word) : (s.setE r x).trapRecords = s.trapRecords := rfl
@[simp] theorem State.setE_stops (s : State) (r : EReg) (x : Word) : (s.setE r x).stops = s.stops := rfl
@[simp] theorem State.setE_saved (s : State) (r : EReg) (x : Word) : (s.setE r x).saved = s.saved := rfl
@[simp] theorem State.setE_migrations (s : State) (r : EReg) (x : Word) : (s.setE r x).migrations = s.migrations := rfl
@[simp] theorem State.setE_kills (s : State) (r : EReg) (x : Word) : (s.setE r x).kills = s.kills := rfl
@[simp] theorem State.setE_refusals (s : State) (r : EReg) (x : Word) : (s.setE r x).refusals = s.refusals := rfl
@[simp] theorem State.setE_updates (s : State) (r : EReg) (x : Word) : (s.setE r x).updates = s.updates := rfl
@[simp] theorem State.setE_requests (s : State) (r : EReg) (x : Word) : (s.setE r x).requests = s.requests := rfl
@[simp] theorem State.setE_muted (s : State) (r : EReg) (x : Word) : (s.setE r x).muted = s.muted := rfl
@[simp] theorem State.setE_events (s : State) (r : EReg) (x : Word) : (s.setE r x).events = s.events := rfl
@[simp] theorem State.setE_pifo (s : State) (r : EReg) (x : Word) : (s.setE r x).pifo = s.pifo := rfl
@[simp] theorem State.setE_queues (s : State) (r : EReg) (x : Word) : (s.setE r x).queues = s.queues := rfl
@[simp] theorem State.setE_rank (s : State) (r : EReg) (x : Word) : (s.setE r x).rank = s.rank := rfl
@[simp] theorem State.setE_dispatch (s : State) (r : EReg) (x : Word) : (s.setE r x).dispatch = s.dispatch := rfl
@[simp] theorem State.setE_scans (s : State) (r : EReg) (x : Word) : (s.setE r x).scans = s.scans := rfl
@[simp] theorem State.setE_links (s : State) (r : EReg) (x : Word) : (s.setE r x).links = s.links := rfl
@[simp] theorem State.setE_jobs (s : State) (r : EReg) (x : Word) : (s.setE r x).jobs = s.jobs := rfl
@[simp] theorem State.setE_routes (s : State) (r : EReg) (x : Word) : (s.setE r x).routes = s.routes := rfl
@[simp] theorem State.setE_portSeqs (s : State) (r : EReg) (x : Word) : (s.setE r x).portSeqs = s.portSeqs := rfl
@[simp] theorem State.setE_vfRequests (s : State) (r : EReg) (x : Word) : (s.setE r x).vfRequests = s.vfRequests := rfl
@[simp] theorem State.setE_faultsServed (s : State) (r : EReg) (x : Word) : (s.setE r x).faultsServed = s.faultsServed := rfl
@[simp] theorem State.setE_faultsStored (s : State) (r : EReg) (x : Word) : (s.setE r x).faultsStored = s.faultsStored := rfl
@[simp] theorem State.setE_snapshots (s : State) (r : EReg) (x : Word) : (s.setE r x).snapshots = s.snapshots := rfl
@[simp] theorem State.setE_latches (s : State) (r : EReg) (x : Word) : (s.setE r x).latches = s.latches := rfl
@[simp] theorem State.setE_snap (s : State) (r : EReg) (x : Word) : (s.setE r x).snap = s.snap := rfl
@[simp] theorem State.setE_skipped (s : State) (r : EReg) (x : Word) : (s.setE r x).skipped = s.skipped := rfl
@[simp] theorem State.setE_rebinding (s : State) (r : EReg) (x : Word) : (s.setE r x).rebinding = s.rebinding := rfl
@[simp] theorem State.setE_pointCommits (s : State) (r : EReg) (x : Word) : (s.setE r x).pointCommits = s.pointCommits := rfl
@[simp] theorem State.setE_portErrors (s : State) (r : EReg) (x : Word) : (s.setE r x).portErrors = s.portErrors := rfl
@[simp] theorem State.setE_throttled (s : State) (r : EReg) (x : Word) : (s.setE r x).throttled = s.throttled := rfl
@[simp] theorem State.setE_bringUp (s : State) (r : EReg) (x : Word) : (s.setE r x).bringUp = s.bringUp := rfl
@[simp] theorem State.setE_failCode (s : State) (r : EReg) (x : Word) : (s.setE r x).failCode = s.failCode := rfl
@[simp] theorem State.setE_fuse (s : State) (r : EReg) (x : Word) : (s.setE r x).fuse = s.fuse := rfl
@[simp] theorem State.setE_imageVersion (s : State) (r : EReg) (x : Word) : (s.setE r x).imageVersion = s.imageVersion := rfl
@[simp] theorem State.setE_badSlices (s : State) (r : EReg) (x : Word) : (s.setE r x).badSlices = s.badSlices := rfl
@[simp] theorem State.setE_deadDies (s : State) (r : EReg) (x : Word) : (s.setE r x).deadDies = s.deadDies := rfl
@[simp] theorem State.setE_portsDown (s : State) (r : EReg) (x : Word) : (s.setE r x).portsDown = s.portsDown := rfl
@[simp] theorem State.setE_nonce (s : State) (r : EReg) (x : Word) : (s.setE r x).nonce = s.nonce := rfl
@[simp] theorem State.setE_guest (s : State) (r : EReg) (x : Word) : (s.setE r x).guest = s.guest := rfl
@[simp] theorem State.setE_sliceVt (s : State) (r : EReg) (x : Word) : (s.setE r x).sliceVt = s.sliceVt := rfl
@[simp] theorem State.setE_agenda (s : State) (r : EReg) (x : Word) : (s.setE r x).agenda = s.agenda := rfl
@[simp] theorem State.setE_tick (s : State) (r : EReg) (x : Word) : (s.setE r x).tick = s.tick := rfl
@[simp] theorem State.setE_turn (s : State) (r : EReg) (x : Word) : (s.setE r x).turn = s.turn := rfl
@[simp] theorem State.setE_ir (s : State) (r : EReg) (x : Word) : (s.setE r x).ir = s.ir := rfl
@[simp] theorem State.setE_stalled (s : State) (r : EReg) (x : Word) : (s.setE r x).stalled = s.stalled := rfl
@[simp] theorem State.setE_core_id (s : State) (r : EReg) (x : Word) : (s.setE r x).core.id = s.core.id := State.mapSlot_core_id _ _
@[simp] theorem State.setE_core_sram (s : State) (r : EReg) (x : Word) : (s.setE r x).core.sram = s.core.sram := State.mapSlot_core_sram _ _
@[simp] theorem State.setE_core_poison (s : State) (r : EReg) (x : Word) : (s.setE r x).core.poison = s.core.poison := State.mapSlot_core_poison _ _
@[simp] theorem State.setE_core_feat (s : State) (r : EReg) (x : Word) : (s.setE r x).core.feat = s.core.feat := State.mapSlot_core_feat _ _
@[simp] theorem State.setE_core_entryFeat (s : State) (r : EReg) (x : Word) : (s.setE r x).core.entryFeat = s.core.entryFeat := State.mapSlot_core_entryFeat _ _
@[simp] theorem State.setE_core_hw (s : State) (r : EReg) (x : Word) : (s.setE r x).core.hw = s.core.hw := State.mapSlot_core_hw _ _
@[simp] theorem State.setE_core_partw (s : State) (r : EReg) (x : Word) : (s.setE r x).core.partw = s.core.partw := State.mapSlot_core_partw _ _
@[simp] theorem State.setE_core_exb (s : State) (r : EReg) (x : Word) : (s.setE r x).core.exb = s.core.exb := State.mapSlot_core_exb _ _
@[simp] theorem State.setE_core_codebase (s : State) (r : EReg) (x : Word) : (s.setE r x).core.codebase = s.core.codebase := State.mapSlot_core_codebase _ _
@[simp] theorem State.setE_core_fetchbase (s : State) (r : EReg) (x : Word) : (s.setE r x).core.fetchbase = s.core.fetchbase := State.mapSlot_core_fetchbase _ _
@[simp] theorem State.setE_core_ovld (s : State) (r : EReg) (x : Word) : (s.setE r x).core.ovld = s.core.ovld := State.mapSlot_core_ovld _ _
@[simp] theorem State.setE_core_v (s : State) (r : EReg) (x : Word) : (s.setE r x).core.v = s.core.v := State.mapSlot_core_v _ _
@[simp] theorem State.setE_core_k (s : State) (r : EReg) (x : Word) : (s.setE r x).core.k = s.core.k := State.mapSlot_core_k _ _
@[simp] theorem State.setE_core_flaws (s : State) (r : EReg) (x : Word) : (s.setE r x).core.flaws = s.core.flaws := State.mapSlot_core_flaws _ _
@[simp] theorem State.setE_core_accd (s : State) (r : EReg) (x : Word) : (s.setE r x).core.accd = s.core.accd := State.mapSlot_core_accd _ _
@[simp] theorem State.setE_core_mshape (s : State) (r : EReg) (x : Word) : (s.setE r x).core.mshape = s.core.mshape := State.mapSlot_core_mshape _ _
@[simp] theorem State.setE_core_net (s : State) (r : EReg) (x : Word) : (s.setE r x).core.net = s.core.net := State.mapSlot_core_net _ _
@[simp] theorem State.setE_core_matrix (s : State) (r : EReg) (x : Word) : (s.setE r x).core.matrix = s.core.matrix := State.mapSlot_core_matrix _ _
@[simp] theorem State.setE_core_mrun (s : State) (r : EReg) (x : Word) : (s.setE r x).core.mrun = s.core.mrun := State.mapSlot_core_mrun _ _
@[simp] theorem State.setE_core_vector (s : State) (r : EReg) (x : Word) : (s.setE r x).core.vector = s.core.vector := State.mapSlot_core_vector _ _
@[simp] theorem State.setE_core_copy (s : State) (r : EReg) (x : Word) : (s.setE r x).core.copy = s.core.copy := State.mapSlot_core_copy _ _
@[simp] theorem State.setE_core_tids (s : State) (r : EReg) (x : Word) : (s.setE r x).core.tids = s.core.tids := State.mapSlot_core_tids _ _
@[simp] theorem State.setE_core_chans (s : State) (r : EReg) (x : Word) : (s.setE r x).core.chans = s.core.chans := State.mapSlot_core_chans _ _
@[simp] theorem State.setE_core_regions (s : State) (r : EReg) (x : Word) : (s.setE r x).core.regions = s.core.regions := State.mapSlot_core_regions _ _
@[simp] theorem State.setE_core_dataEnd (s : State) (r : EReg) (x : Word) : (s.setE r x).core.dataEnd = s.core.dataEnd := State.mapSlot_core_dataEnd _ _
@[simp] theorem State.setE_core_dataOfs (s : State) (r : EReg) (x : Word) : (s.setE r x).core.dataOfs = s.core.dataOfs := State.mapSlot_core_dataOfs _ _
@[simp] theorem State.setE_core_program (s : State) (r : EReg) (x : Word) : (s.setE r x).core.program = s.core.program := State.mapSlot_core_program _ _
@[simp] theorem State.setE_core_tlb (s : State) (r : EReg) (x : Word) : (s.setE r x).core.tlb = s.core.tlb := State.mapSlot_core_tlb _ _
@[simp] theorem State.setE_core_detected (s : State) (r : EReg) (x : Word) : (s.setE r x).core.detected = s.core.detected := State.mapSlot_core_detected _ _
@[simp] theorem State.setE_core_alloc (s : State) (r : EReg) (x : Word) : (s.setE r x).core.alloc = s.core.alloc := State.mapSlot_core_alloc _ _
@[simp] theorem State.setE_core_lastVf (s : State) (r : EReg) (x : Word) : (s.setE r x).core.lastVf = s.core.lastVf := State.mapSlot_core_lastVf _ _
@[simp] theorem State.setE_core_lastCtx (s : State) (r : EReg) (x : Word) : (s.setE r x).core.lastCtx = s.core.lastCtx := State.mapSlot_core_lastCtx _ _
@[simp] theorem State.setE_core_reserved (s : State) (r : EReg) (x : Word) : (s.setE r x).core.reserved = s.core.reserved := State.mapSlot_core_reserved _ _
@[simp] theorem State.setE_core_heldBefore (s : State) (r : EReg) (x : Word) : (s.setE r x).core.heldBefore = s.core.heldBefore := State.mapSlot_core_heldBefore _ _
@[simp] theorem State.setE_core_log (s : State) (r : EReg) (x : Word) : (s.setE r x).core.log = s.core.log := State.mapSlot_core_log _ _
@[simp] theorem State.setW_others (s : State) (r : WReg) (x : WVal) : (s.setW r x).others = s.others := rfl
@[simp] theorem State.setW_sel (s : State) (r : WReg) (x : WVal) : (s.setW r x).sel = s.sel := rfl
@[simp] theorem State.setW_device (s : State) (r : WReg) (x : WVal) : (s.setW r x).device = s.device := rfl
@[simp] theorem State.setW_epoch (s : State) (r : WReg) (x : WVal) : (s.setW r x).epoch = s.epoch := rfl
@[simp] theorem State.setW_vt (s : State) (r : WReg) (x : WVal) : (s.setW r x).vt = s.vt := rfl
@[simp] theorem State.setW_hbm (s : State) (r : WReg) (x : WVal) : (s.setW r x).hbm = s.hbm := rfl
@[simp] theorem State.setW_hbmPoison (s : State) (r : WReg) (x : WVal) : (s.setW r x).hbmPoison = s.hbmPoison := rfl
@[simp] theorem State.setW_stamps (s : State) (r : WReg) (x : WVal) : (s.setW r x).stamps = s.stamps := rfl
@[simp] theorem State.setW_host (s : State) (r : WReg) (x : WVal) : (s.setW r x).host = s.host := rfl
@[simp] theorem State.setW_stores (s : State) (r : WReg) (x : WVal) : (s.setW r x).stores = s.stores := rfl
@[simp] theorem State.setW_marks (s : State) (r : WReg) (x : WVal) : (s.setW r x).marks = s.marks := rfl
@[simp] theorem State.setW_results (s : State) (r : WReg) (x : WVal) : (s.setW r x).results = s.results := rfl
@[simp] theorem State.setW_early (s : State) (r : WReg) (x : WVal) : (s.setW r x).early = s.early := rfl
@[simp] theorem State.setW_samples (s : State) (r : WReg) (x : WVal) : (s.setW r x).samples = s.samples := rfl
@[simp] theorem State.setW_beacons (s : State) (r : WReg) (x : WVal) : (s.setW r x).beacons = s.beacons := rfl
@[simp] theorem State.setW_published (s : State) (r : WReg) (x : WVal) : (s.setW r x).published = s.published := rfl
@[simp] theorem State.setW_nodes (s : State) (r : WReg) (x : WVal) : (s.setW r x).nodes = s.nodes := rfl
@[simp] theorem State.setW_remotes (s : State) (r : WReg) (x : WVal) : (s.setW r x).remotes = s.remotes := rfl
@[simp] theorem State.setW_contexts (s : State) (r : WReg) (x : WVal) : (s.setW r x).contexts = s.contexts := rfl
@[simp] theorem State.setW_nextNode (s : State) (r : WReg) (x : WVal) : (s.setW r x).nextNode = s.nextNode := rfl
@[simp] theorem State.setW_nextVersion (s : State) (r : WReg) (x : WVal) : (s.setW r x).nextVersion = s.nextVersion := rfl
@[simp] theorem State.setW_freeFrames (s : State) (r : WReg) (x : WVal) : (s.setW r x).freeFrames = s.freeFrames := rfl
@[simp] theorem State.setW_lingering (s : State) (r : WReg) (x : WVal) : (s.setW r x).lingering = s.lingering := rfl
@[simp] theorem State.setW_sectorTlb (s : State) (r : WReg) (x : WVal) : (s.setW r x).sectorTlb = s.sectorTlb := rfl
@[simp] theorem State.setW_sectorHandles (s : State) (r : WReg) (x : WVal) : (s.setW r x).sectorHandles = s.sectorHandles := rfl
@[simp] theorem State.setW_beaconOut (s : State) (r : WReg) (x : WVal) : (s.setW r x).beaconOut = s.beaconOut := rfl
@[simp] theorem State.setW_misses (s : State) (r : WReg) (x : WVal) : (s.setW r x).misses = s.misses := rfl
@[simp] theorem State.setW_barren (s : State) (r : WReg) (x : WVal) : (s.setW r x).barren = s.barren := rfl
@[simp] theorem State.setW_pageCopies (s : State) (r : WReg) (x : WVal) : (s.setW r x).pageCopies = s.pageCopies := rfl
@[simp] theorem State.setW_shootdowns (s : State) (r : WReg) (x : WVal) : (s.setW r x).shootdowns = s.shootdowns := rfl
@[simp] theorem State.setW_publications (s : State) (r : WReg) (x : WVal) : (s.setW r x).publications = s.publications := rfl
@[simp] theorem State.setW_layouts (s : State) (r : WReg) (x : WVal) : (s.setW r x).layouts = s.layouts := rfl
@[simp] theorem State.setW_steals (s : State) (r : WReg) (x : WVal) : (s.setW r x).steals = s.steals := rfl
@[simp] theorem State.setW_msgs (s : State) (r : WReg) (x : WVal) : (s.setW r x).msgs = s.msgs := rfl
@[simp] theorem State.setW_kept (s : State) (r : WReg) (x : WVal) : (s.setW r x).kept = s.kept := rfl
@[simp] theorem State.setW_msgMarks (s : State) (r : WReg) (x : WVal) : (s.setW r x).msgMarks = s.msgMarks := rfl
@[simp] theorem State.setW_msgSeqs (s : State) (r : WReg) (x : WVal) : (s.setW r x).msgSeqs = s.msgSeqs := rfl
@[simp] theorem State.setW_answers (s : State) (r : WReg) (x : WVal) : (s.setW r x).answers = s.answers := rfl
@[simp] theorem State.setW_brokenPackets (s : State) (r : WReg) (x : WVal) : (s.setW r x).brokenPackets = s.brokenPackets := rfl
@[simp] theorem State.setW_portWork (s : State) (r : WReg) (x : WVal) : (s.setW r x).portWork = s.portWork := rfl
@[simp] theorem State.setW_hubWork (s : State) (r : WReg) (x : WVal) : (s.setW r x).hubWork = s.hubWork := rfl
@[simp] theorem State.setW_dumpFaults (s : State) (r : WReg) (x : WVal) : (s.setW r x).dumpFaults = s.dumpFaults := rfl
@[simp] theorem State.setW_ringCounts (s : State) (r : WReg) (x : WVal) : (s.setW r x).ringCounts = s.ringCounts := rfl
@[simp] theorem State.setW_serial (s : State) (r : WReg) (x : WVal) : (s.setW r x).serial = s.serial := rfl
@[simp] theorem State.setW_groups (s : State) (r : WReg) (x : WVal) : (s.setW r x).groups = s.groups := rfl
@[simp] theorem State.setW_copies (s : State) (r : WReg) (x : WVal) : (s.setW r x).copies = s.copies := rfl
@[simp] theorem State.setW_stages (s : State) (r : WReg) (x : WVal) : (s.setW r x).stages = s.stages := rfl
@[simp] theorem State.setW_kernels (s : State) (r : WReg) (x : WVal) : (s.setW r x).kernels = s.kernels := rfl
@[simp] theorem State.setW_nextKernel (s : State) (r : WReg) (x : WVal) : (s.setW r x).nextKernel = s.nextKernel := rfl
@[simp] theorem State.setW_programs (s : State) (r : WReg) (x : WVal) : (s.setW r x).programs = s.programs := rfl
@[simp] theorem State.setW_trapRecords (s : State) (r : WReg) (x : WVal) : (s.setW r x).trapRecords = s.trapRecords := rfl
@[simp] theorem State.setW_stops (s : State) (r : WReg) (x : WVal) : (s.setW r x).stops = s.stops := rfl
@[simp] theorem State.setW_saved (s : State) (r : WReg) (x : WVal) : (s.setW r x).saved = s.saved := rfl
@[simp] theorem State.setW_migrations (s : State) (r : WReg) (x : WVal) : (s.setW r x).migrations = s.migrations := rfl
@[simp] theorem State.setW_kills (s : State) (r : WReg) (x : WVal) : (s.setW r x).kills = s.kills := rfl
@[simp] theorem State.setW_refusals (s : State) (r : WReg) (x : WVal) : (s.setW r x).refusals = s.refusals := rfl
@[simp] theorem State.setW_updates (s : State) (r : WReg) (x : WVal) : (s.setW r x).updates = s.updates := rfl
@[simp] theorem State.setW_requests (s : State) (r : WReg) (x : WVal) : (s.setW r x).requests = s.requests := rfl
@[simp] theorem State.setW_muted (s : State) (r : WReg) (x : WVal) : (s.setW r x).muted = s.muted := rfl
@[simp] theorem State.setW_events (s : State) (r : WReg) (x : WVal) : (s.setW r x).events = s.events := rfl
@[simp] theorem State.setW_pifo (s : State) (r : WReg) (x : WVal) : (s.setW r x).pifo = s.pifo := rfl
@[simp] theorem State.setW_queues (s : State) (r : WReg) (x : WVal) : (s.setW r x).queues = s.queues := rfl
@[simp] theorem State.setW_rank (s : State) (r : WReg) (x : WVal) : (s.setW r x).rank = s.rank := rfl
@[simp] theorem State.setW_dispatch (s : State) (r : WReg) (x : WVal) : (s.setW r x).dispatch = s.dispatch := rfl
@[simp] theorem State.setW_scans (s : State) (r : WReg) (x : WVal) : (s.setW r x).scans = s.scans := rfl
@[simp] theorem State.setW_links (s : State) (r : WReg) (x : WVal) : (s.setW r x).links = s.links := rfl
@[simp] theorem State.setW_jobs (s : State) (r : WReg) (x : WVal) : (s.setW r x).jobs = s.jobs := rfl
@[simp] theorem State.setW_routes (s : State) (r : WReg) (x : WVal) : (s.setW r x).routes = s.routes := rfl
@[simp] theorem State.setW_portSeqs (s : State) (r : WReg) (x : WVal) : (s.setW r x).portSeqs = s.portSeqs := rfl
@[simp] theorem State.setW_vfRequests (s : State) (r : WReg) (x : WVal) : (s.setW r x).vfRequests = s.vfRequests := rfl
@[simp] theorem State.setW_faultsServed (s : State) (r : WReg) (x : WVal) : (s.setW r x).faultsServed = s.faultsServed := rfl
@[simp] theorem State.setW_faultsStored (s : State) (r : WReg) (x : WVal) : (s.setW r x).faultsStored = s.faultsStored := rfl
@[simp] theorem State.setW_snapshots (s : State) (r : WReg) (x : WVal) : (s.setW r x).snapshots = s.snapshots := rfl
@[simp] theorem State.setW_latches (s : State) (r : WReg) (x : WVal) : (s.setW r x).latches = s.latches := rfl
@[simp] theorem State.setW_snap (s : State) (r : WReg) (x : WVal) : (s.setW r x).snap = s.snap := rfl
@[simp] theorem State.setW_skipped (s : State) (r : WReg) (x : WVal) : (s.setW r x).skipped = s.skipped := rfl
@[simp] theorem State.setW_rebinding (s : State) (r : WReg) (x : WVal) : (s.setW r x).rebinding = s.rebinding := rfl
@[simp] theorem State.setW_pointCommits (s : State) (r : WReg) (x : WVal) : (s.setW r x).pointCommits = s.pointCommits := rfl
@[simp] theorem State.setW_portErrors (s : State) (r : WReg) (x : WVal) : (s.setW r x).portErrors = s.portErrors := rfl
@[simp] theorem State.setW_throttled (s : State) (r : WReg) (x : WVal) : (s.setW r x).throttled = s.throttled := rfl
@[simp] theorem State.setW_bringUp (s : State) (r : WReg) (x : WVal) : (s.setW r x).bringUp = s.bringUp := rfl
@[simp] theorem State.setW_failCode (s : State) (r : WReg) (x : WVal) : (s.setW r x).failCode = s.failCode := rfl
@[simp] theorem State.setW_fuse (s : State) (r : WReg) (x : WVal) : (s.setW r x).fuse = s.fuse := rfl
@[simp] theorem State.setW_imageVersion (s : State) (r : WReg) (x : WVal) : (s.setW r x).imageVersion = s.imageVersion := rfl
@[simp] theorem State.setW_badSlices (s : State) (r : WReg) (x : WVal) : (s.setW r x).badSlices = s.badSlices := rfl
@[simp] theorem State.setW_deadDies (s : State) (r : WReg) (x : WVal) : (s.setW r x).deadDies = s.deadDies := rfl
@[simp] theorem State.setW_portsDown (s : State) (r : WReg) (x : WVal) : (s.setW r x).portsDown = s.portsDown := rfl
@[simp] theorem State.setW_nonce (s : State) (r : WReg) (x : WVal) : (s.setW r x).nonce = s.nonce := rfl
@[simp] theorem State.setW_guest (s : State) (r : WReg) (x : WVal) : (s.setW r x).guest = s.guest := rfl
@[simp] theorem State.setW_sliceVt (s : State) (r : WReg) (x : WVal) : (s.setW r x).sliceVt = s.sliceVt := rfl
@[simp] theorem State.setW_agenda (s : State) (r : WReg) (x : WVal) : (s.setW r x).agenda = s.agenda := rfl
@[simp] theorem State.setW_tick (s : State) (r : WReg) (x : WVal) : (s.setW r x).tick = s.tick := rfl
@[simp] theorem State.setW_turn (s : State) (r : WReg) (x : WVal) : (s.setW r x).turn = s.turn := rfl
@[simp] theorem State.setW_ir (s : State) (r : WReg) (x : WVal) : (s.setW r x).ir = s.ir := rfl
@[simp] theorem State.setW_stalled (s : State) (r : WReg) (x : WVal) : (s.setW r x).stalled = s.stalled := rfl
@[simp] theorem State.setW_core_id (s : State) (r : WReg) (x : WVal) : (s.setW r x).core.id = s.core.id := State.mapSlot_core_id _ _
@[simp] theorem State.setW_core_sram (s : State) (r : WReg) (x : WVal) : (s.setW r x).core.sram = s.core.sram := State.mapSlot_core_sram _ _
@[simp] theorem State.setW_core_poison (s : State) (r : WReg) (x : WVal) : (s.setW r x).core.poison = s.core.poison := State.mapSlot_core_poison _ _
@[simp] theorem State.setW_core_feat (s : State) (r : WReg) (x : WVal) : (s.setW r x).core.feat = s.core.feat := State.mapSlot_core_feat _ _
@[simp] theorem State.setW_core_entryFeat (s : State) (r : WReg) (x : WVal) : (s.setW r x).core.entryFeat = s.core.entryFeat := State.mapSlot_core_entryFeat _ _
@[simp] theorem State.setW_core_hw (s : State) (r : WReg) (x : WVal) : (s.setW r x).core.hw = s.core.hw := State.mapSlot_core_hw _ _
@[simp] theorem State.setW_core_partw (s : State) (r : WReg) (x : WVal) : (s.setW r x).core.partw = s.core.partw := State.mapSlot_core_partw _ _
@[simp] theorem State.setW_core_exb (s : State) (r : WReg) (x : WVal) : (s.setW r x).core.exb = s.core.exb := State.mapSlot_core_exb _ _
@[simp] theorem State.setW_core_codebase (s : State) (r : WReg) (x : WVal) : (s.setW r x).core.codebase = s.core.codebase := State.mapSlot_core_codebase _ _
@[simp] theorem State.setW_core_fetchbase (s : State) (r : WReg) (x : WVal) : (s.setW r x).core.fetchbase = s.core.fetchbase := State.mapSlot_core_fetchbase _ _
@[simp] theorem State.setW_core_ovld (s : State) (r : WReg) (x : WVal) : (s.setW r x).core.ovld = s.core.ovld := State.mapSlot_core_ovld _ _
@[simp] theorem State.setW_core_v (s : State) (r : WReg) (x : WVal) : (s.setW r x).core.v = s.core.v := State.mapSlot_core_v _ _
@[simp] theorem State.setW_core_k (s : State) (r : WReg) (x : WVal) : (s.setW r x).core.k = s.core.k := State.mapSlot_core_k _ _
@[simp] theorem State.setW_core_flaws (s : State) (r : WReg) (x : WVal) : (s.setW r x).core.flaws = s.core.flaws := State.mapSlot_core_flaws _ _
@[simp] theorem State.setW_core_accd (s : State) (r : WReg) (x : WVal) : (s.setW r x).core.accd = s.core.accd := State.mapSlot_core_accd _ _
@[simp] theorem State.setW_core_mshape (s : State) (r : WReg) (x : WVal) : (s.setW r x).core.mshape = s.core.mshape := State.mapSlot_core_mshape _ _
@[simp] theorem State.setW_core_net (s : State) (r : WReg) (x : WVal) : (s.setW r x).core.net = s.core.net := State.mapSlot_core_net _ _
@[simp] theorem State.setW_core_matrix (s : State) (r : WReg) (x : WVal) : (s.setW r x).core.matrix = s.core.matrix := State.mapSlot_core_matrix _ _
@[simp] theorem State.setW_core_mrun (s : State) (r : WReg) (x : WVal) : (s.setW r x).core.mrun = s.core.mrun := State.mapSlot_core_mrun _ _
@[simp] theorem State.setW_core_vector (s : State) (r : WReg) (x : WVal) : (s.setW r x).core.vector = s.core.vector := State.mapSlot_core_vector _ _
@[simp] theorem State.setW_core_copy (s : State) (r : WReg) (x : WVal) : (s.setW r x).core.copy = s.core.copy := State.mapSlot_core_copy _ _
@[simp] theorem State.setW_core_tids (s : State) (r : WReg) (x : WVal) : (s.setW r x).core.tids = s.core.tids := State.mapSlot_core_tids _ _
@[simp] theorem State.setW_core_chans (s : State) (r : WReg) (x : WVal) : (s.setW r x).core.chans = s.core.chans := State.mapSlot_core_chans _ _
@[simp] theorem State.setW_core_regions (s : State) (r : WReg) (x : WVal) : (s.setW r x).core.regions = s.core.regions := State.mapSlot_core_regions _ _
@[simp] theorem State.setW_core_dataEnd (s : State) (r : WReg) (x : WVal) : (s.setW r x).core.dataEnd = s.core.dataEnd := State.mapSlot_core_dataEnd _ _
@[simp] theorem State.setW_core_dataOfs (s : State) (r : WReg) (x : WVal) : (s.setW r x).core.dataOfs = s.core.dataOfs := State.mapSlot_core_dataOfs _ _
@[simp] theorem State.setW_core_program (s : State) (r : WReg) (x : WVal) : (s.setW r x).core.program = s.core.program := State.mapSlot_core_program _ _
@[simp] theorem State.setW_core_tlb (s : State) (r : WReg) (x : WVal) : (s.setW r x).core.tlb = s.core.tlb := State.mapSlot_core_tlb _ _
@[simp] theorem State.setW_core_detected (s : State) (r : WReg) (x : WVal) : (s.setW r x).core.detected = s.core.detected := State.mapSlot_core_detected _ _
@[simp] theorem State.setW_core_alloc (s : State) (r : WReg) (x : WVal) : (s.setW r x).core.alloc = s.core.alloc := State.mapSlot_core_alloc _ _
@[simp] theorem State.setW_core_lastVf (s : State) (r : WReg) (x : WVal) : (s.setW r x).core.lastVf = s.core.lastVf := State.mapSlot_core_lastVf _ _
@[simp] theorem State.setW_core_lastCtx (s : State) (r : WReg) (x : WVal) : (s.setW r x).core.lastCtx = s.core.lastCtx := State.mapSlot_core_lastCtx _ _
@[simp] theorem State.setW_core_reserved (s : State) (r : WReg) (x : WVal) : (s.setW r x).core.reserved = s.core.reserved := State.mapSlot_core_reserved _ _
@[simp] theorem State.setW_core_heldBefore (s : State) (r : WReg) (x : WVal) : (s.setW r x).core.heldBefore = s.core.heldBefore := State.mapSlot_core_heldBefore _ _
@[simp] theorem State.setW_core_log (s : State) (r : WReg) (x : WVal) : (s.setW r x).core.log = s.core.log := State.mapSlot_core_log _ _
@[simp] theorem State.retired_others (s : State) (n : Nat) : (s.retired n).others = s.others := rfl
@[simp] theorem State.retired_sel (s : State) (n : Nat) : (s.retired n).sel = s.sel := rfl
@[simp] theorem State.retired_device (s : State) (n : Nat) : (s.retired n).device = s.device := rfl
@[simp] theorem State.retired_epoch (s : State) (n : Nat) : (s.retired n).epoch = s.epoch := rfl
@[simp] theorem State.retired_vt (s : State) (n : Nat) : (s.retired n).vt = s.vt := rfl
@[simp] theorem State.retired_hbm (s : State) (n : Nat) : (s.retired n).hbm = s.hbm := rfl
@[simp] theorem State.retired_hbmPoison (s : State) (n : Nat) : (s.retired n).hbmPoison = s.hbmPoison := rfl
@[simp] theorem State.retired_stamps (s : State) (n : Nat) : (s.retired n).stamps = s.stamps := rfl
@[simp] theorem State.retired_host (s : State) (n : Nat) : (s.retired n).host = s.host := rfl
@[simp] theorem State.retired_stores (s : State) (n : Nat) : (s.retired n).stores = s.stores := rfl
@[simp] theorem State.retired_marks (s : State) (n : Nat) : (s.retired n).marks = s.marks := rfl
@[simp] theorem State.retired_results (s : State) (n : Nat) : (s.retired n).results = s.results := rfl
@[simp] theorem State.retired_early (s : State) (n : Nat) : (s.retired n).early = s.early := rfl
@[simp] theorem State.retired_samples (s : State) (n : Nat) : (s.retired n).samples = s.samples := rfl
@[simp] theorem State.retired_beacons (s : State) (n : Nat) : (s.retired n).beacons = s.beacons := rfl
@[simp] theorem State.retired_published (s : State) (n : Nat) : (s.retired n).published = s.published := rfl
@[simp] theorem State.retired_nodes (s : State) (n : Nat) : (s.retired n).nodes = s.nodes := rfl
@[simp] theorem State.retired_remotes (s : State) (n : Nat) : (s.retired n).remotes = s.remotes := rfl
@[simp] theorem State.retired_contexts (s : State) (n : Nat) : (s.retired n).contexts = s.contexts := rfl
@[simp] theorem State.retired_nextNode (s : State) (n : Nat) : (s.retired n).nextNode = s.nextNode := rfl
@[simp] theorem State.retired_nextVersion (s : State) (n : Nat) : (s.retired n).nextVersion = s.nextVersion := rfl
@[simp] theorem State.retired_freeFrames (s : State) (n : Nat) : (s.retired n).freeFrames = s.freeFrames := rfl
@[simp] theorem State.retired_lingering (s : State) (n : Nat) : (s.retired n).lingering = s.lingering := rfl
@[simp] theorem State.retired_sectorTlb (s : State) (n : Nat) : (s.retired n).sectorTlb = s.sectorTlb := rfl
@[simp] theorem State.retired_sectorHandles (s : State) (n : Nat) : (s.retired n).sectorHandles = s.sectorHandles := rfl
@[simp] theorem State.retired_beaconOut (s : State) (n : Nat) : (s.retired n).beaconOut = s.beaconOut := rfl
@[simp] theorem State.retired_misses (s : State) (n : Nat) : (s.retired n).misses = s.misses := rfl
@[simp] theorem State.retired_barren (s : State) (n : Nat) : (s.retired n).barren = s.barren := rfl
@[simp] theorem State.retired_pageCopies (s : State) (n : Nat) : (s.retired n).pageCopies = s.pageCopies := rfl
@[simp] theorem State.retired_shootdowns (s : State) (n : Nat) : (s.retired n).shootdowns = s.shootdowns := rfl
@[simp] theorem State.retired_publications (s : State) (n : Nat) : (s.retired n).publications = s.publications := rfl
@[simp] theorem State.retired_layouts (s : State) (n : Nat) : (s.retired n).layouts = s.layouts := rfl
@[simp] theorem State.retired_steals (s : State) (n : Nat) : (s.retired n).steals = s.steals := rfl
@[simp] theorem State.retired_msgs (s : State) (n : Nat) : (s.retired n).msgs = s.msgs := rfl
@[simp] theorem State.retired_kept (s : State) (n : Nat) : (s.retired n).kept = s.kept := rfl
@[simp] theorem State.retired_msgMarks (s : State) (n : Nat) : (s.retired n).msgMarks = s.msgMarks := rfl
@[simp] theorem State.retired_msgSeqs (s : State) (n : Nat) : (s.retired n).msgSeqs = s.msgSeqs := rfl
@[simp] theorem State.retired_answers (s : State) (n : Nat) : (s.retired n).answers = s.answers := rfl
@[simp] theorem State.retired_brokenPackets (s : State) (n : Nat) : (s.retired n).brokenPackets = s.brokenPackets := rfl
@[simp] theorem State.retired_portWork (s : State) (n : Nat) : (s.retired n).portWork = s.portWork := rfl
@[simp] theorem State.retired_hubWork (s : State) (n : Nat) : (s.retired n).hubWork = s.hubWork := rfl
@[simp] theorem State.retired_dumpFaults (s : State) (n : Nat) : (s.retired n).dumpFaults = s.dumpFaults := rfl
@[simp] theorem State.retired_ringCounts (s : State) (n : Nat) : (s.retired n).ringCounts = s.ringCounts := rfl
@[simp] theorem State.retired_serial (s : State) (n : Nat) : (s.retired n).serial = s.serial := rfl
@[simp] theorem State.retired_groups (s : State) (n : Nat) : (s.retired n).groups = s.groups := rfl
@[simp] theorem State.retired_copies (s : State) (n : Nat) : (s.retired n).copies = s.copies := rfl
@[simp] theorem State.retired_stages (s : State) (n : Nat) : (s.retired n).stages = s.stages := rfl
@[simp] theorem State.retired_kernels (s : State) (n : Nat) : (s.retired n).kernels = s.kernels := rfl
@[simp] theorem State.retired_nextKernel (s : State) (n : Nat) : (s.retired n).nextKernel = s.nextKernel := rfl
@[simp] theorem State.retired_programs (s : State) (n : Nat) : (s.retired n).programs = s.programs := rfl
@[simp] theorem State.retired_trapRecords (s : State) (n : Nat) : (s.retired n).trapRecords = s.trapRecords := rfl
@[simp] theorem State.retired_stops (s : State) (n : Nat) : (s.retired n).stops = s.stops := rfl
@[simp] theorem State.retired_saved (s : State) (n : Nat) : (s.retired n).saved = s.saved := rfl
@[simp] theorem State.retired_migrations (s : State) (n : Nat) : (s.retired n).migrations = s.migrations := rfl
@[simp] theorem State.retired_kills (s : State) (n : Nat) : (s.retired n).kills = s.kills := rfl
@[simp] theorem State.retired_refusals (s : State) (n : Nat) : (s.retired n).refusals = s.refusals := rfl
@[simp] theorem State.retired_updates (s : State) (n : Nat) : (s.retired n).updates = s.updates := rfl
@[simp] theorem State.retired_requests (s : State) (n : Nat) : (s.retired n).requests = s.requests := rfl
@[simp] theorem State.retired_muted (s : State) (n : Nat) : (s.retired n).muted = s.muted := rfl
@[simp] theorem State.retired_events (s : State) (n : Nat) : (s.retired n).events = s.events := rfl
@[simp] theorem State.retired_pifo (s : State) (n : Nat) : (s.retired n).pifo = s.pifo := rfl
@[simp] theorem State.retired_queues (s : State) (n : Nat) : (s.retired n).queues = s.queues := rfl
@[simp] theorem State.retired_rank (s : State) (n : Nat) : (s.retired n).rank = s.rank := rfl
@[simp] theorem State.retired_dispatch (s : State) (n : Nat) : (s.retired n).dispatch = s.dispatch := rfl
@[simp] theorem State.retired_scans (s : State) (n : Nat) : (s.retired n).scans = s.scans := rfl
@[simp] theorem State.retired_links (s : State) (n : Nat) : (s.retired n).links = s.links := rfl
@[simp] theorem State.retired_jobs (s : State) (n : Nat) : (s.retired n).jobs = s.jobs := rfl
@[simp] theorem State.retired_routes (s : State) (n : Nat) : (s.retired n).routes = s.routes := rfl
@[simp] theorem State.retired_portSeqs (s : State) (n : Nat) : (s.retired n).portSeqs = s.portSeqs := rfl
@[simp] theorem State.retired_vfRequests (s : State) (n : Nat) : (s.retired n).vfRequests = s.vfRequests := rfl
@[simp] theorem State.retired_faultsServed (s : State) (n : Nat) : (s.retired n).faultsServed = s.faultsServed := rfl
@[simp] theorem State.retired_faultsStored (s : State) (n : Nat) : (s.retired n).faultsStored = s.faultsStored := rfl
@[simp] theorem State.retired_snapshots (s : State) (n : Nat) : (s.retired n).snapshots = s.snapshots := rfl
@[simp] theorem State.retired_latches (s : State) (n : Nat) : (s.retired n).latches = s.latches := rfl
@[simp] theorem State.retired_snap (s : State) (n : Nat) : (s.retired n).snap = s.snap := rfl
@[simp] theorem State.retired_skipped (s : State) (n : Nat) : (s.retired n).skipped = s.skipped := rfl
@[simp] theorem State.retired_rebinding (s : State) (n : Nat) : (s.retired n).rebinding = s.rebinding := rfl
@[simp] theorem State.retired_pointCommits (s : State) (n : Nat) : (s.retired n).pointCommits = s.pointCommits := rfl
@[simp] theorem State.retired_portErrors (s : State) (n : Nat) : (s.retired n).portErrors = s.portErrors := rfl
@[simp] theorem State.retired_throttled (s : State) (n : Nat) : (s.retired n).throttled = s.throttled := rfl
@[simp] theorem State.retired_bringUp (s : State) (n : Nat) : (s.retired n).bringUp = s.bringUp := rfl
@[simp] theorem State.retired_failCode (s : State) (n : Nat) : (s.retired n).failCode = s.failCode := rfl
@[simp] theorem State.retired_fuse (s : State) (n : Nat) : (s.retired n).fuse = s.fuse := rfl
@[simp] theorem State.retired_imageVersion (s : State) (n : Nat) : (s.retired n).imageVersion = s.imageVersion := rfl
@[simp] theorem State.retired_badSlices (s : State) (n : Nat) : (s.retired n).badSlices = s.badSlices := rfl
@[simp] theorem State.retired_deadDies (s : State) (n : Nat) : (s.retired n).deadDies = s.deadDies := rfl
@[simp] theorem State.retired_portsDown (s : State) (n : Nat) : (s.retired n).portsDown = s.portsDown := rfl
@[simp] theorem State.retired_nonce (s : State) (n : Nat) : (s.retired n).nonce = s.nonce := rfl
@[simp] theorem State.retired_guest (s : State) (n : Nat) : (s.retired n).guest = s.guest := rfl
@[simp] theorem State.retired_sliceVt (s : State) (n : Nat) : (s.retired n).sliceVt = s.sliceVt := rfl
@[simp] theorem State.retired_agenda (s : State) (n : Nat) : (s.retired n).agenda = s.agenda := rfl
@[simp] theorem State.retired_tick (s : State) (n : Nat) : (s.retired n).tick = s.tick := rfl
@[simp] theorem State.retired_turn (s : State) (n : Nat) : (s.retired n).turn = s.turn := rfl
@[simp] theorem State.retired_ir (s : State) (n : Nat) : (s.retired n).ir = s.ir := rfl
@[simp] theorem State.retired_stalled (s : State) (n : Nat) : (s.retired n).stalled = s.stalled := rfl
@[simp] theorem State.retired_core_id (s : State) (n : Nat) : (s.retired n).core.id = s.core.id := State.mapSlot_core_id _ _
@[simp] theorem State.retired_core_sram (s : State) (n : Nat) : (s.retired n).core.sram = s.core.sram := State.mapSlot_core_sram _ _
@[simp] theorem State.retired_core_poison (s : State) (n : Nat) : (s.retired n).core.poison = s.core.poison := State.mapSlot_core_poison _ _
@[simp] theorem State.retired_core_feat (s : State) (n : Nat) : (s.retired n).core.feat = s.core.feat := State.mapSlot_core_feat _ _
@[simp] theorem State.retired_core_entryFeat (s : State) (n : Nat) : (s.retired n).core.entryFeat = s.core.entryFeat := State.mapSlot_core_entryFeat _ _
@[simp] theorem State.retired_core_hw (s : State) (n : Nat) : (s.retired n).core.hw = s.core.hw := State.mapSlot_core_hw _ _
@[simp] theorem State.retired_core_partw (s : State) (n : Nat) : (s.retired n).core.partw = s.core.partw := State.mapSlot_core_partw _ _
@[simp] theorem State.retired_core_exb (s : State) (n : Nat) : (s.retired n).core.exb = s.core.exb := State.mapSlot_core_exb _ _
@[simp] theorem State.retired_core_codebase (s : State) (n : Nat) : (s.retired n).core.codebase = s.core.codebase := State.mapSlot_core_codebase _ _
@[simp] theorem State.retired_core_fetchbase (s : State) (n : Nat) : (s.retired n).core.fetchbase = s.core.fetchbase := State.mapSlot_core_fetchbase _ _
@[simp] theorem State.retired_core_ovld (s : State) (n : Nat) : (s.retired n).core.ovld = s.core.ovld := State.mapSlot_core_ovld _ _
@[simp] theorem State.retired_core_v (s : State) (n : Nat) : (s.retired n).core.v = s.core.v := State.mapSlot_core_v _ _
@[simp] theorem State.retired_core_k (s : State) (n : Nat) : (s.retired n).core.k = s.core.k := State.mapSlot_core_k _ _
@[simp] theorem State.retired_core_flaws (s : State) (n : Nat) : (s.retired n).core.flaws = s.core.flaws := State.mapSlot_core_flaws _ _
@[simp] theorem State.retired_core_accd (s : State) (n : Nat) : (s.retired n).core.accd = s.core.accd := State.mapSlot_core_accd _ _
@[simp] theorem State.retired_core_mshape (s : State) (n : Nat) : (s.retired n).core.mshape = s.core.mshape := State.mapSlot_core_mshape _ _
@[simp] theorem State.retired_core_net (s : State) (n : Nat) : (s.retired n).core.net = s.core.net := State.mapSlot_core_net _ _
@[simp] theorem State.retired_core_matrix (s : State) (n : Nat) : (s.retired n).core.matrix = s.core.matrix := State.mapSlot_core_matrix _ _
@[simp] theorem State.retired_core_mrun (s : State) (n : Nat) : (s.retired n).core.mrun = s.core.mrun := State.mapSlot_core_mrun _ _
@[simp] theorem State.retired_core_vector (s : State) (n : Nat) : (s.retired n).core.vector = s.core.vector := State.mapSlot_core_vector _ _
@[simp] theorem State.retired_core_copy (s : State) (n : Nat) : (s.retired n).core.copy = s.core.copy := State.mapSlot_core_copy _ _
@[simp] theorem State.retired_core_tids (s : State) (n : Nat) : (s.retired n).core.tids = s.core.tids := State.mapSlot_core_tids _ _
@[simp] theorem State.retired_core_chans (s : State) (n : Nat) : (s.retired n).core.chans = s.core.chans := State.mapSlot_core_chans _ _
@[simp] theorem State.retired_core_regions (s : State) (n : Nat) : (s.retired n).core.regions = s.core.regions := State.mapSlot_core_regions _ _
@[simp] theorem State.retired_core_dataEnd (s : State) (n : Nat) : (s.retired n).core.dataEnd = s.core.dataEnd := State.mapSlot_core_dataEnd _ _
@[simp] theorem State.retired_core_dataOfs (s : State) (n : Nat) : (s.retired n).core.dataOfs = s.core.dataOfs := State.mapSlot_core_dataOfs _ _
@[simp] theorem State.retired_core_program (s : State) (n : Nat) : (s.retired n).core.program = s.core.program := State.mapSlot_core_program _ _
@[simp] theorem State.retired_core_tlb (s : State) (n : Nat) : (s.retired n).core.tlb = s.core.tlb := State.mapSlot_core_tlb _ _
@[simp] theorem State.retired_core_detected (s : State) (n : Nat) : (s.retired n).core.detected = s.core.detected := State.mapSlot_core_detected _ _
@[simp] theorem State.retired_core_alloc (s : State) (n : Nat) : (s.retired n).core.alloc = s.core.alloc := State.mapSlot_core_alloc _ _
@[simp] theorem State.retired_core_lastVf (s : State) (n : Nat) : (s.retired n).core.lastVf = s.core.lastVf := State.mapSlot_core_lastVf _ _
@[simp] theorem State.retired_core_lastCtx (s : State) (n : Nat) : (s.retired n).core.lastCtx = s.core.lastCtx := State.mapSlot_core_lastCtx _ _
@[simp] theorem State.retired_core_reserved (s : State) (n : Nat) : (s.retired n).core.reserved = s.core.reserved := State.mapSlot_core_reserved _ _
@[simp] theorem State.retired_core_heldBefore (s : State) (n : Nat) : (s.retired n).core.heldBefore = s.core.heldBefore := State.mapSlot_core_heldBefore _ _
@[simp] theorem State.retired_core_log (s : State) (n : Nat) : (s.retired n).core.log = s.core.log := State.mapSlot_core_log _ _
@[simp] theorem State.jumped_others (s : State) (p : Word) : (s.jumped p).others = s.others := rfl
@[simp] theorem State.jumped_sel (s : State) (p : Word) : (s.jumped p).sel = s.sel := rfl
@[simp] theorem State.jumped_device (s : State) (p : Word) : (s.jumped p).device = s.device := rfl
@[simp] theorem State.jumped_epoch (s : State) (p : Word) : (s.jumped p).epoch = s.epoch := rfl
@[simp] theorem State.jumped_vt (s : State) (p : Word) : (s.jumped p).vt = s.vt := rfl
@[simp] theorem State.jumped_hbm (s : State) (p : Word) : (s.jumped p).hbm = s.hbm := rfl
@[simp] theorem State.jumped_hbmPoison (s : State) (p : Word) : (s.jumped p).hbmPoison = s.hbmPoison := rfl
@[simp] theorem State.jumped_stamps (s : State) (p : Word) : (s.jumped p).stamps = s.stamps := rfl
@[simp] theorem State.jumped_host (s : State) (p : Word) : (s.jumped p).host = s.host := rfl
@[simp] theorem State.jumped_stores (s : State) (p : Word) : (s.jumped p).stores = s.stores := rfl
@[simp] theorem State.jumped_marks (s : State) (p : Word) : (s.jumped p).marks = s.marks := rfl
@[simp] theorem State.jumped_results (s : State) (p : Word) : (s.jumped p).results = s.results := rfl
@[simp] theorem State.jumped_early (s : State) (p : Word) : (s.jumped p).early = s.early := rfl
@[simp] theorem State.jumped_samples (s : State) (p : Word) : (s.jumped p).samples = s.samples := rfl
@[simp] theorem State.jumped_beacons (s : State) (p : Word) : (s.jumped p).beacons = s.beacons := rfl
@[simp] theorem State.jumped_published (s : State) (p : Word) : (s.jumped p).published = s.published := rfl
@[simp] theorem State.jumped_nodes (s : State) (p : Word) : (s.jumped p).nodes = s.nodes := rfl
@[simp] theorem State.jumped_remotes (s : State) (p : Word) : (s.jumped p).remotes = s.remotes := rfl
@[simp] theorem State.jumped_contexts (s : State) (p : Word) : (s.jumped p).contexts = s.contexts := rfl
@[simp] theorem State.jumped_nextNode (s : State) (p : Word) : (s.jumped p).nextNode = s.nextNode := rfl
@[simp] theorem State.jumped_nextVersion (s : State) (p : Word) : (s.jumped p).nextVersion = s.nextVersion := rfl
@[simp] theorem State.jumped_freeFrames (s : State) (p : Word) : (s.jumped p).freeFrames = s.freeFrames := rfl
@[simp] theorem State.jumped_lingering (s : State) (p : Word) : (s.jumped p).lingering = s.lingering := rfl
@[simp] theorem State.jumped_sectorTlb (s : State) (p : Word) : (s.jumped p).sectorTlb = s.sectorTlb := rfl
@[simp] theorem State.jumped_sectorHandles (s : State) (p : Word) : (s.jumped p).sectorHandles = s.sectorHandles := rfl
@[simp] theorem State.jumped_beaconOut (s : State) (p : Word) : (s.jumped p).beaconOut = s.beaconOut := rfl
@[simp] theorem State.jumped_misses (s : State) (p : Word) : (s.jumped p).misses = s.misses := rfl
@[simp] theorem State.jumped_barren (s : State) (p : Word) : (s.jumped p).barren = s.barren := rfl
@[simp] theorem State.jumped_pageCopies (s : State) (p : Word) : (s.jumped p).pageCopies = s.pageCopies := rfl
@[simp] theorem State.jumped_shootdowns (s : State) (p : Word) : (s.jumped p).shootdowns = s.shootdowns := rfl
@[simp] theorem State.jumped_publications (s : State) (p : Word) : (s.jumped p).publications = s.publications := rfl
@[simp] theorem State.jumped_layouts (s : State) (p : Word) : (s.jumped p).layouts = s.layouts := rfl
@[simp] theorem State.jumped_steals (s : State) (p : Word) : (s.jumped p).steals = s.steals := rfl
@[simp] theorem State.jumped_msgs (s : State) (p : Word) : (s.jumped p).msgs = s.msgs := rfl
@[simp] theorem State.jumped_kept (s : State) (p : Word) : (s.jumped p).kept = s.kept := rfl
@[simp] theorem State.jumped_msgMarks (s : State) (p : Word) : (s.jumped p).msgMarks = s.msgMarks := rfl
@[simp] theorem State.jumped_msgSeqs (s : State) (p : Word) : (s.jumped p).msgSeqs = s.msgSeqs := rfl
@[simp] theorem State.jumped_answers (s : State) (p : Word) : (s.jumped p).answers = s.answers := rfl
@[simp] theorem State.jumped_brokenPackets (s : State) (p : Word) : (s.jumped p).brokenPackets = s.brokenPackets := rfl
@[simp] theorem State.jumped_portWork (s : State) (p : Word) : (s.jumped p).portWork = s.portWork := rfl
@[simp] theorem State.jumped_hubWork (s : State) (p : Word) : (s.jumped p).hubWork = s.hubWork := rfl
@[simp] theorem State.jumped_dumpFaults (s : State) (p : Word) : (s.jumped p).dumpFaults = s.dumpFaults := rfl
@[simp] theorem State.jumped_ringCounts (s : State) (p : Word) : (s.jumped p).ringCounts = s.ringCounts := rfl
@[simp] theorem State.jumped_serial (s : State) (p : Word) : (s.jumped p).serial = s.serial := rfl
@[simp] theorem State.jumped_groups (s : State) (p : Word) : (s.jumped p).groups = s.groups := rfl
@[simp] theorem State.jumped_copies (s : State) (p : Word) : (s.jumped p).copies = s.copies := rfl
@[simp] theorem State.jumped_stages (s : State) (p : Word) : (s.jumped p).stages = s.stages := rfl
@[simp] theorem State.jumped_kernels (s : State) (p : Word) : (s.jumped p).kernels = s.kernels := rfl
@[simp] theorem State.jumped_nextKernel (s : State) (p : Word) : (s.jumped p).nextKernel = s.nextKernel := rfl
@[simp] theorem State.jumped_programs (s : State) (p : Word) : (s.jumped p).programs = s.programs := rfl
@[simp] theorem State.jumped_trapRecords (s : State) (p : Word) : (s.jumped p).trapRecords = s.trapRecords := rfl
@[simp] theorem State.jumped_stops (s : State) (p : Word) : (s.jumped p).stops = s.stops := rfl
@[simp] theorem State.jumped_saved (s : State) (p : Word) : (s.jumped p).saved = s.saved := rfl
@[simp] theorem State.jumped_migrations (s : State) (p : Word) : (s.jumped p).migrations = s.migrations := rfl
@[simp] theorem State.jumped_kills (s : State) (p : Word) : (s.jumped p).kills = s.kills := rfl
@[simp] theorem State.jumped_refusals (s : State) (p : Word) : (s.jumped p).refusals = s.refusals := rfl
@[simp] theorem State.jumped_updates (s : State) (p : Word) : (s.jumped p).updates = s.updates := rfl
@[simp] theorem State.jumped_requests (s : State) (p : Word) : (s.jumped p).requests = s.requests := rfl
@[simp] theorem State.jumped_muted (s : State) (p : Word) : (s.jumped p).muted = s.muted := rfl
@[simp] theorem State.jumped_events (s : State) (p : Word) : (s.jumped p).events = s.events := rfl
@[simp] theorem State.jumped_pifo (s : State) (p : Word) : (s.jumped p).pifo = s.pifo := rfl
@[simp] theorem State.jumped_queues (s : State) (p : Word) : (s.jumped p).queues = s.queues := rfl
@[simp] theorem State.jumped_rank (s : State) (p : Word) : (s.jumped p).rank = s.rank := rfl
@[simp] theorem State.jumped_dispatch (s : State) (p : Word) : (s.jumped p).dispatch = s.dispatch := rfl
@[simp] theorem State.jumped_scans (s : State) (p : Word) : (s.jumped p).scans = s.scans := rfl
@[simp] theorem State.jumped_links (s : State) (p : Word) : (s.jumped p).links = s.links := rfl
@[simp] theorem State.jumped_jobs (s : State) (p : Word) : (s.jumped p).jobs = s.jobs := rfl
@[simp] theorem State.jumped_routes (s : State) (p : Word) : (s.jumped p).routes = s.routes := rfl
@[simp] theorem State.jumped_portSeqs (s : State) (p : Word) : (s.jumped p).portSeqs = s.portSeqs := rfl
@[simp] theorem State.jumped_vfRequests (s : State) (p : Word) : (s.jumped p).vfRequests = s.vfRequests := rfl
@[simp] theorem State.jumped_faultsServed (s : State) (p : Word) : (s.jumped p).faultsServed = s.faultsServed := rfl
@[simp] theorem State.jumped_faultsStored (s : State) (p : Word) : (s.jumped p).faultsStored = s.faultsStored := rfl
@[simp] theorem State.jumped_snapshots (s : State) (p : Word) : (s.jumped p).snapshots = s.snapshots := rfl
@[simp] theorem State.jumped_latches (s : State) (p : Word) : (s.jumped p).latches = s.latches := rfl
@[simp] theorem State.jumped_snap (s : State) (p : Word) : (s.jumped p).snap = s.snap := rfl
@[simp] theorem State.jumped_skipped (s : State) (p : Word) : (s.jumped p).skipped = s.skipped := rfl
@[simp] theorem State.jumped_rebinding (s : State) (p : Word) : (s.jumped p).rebinding = s.rebinding := rfl
@[simp] theorem State.jumped_pointCommits (s : State) (p : Word) : (s.jumped p).pointCommits = s.pointCommits := rfl
@[simp] theorem State.jumped_portErrors (s : State) (p : Word) : (s.jumped p).portErrors = s.portErrors := rfl
@[simp] theorem State.jumped_throttled (s : State) (p : Word) : (s.jumped p).throttled = s.throttled := rfl
@[simp] theorem State.jumped_bringUp (s : State) (p : Word) : (s.jumped p).bringUp = s.bringUp := rfl
@[simp] theorem State.jumped_failCode (s : State) (p : Word) : (s.jumped p).failCode = s.failCode := rfl
@[simp] theorem State.jumped_fuse (s : State) (p : Word) : (s.jumped p).fuse = s.fuse := rfl
@[simp] theorem State.jumped_imageVersion (s : State) (p : Word) : (s.jumped p).imageVersion = s.imageVersion := rfl
@[simp] theorem State.jumped_badSlices (s : State) (p : Word) : (s.jumped p).badSlices = s.badSlices := rfl
@[simp] theorem State.jumped_deadDies (s : State) (p : Word) : (s.jumped p).deadDies = s.deadDies := rfl
@[simp] theorem State.jumped_portsDown (s : State) (p : Word) : (s.jumped p).portsDown = s.portsDown := rfl
@[simp] theorem State.jumped_nonce (s : State) (p : Word) : (s.jumped p).nonce = s.nonce := rfl
@[simp] theorem State.jumped_guest (s : State) (p : Word) : (s.jumped p).guest = s.guest := rfl
@[simp] theorem State.jumped_sliceVt (s : State) (p : Word) : (s.jumped p).sliceVt = s.sliceVt := rfl
@[simp] theorem State.jumped_agenda (s : State) (p : Word) : (s.jumped p).agenda = s.agenda := rfl
@[simp] theorem State.jumped_tick (s : State) (p : Word) : (s.jumped p).tick = s.tick := rfl
@[simp] theorem State.jumped_turn (s : State) (p : Word) : (s.jumped p).turn = s.turn := rfl
@[simp] theorem State.jumped_ir (s : State) (p : Word) : (s.jumped p).ir = s.ir := rfl
@[simp] theorem State.jumped_stalled (s : State) (p : Word) : (s.jumped p).stalled = s.stalled := rfl
@[simp] theorem State.jumped_core_id (s : State) (p : Word) : (s.jumped p).core.id = s.core.id := State.mapSlot_core_id _ _
@[simp] theorem State.jumped_core_sram (s : State) (p : Word) : (s.jumped p).core.sram = s.core.sram := State.mapSlot_core_sram _ _
@[simp] theorem State.jumped_core_poison (s : State) (p : Word) : (s.jumped p).core.poison = s.core.poison := State.mapSlot_core_poison _ _
@[simp] theorem State.jumped_core_feat (s : State) (p : Word) : (s.jumped p).core.feat = s.core.feat := State.mapSlot_core_feat _ _
@[simp] theorem State.jumped_core_entryFeat (s : State) (p : Word) : (s.jumped p).core.entryFeat = s.core.entryFeat := State.mapSlot_core_entryFeat _ _
@[simp] theorem State.jumped_core_hw (s : State) (p : Word) : (s.jumped p).core.hw = s.core.hw := State.mapSlot_core_hw _ _
@[simp] theorem State.jumped_core_partw (s : State) (p : Word) : (s.jumped p).core.partw = s.core.partw := State.mapSlot_core_partw _ _
@[simp] theorem State.jumped_core_exb (s : State) (p : Word) : (s.jumped p).core.exb = s.core.exb := State.mapSlot_core_exb _ _
@[simp] theorem State.jumped_core_codebase (s : State) (p : Word) : (s.jumped p).core.codebase = s.core.codebase := State.mapSlot_core_codebase _ _
@[simp] theorem State.jumped_core_fetchbase (s : State) (p : Word) : (s.jumped p).core.fetchbase = s.core.fetchbase := State.mapSlot_core_fetchbase _ _
@[simp] theorem State.jumped_core_ovld (s : State) (p : Word) : (s.jumped p).core.ovld = s.core.ovld := State.mapSlot_core_ovld _ _
@[simp] theorem State.jumped_core_v (s : State) (p : Word) : (s.jumped p).core.v = s.core.v := State.mapSlot_core_v _ _
@[simp] theorem State.jumped_core_k (s : State) (p : Word) : (s.jumped p).core.k = s.core.k := State.mapSlot_core_k _ _
@[simp] theorem State.jumped_core_flaws (s : State) (p : Word) : (s.jumped p).core.flaws = s.core.flaws := State.mapSlot_core_flaws _ _
@[simp] theorem State.jumped_core_accd (s : State) (p : Word) : (s.jumped p).core.accd = s.core.accd := State.mapSlot_core_accd _ _
@[simp] theorem State.jumped_core_mshape (s : State) (p : Word) : (s.jumped p).core.mshape = s.core.mshape := State.mapSlot_core_mshape _ _
@[simp] theorem State.jumped_core_net (s : State) (p : Word) : (s.jumped p).core.net = s.core.net := State.mapSlot_core_net _ _
@[simp] theorem State.jumped_core_matrix (s : State) (p : Word) : (s.jumped p).core.matrix = s.core.matrix := State.mapSlot_core_matrix _ _
@[simp] theorem State.jumped_core_mrun (s : State) (p : Word) : (s.jumped p).core.mrun = s.core.mrun := State.mapSlot_core_mrun _ _
@[simp] theorem State.jumped_core_vector (s : State) (p : Word) : (s.jumped p).core.vector = s.core.vector := State.mapSlot_core_vector _ _
@[simp] theorem State.jumped_core_copy (s : State) (p : Word) : (s.jumped p).core.copy = s.core.copy := State.mapSlot_core_copy _ _
@[simp] theorem State.jumped_core_tids (s : State) (p : Word) : (s.jumped p).core.tids = s.core.tids := State.mapSlot_core_tids _ _
@[simp] theorem State.jumped_core_chans (s : State) (p : Word) : (s.jumped p).core.chans = s.core.chans := State.mapSlot_core_chans _ _
@[simp] theorem State.jumped_core_regions (s : State) (p : Word) : (s.jumped p).core.regions = s.core.regions := State.mapSlot_core_regions _ _
@[simp] theorem State.jumped_core_dataEnd (s : State) (p : Word) : (s.jumped p).core.dataEnd = s.core.dataEnd := State.mapSlot_core_dataEnd _ _
@[simp] theorem State.jumped_core_dataOfs (s : State) (p : Word) : (s.jumped p).core.dataOfs = s.core.dataOfs := State.mapSlot_core_dataOfs _ _
@[simp] theorem State.jumped_core_program (s : State) (p : Word) : (s.jumped p).core.program = s.core.program := State.mapSlot_core_program _ _
@[simp] theorem State.jumped_core_tlb (s : State) (p : Word) : (s.jumped p).core.tlb = s.core.tlb := State.mapSlot_core_tlb _ _
@[simp] theorem State.jumped_core_detected (s : State) (p : Word) : (s.jumped p).core.detected = s.core.detected := State.mapSlot_core_detected _ _
@[simp] theorem State.jumped_core_alloc (s : State) (p : Word) : (s.jumped p).core.alloc = s.core.alloc := State.mapSlot_core_alloc _ _
@[simp] theorem State.jumped_core_lastVf (s : State) (p : Word) : (s.jumped p).core.lastVf = s.core.lastVf := State.mapSlot_core_lastVf _ _
@[simp] theorem State.jumped_core_lastCtx (s : State) (p : Word) : (s.jumped p).core.lastCtx = s.core.lastCtx := State.mapSlot_core_lastCtx _ _
@[simp] theorem State.jumped_core_reserved (s : State) (p : Word) : (s.jumped p).core.reserved = s.core.reserved := State.mapSlot_core_reserved _ _
@[simp] theorem State.jumped_core_heldBefore (s : State) (p : Word) : (s.jumped p).core.heldBefore = s.core.heldBefore := State.mapSlot_core_heldBefore _ _
@[simp] theorem State.jumped_core_log (s : State) (p : Word) : (s.jumped p).core.log = s.core.log := State.mapSlot_core_log _ _
@[simp] theorem State.opened_others (s : State) (n : Nat) (r : GReg) (la : BitVec 4) : (s.opened n r la).others = s.others := rfl
@[simp] theorem State.opened_sel (s : State) (n : Nat) (r : GReg) (la : BitVec 4) : (s.opened n r la).sel = s.sel := rfl
@[simp] theorem State.opened_device (s : State) (n : Nat) (r : GReg) (la : BitVec 4) : (s.opened n r la).device = s.device := rfl
@[simp] theorem State.opened_epoch (s : State) (n : Nat) (r : GReg) (la : BitVec 4) : (s.opened n r la).epoch = s.epoch := rfl
@[simp] theorem State.opened_vt (s : State) (n : Nat) (r : GReg) (la : BitVec 4) : (s.opened n r la).vt = s.vt := rfl
@[simp] theorem State.opened_hbm (s : State) (n : Nat) (r : GReg) (la : BitVec 4) : (s.opened n r la).hbm = s.hbm := rfl
@[simp] theorem State.opened_hbmPoison (s : State) (n : Nat) (r : GReg) (la : BitVec 4) : (s.opened n r la).hbmPoison = s.hbmPoison := rfl
@[simp] theorem State.opened_stamps (s : State) (n : Nat) (r : GReg) (la : BitVec 4) : (s.opened n r la).stamps = s.stamps := rfl
@[simp] theorem State.opened_host (s : State) (n : Nat) (r : GReg) (la : BitVec 4) : (s.opened n r la).host = s.host := rfl
@[simp] theorem State.opened_stores (s : State) (n : Nat) (r : GReg) (la : BitVec 4) : (s.opened n r la).stores = s.stores := rfl
@[simp] theorem State.opened_marks (s : State) (n : Nat) (r : GReg) (la : BitVec 4) : (s.opened n r la).marks = s.marks := rfl
@[simp] theorem State.opened_results (s : State) (n : Nat) (r : GReg) (la : BitVec 4) : (s.opened n r la).results = s.results := rfl
@[simp] theorem State.opened_early (s : State) (n : Nat) (r : GReg) (la : BitVec 4) : (s.opened n r la).early = s.early := rfl
@[simp] theorem State.opened_samples (s : State) (n : Nat) (r : GReg) (la : BitVec 4) : (s.opened n r la).samples = s.samples := rfl
@[simp] theorem State.opened_beacons (s : State) (n : Nat) (r : GReg) (la : BitVec 4) : (s.opened n r la).beacons = s.beacons := rfl
@[simp] theorem State.opened_published (s : State) (n : Nat) (r : GReg) (la : BitVec 4) : (s.opened n r la).published = s.published := rfl
@[simp] theorem State.opened_nodes (s : State) (n : Nat) (r : GReg) (la : BitVec 4) : (s.opened n r la).nodes = s.nodes := rfl
@[simp] theorem State.opened_remotes (s : State) (n : Nat) (r : GReg) (la : BitVec 4) : (s.opened n r la).remotes = s.remotes := rfl
@[simp] theorem State.opened_contexts (s : State) (n : Nat) (r : GReg) (la : BitVec 4) : (s.opened n r la).contexts = s.contexts := rfl
@[simp] theorem State.opened_nextNode (s : State) (n : Nat) (r : GReg) (la : BitVec 4) : (s.opened n r la).nextNode = s.nextNode := rfl
@[simp] theorem State.opened_nextVersion (s : State) (n : Nat) (r : GReg) (la : BitVec 4) : (s.opened n r la).nextVersion = s.nextVersion := rfl
@[simp] theorem State.opened_freeFrames (s : State) (n : Nat) (r : GReg) (la : BitVec 4) : (s.opened n r la).freeFrames = s.freeFrames := rfl
@[simp] theorem State.opened_lingering (s : State) (n : Nat) (r : GReg) (la : BitVec 4) : (s.opened n r la).lingering = s.lingering := rfl
@[simp] theorem State.opened_sectorTlb (s : State) (n : Nat) (r : GReg) (la : BitVec 4) : (s.opened n r la).sectorTlb = s.sectorTlb := rfl
@[simp] theorem State.opened_sectorHandles (s : State) (n : Nat) (r : GReg) (la : BitVec 4) : (s.opened n r la).sectorHandles = s.sectorHandles := rfl
@[simp] theorem State.opened_beaconOut (s : State) (n : Nat) (r : GReg) (la : BitVec 4) : (s.opened n r la).beaconOut = s.beaconOut := rfl
@[simp] theorem State.opened_misses (s : State) (n : Nat) (r : GReg) (la : BitVec 4) : (s.opened n r la).misses = s.misses := rfl
@[simp] theorem State.opened_barren (s : State) (n : Nat) (r : GReg) (la : BitVec 4) : (s.opened n r la).barren = s.barren := rfl
@[simp] theorem State.opened_pageCopies (s : State) (n : Nat) (r : GReg) (la : BitVec 4) : (s.opened n r la).pageCopies = s.pageCopies := rfl
@[simp] theorem State.opened_shootdowns (s : State) (n : Nat) (r : GReg) (la : BitVec 4) : (s.opened n r la).shootdowns = s.shootdowns := rfl
@[simp] theorem State.opened_publications (s : State) (n : Nat) (r : GReg) (la : BitVec 4) : (s.opened n r la).publications = s.publications := rfl
@[simp] theorem State.opened_layouts (s : State) (n : Nat) (r : GReg) (la : BitVec 4) : (s.opened n r la).layouts = s.layouts := rfl
@[simp] theorem State.opened_steals (s : State) (n : Nat) (r : GReg) (la : BitVec 4) : (s.opened n r la).steals = s.steals := rfl
@[simp] theorem State.opened_msgs (s : State) (n : Nat) (r : GReg) (la : BitVec 4) : (s.opened n r la).msgs = s.msgs := rfl
@[simp] theorem State.opened_kept (s : State) (n : Nat) (r : GReg) (la : BitVec 4) : (s.opened n r la).kept = s.kept := rfl
@[simp] theorem State.opened_msgMarks (s : State) (n : Nat) (r : GReg) (la : BitVec 4) : (s.opened n r la).msgMarks = s.msgMarks := rfl
@[simp] theorem State.opened_msgSeqs (s : State) (n : Nat) (r : GReg) (la : BitVec 4) : (s.opened n r la).msgSeqs = s.msgSeqs := rfl
@[simp] theorem State.opened_answers (s : State) (n : Nat) (r : GReg) (la : BitVec 4) : (s.opened n r la).answers = s.answers := rfl
@[simp] theorem State.opened_brokenPackets (s : State) (n : Nat) (r : GReg) (la : BitVec 4) : (s.opened n r la).brokenPackets = s.brokenPackets := rfl
@[simp] theorem State.opened_portWork (s : State) (n : Nat) (r : GReg) (la : BitVec 4) : (s.opened n r la).portWork = s.portWork := rfl
@[simp] theorem State.opened_hubWork (s : State) (n : Nat) (r : GReg) (la : BitVec 4) : (s.opened n r la).hubWork = s.hubWork := rfl
@[simp] theorem State.opened_dumpFaults (s : State) (n : Nat) (r : GReg) (la : BitVec 4) : (s.opened n r la).dumpFaults = s.dumpFaults := rfl
@[simp] theorem State.opened_ringCounts (s : State) (n : Nat) (r : GReg) (la : BitVec 4) : (s.opened n r la).ringCounts = s.ringCounts := rfl
@[simp] theorem State.opened_serial (s : State) (n : Nat) (r : GReg) (la : BitVec 4) : (s.opened n r la).serial = s.serial := rfl
@[simp] theorem State.opened_groups (s : State) (n : Nat) (r : GReg) (la : BitVec 4) : (s.opened n r la).groups = s.groups := rfl
@[simp] theorem State.opened_copies (s : State) (n : Nat) (r : GReg) (la : BitVec 4) : (s.opened n r la).copies = s.copies := rfl
@[simp] theorem State.opened_stages (s : State) (n : Nat) (r : GReg) (la : BitVec 4) : (s.opened n r la).stages = s.stages := rfl
@[simp] theorem State.opened_kernels (s : State) (n : Nat) (r : GReg) (la : BitVec 4) : (s.opened n r la).kernels = s.kernels := rfl
@[simp] theorem State.opened_nextKernel (s : State) (n : Nat) (r : GReg) (la : BitVec 4) : (s.opened n r la).nextKernel = s.nextKernel := rfl
@[simp] theorem State.opened_programs (s : State) (n : Nat) (r : GReg) (la : BitVec 4) : (s.opened n r la).programs = s.programs := rfl
@[simp] theorem State.opened_trapRecords (s : State) (n : Nat) (r : GReg) (la : BitVec 4) : (s.opened n r la).trapRecords = s.trapRecords := rfl
@[simp] theorem State.opened_stops (s : State) (n : Nat) (r : GReg) (la : BitVec 4) : (s.opened n r la).stops = s.stops := rfl
@[simp] theorem State.opened_saved (s : State) (n : Nat) (r : GReg) (la : BitVec 4) : (s.opened n r la).saved = s.saved := rfl
@[simp] theorem State.opened_migrations (s : State) (n : Nat) (r : GReg) (la : BitVec 4) : (s.opened n r la).migrations = s.migrations := rfl
@[simp] theorem State.opened_kills (s : State) (n : Nat) (r : GReg) (la : BitVec 4) : (s.opened n r la).kills = s.kills := rfl
@[simp] theorem State.opened_refusals (s : State) (n : Nat) (r : GReg) (la : BitVec 4) : (s.opened n r la).refusals = s.refusals := rfl
@[simp] theorem State.opened_updates (s : State) (n : Nat) (r : GReg) (la : BitVec 4) : (s.opened n r la).updates = s.updates := rfl
@[simp] theorem State.opened_requests (s : State) (n : Nat) (r : GReg) (la : BitVec 4) : (s.opened n r la).requests = s.requests := rfl
@[simp] theorem State.opened_muted (s : State) (n : Nat) (r : GReg) (la : BitVec 4) : (s.opened n r la).muted = s.muted := rfl
@[simp] theorem State.opened_events (s : State) (n : Nat) (r : GReg) (la : BitVec 4) : (s.opened n r la).events = s.events := rfl
@[simp] theorem State.opened_pifo (s : State) (n : Nat) (r : GReg) (la : BitVec 4) : (s.opened n r la).pifo = s.pifo := rfl
@[simp] theorem State.opened_queues (s : State) (n : Nat) (r : GReg) (la : BitVec 4) : (s.opened n r la).queues = s.queues := rfl
@[simp] theorem State.opened_rank (s : State) (n : Nat) (r : GReg) (la : BitVec 4) : (s.opened n r la).rank = s.rank := rfl
@[simp] theorem State.opened_dispatch (s : State) (n : Nat) (r : GReg) (la : BitVec 4) : (s.opened n r la).dispatch = s.dispatch := rfl
@[simp] theorem State.opened_scans (s : State) (n : Nat) (r : GReg) (la : BitVec 4) : (s.opened n r la).scans = s.scans := rfl
@[simp] theorem State.opened_links (s : State) (n : Nat) (r : GReg) (la : BitVec 4) : (s.opened n r la).links = s.links := rfl
@[simp] theorem State.opened_jobs (s : State) (n : Nat) (r : GReg) (la : BitVec 4) : (s.opened n r la).jobs = s.jobs := rfl
@[simp] theorem State.opened_routes (s : State) (n : Nat) (r : GReg) (la : BitVec 4) : (s.opened n r la).routes = s.routes := rfl
@[simp] theorem State.opened_portSeqs (s : State) (n : Nat) (r : GReg) (la : BitVec 4) : (s.opened n r la).portSeqs = s.portSeqs := rfl
@[simp] theorem State.opened_vfRequests (s : State) (n : Nat) (r : GReg) (la : BitVec 4) : (s.opened n r la).vfRequests = s.vfRequests := rfl
@[simp] theorem State.opened_faultsServed (s : State) (n : Nat) (r : GReg) (la : BitVec 4) : (s.opened n r la).faultsServed = s.faultsServed := rfl
@[simp] theorem State.opened_faultsStored (s : State) (n : Nat) (r : GReg) (la : BitVec 4) : (s.opened n r la).faultsStored = s.faultsStored := rfl
@[simp] theorem State.opened_snapshots (s : State) (n : Nat) (r : GReg) (la : BitVec 4) : (s.opened n r la).snapshots = s.snapshots := rfl
@[simp] theorem State.opened_latches (s : State) (n : Nat) (r : GReg) (la : BitVec 4) : (s.opened n r la).latches = s.latches := rfl
@[simp] theorem State.opened_snap (s : State) (n : Nat) (r : GReg) (la : BitVec 4) : (s.opened n r la).snap = s.snap := rfl
@[simp] theorem State.opened_skipped (s : State) (n : Nat) (r : GReg) (la : BitVec 4) : (s.opened n r la).skipped = s.skipped := rfl
@[simp] theorem State.opened_rebinding (s : State) (n : Nat) (r : GReg) (la : BitVec 4) : (s.opened n r la).rebinding = s.rebinding := rfl
@[simp] theorem State.opened_pointCommits (s : State) (n : Nat) (r : GReg) (la : BitVec 4) : (s.opened n r la).pointCommits = s.pointCommits := rfl
@[simp] theorem State.opened_portErrors (s : State) (n : Nat) (r : GReg) (la : BitVec 4) : (s.opened n r la).portErrors = s.portErrors := rfl
@[simp] theorem State.opened_throttled (s : State) (n : Nat) (r : GReg) (la : BitVec 4) : (s.opened n r la).throttled = s.throttled := rfl
@[simp] theorem State.opened_bringUp (s : State) (n : Nat) (r : GReg) (la : BitVec 4) : (s.opened n r la).bringUp = s.bringUp := rfl
@[simp] theorem State.opened_failCode (s : State) (n : Nat) (r : GReg) (la : BitVec 4) : (s.opened n r la).failCode = s.failCode := rfl
@[simp] theorem State.opened_fuse (s : State) (n : Nat) (r : GReg) (la : BitVec 4) : (s.opened n r la).fuse = s.fuse := rfl
@[simp] theorem State.opened_imageVersion (s : State) (n : Nat) (r : GReg) (la : BitVec 4) : (s.opened n r la).imageVersion = s.imageVersion := rfl
@[simp] theorem State.opened_badSlices (s : State) (n : Nat) (r : GReg) (la : BitVec 4) : (s.opened n r la).badSlices = s.badSlices := rfl
@[simp] theorem State.opened_deadDies (s : State) (n : Nat) (r : GReg) (la : BitVec 4) : (s.opened n r la).deadDies = s.deadDies := rfl
@[simp] theorem State.opened_portsDown (s : State) (n : Nat) (r : GReg) (la : BitVec 4) : (s.opened n r la).portsDown = s.portsDown := rfl
@[simp] theorem State.opened_nonce (s : State) (n : Nat) (r : GReg) (la : BitVec 4) : (s.opened n r la).nonce = s.nonce := rfl
@[simp] theorem State.opened_guest (s : State) (n : Nat) (r : GReg) (la : BitVec 4) : (s.opened n r la).guest = s.guest := rfl
@[simp] theorem State.opened_sliceVt (s : State) (n : Nat) (r : GReg) (la : BitVec 4) : (s.opened n r la).sliceVt = s.sliceVt := rfl
@[simp] theorem State.opened_agenda (s : State) (n : Nat) (r : GReg) (la : BitVec 4) : (s.opened n r la).agenda = s.agenda := rfl
@[simp] theorem State.opened_tick (s : State) (n : Nat) (r : GReg) (la : BitVec 4) : (s.opened n r la).tick = s.tick := rfl
@[simp] theorem State.opened_turn (s : State) (n : Nat) (r : GReg) (la : BitVec 4) : (s.opened n r la).turn = s.turn := rfl
@[simp] theorem State.opened_ir (s : State) (n : Nat) (r : GReg) (la : BitVec 4) : (s.opened n r la).ir = s.ir := rfl
@[simp] theorem State.opened_stalled (s : State) (n : Nat) (r : GReg) (la : BitVec 4) : (s.opened n r la).stalled = s.stalled := rfl
@[simp] theorem State.opened_core_id (s : State) (n : Nat) (r : GReg) (la : BitVec 4) : (s.opened n r la).core.id = s.core.id := State.mapSlot_core_id _ _
@[simp] theorem State.opened_core_sram (s : State) (n : Nat) (r : GReg) (la : BitVec 4) : (s.opened n r la).core.sram = s.core.sram := State.mapSlot_core_sram _ _
@[simp] theorem State.opened_core_poison (s : State) (n : Nat) (r : GReg) (la : BitVec 4) : (s.opened n r la).core.poison = s.core.poison := State.mapSlot_core_poison _ _
@[simp] theorem State.opened_core_feat (s : State) (n : Nat) (r : GReg) (la : BitVec 4) : (s.opened n r la).core.feat = s.core.feat := State.mapSlot_core_feat _ _
@[simp] theorem State.opened_core_entryFeat (s : State) (n : Nat) (r : GReg) (la : BitVec 4) : (s.opened n r la).core.entryFeat = s.core.entryFeat := State.mapSlot_core_entryFeat _ _
@[simp] theorem State.opened_core_hw (s : State) (n : Nat) (r : GReg) (la : BitVec 4) : (s.opened n r la).core.hw = s.core.hw := State.mapSlot_core_hw _ _
@[simp] theorem State.opened_core_partw (s : State) (n : Nat) (r : GReg) (la : BitVec 4) : (s.opened n r la).core.partw = s.core.partw := State.mapSlot_core_partw _ _
@[simp] theorem State.opened_core_exb (s : State) (n : Nat) (r : GReg) (la : BitVec 4) : (s.opened n r la).core.exb = s.core.exb := State.mapSlot_core_exb _ _
@[simp] theorem State.opened_core_codebase (s : State) (n : Nat) (r : GReg) (la : BitVec 4) : (s.opened n r la).core.codebase = s.core.codebase := State.mapSlot_core_codebase _ _
@[simp] theorem State.opened_core_fetchbase (s : State) (n : Nat) (r : GReg) (la : BitVec 4) : (s.opened n r la).core.fetchbase = s.core.fetchbase := State.mapSlot_core_fetchbase _ _
@[simp] theorem State.opened_core_ovld (s : State) (n : Nat) (r : GReg) (la : BitVec 4) : (s.opened n r la).core.ovld = s.core.ovld := State.mapSlot_core_ovld _ _
@[simp] theorem State.opened_core_v (s : State) (n : Nat) (r : GReg) (la : BitVec 4) : (s.opened n r la).core.v = s.core.v := State.mapSlot_core_v _ _
@[simp] theorem State.opened_core_k (s : State) (n : Nat) (r : GReg) (la : BitVec 4) : (s.opened n r la).core.k = s.core.k := State.mapSlot_core_k _ _
@[simp] theorem State.opened_core_flaws (s : State) (n : Nat) (r : GReg) (la : BitVec 4) : (s.opened n r la).core.flaws = s.core.flaws := State.mapSlot_core_flaws _ _
@[simp] theorem State.opened_core_accd (s : State) (n : Nat) (r : GReg) (la : BitVec 4) : (s.opened n r la).core.accd = s.core.accd := State.mapSlot_core_accd _ _
@[simp] theorem State.opened_core_mshape (s : State) (n : Nat) (r : GReg) (la : BitVec 4) : (s.opened n r la).core.mshape = s.core.mshape := State.mapSlot_core_mshape _ _
@[simp] theorem State.opened_core_net (s : State) (n : Nat) (r : GReg) (la : BitVec 4) : (s.opened n r la).core.net = s.core.net := State.mapSlot_core_net _ _
@[simp] theorem State.opened_core_matrix (s : State) (n : Nat) (r : GReg) (la : BitVec 4) : (s.opened n r la).core.matrix = s.core.matrix := State.mapSlot_core_matrix _ _
@[simp] theorem State.opened_core_mrun (s : State) (n : Nat) (r : GReg) (la : BitVec 4) : (s.opened n r la).core.mrun = s.core.mrun := State.mapSlot_core_mrun _ _
@[simp] theorem State.opened_core_vector (s : State) (n : Nat) (r : GReg) (la : BitVec 4) : (s.opened n r la).core.vector = s.core.vector := State.mapSlot_core_vector _ _
@[simp] theorem State.opened_core_copy (s : State) (n : Nat) (r : GReg) (la : BitVec 4) : (s.opened n r la).core.copy = s.core.copy := State.mapSlot_core_copy _ _
@[simp] theorem State.opened_core_tids (s : State) (n : Nat) (r : GReg) (la : BitVec 4) : (s.opened n r la).core.tids = s.core.tids := State.mapSlot_core_tids _ _
@[simp] theorem State.opened_core_chans (s : State) (n : Nat) (r : GReg) (la : BitVec 4) : (s.opened n r la).core.chans = s.core.chans := State.mapSlot_core_chans _ _
@[simp] theorem State.opened_core_regions (s : State) (n : Nat) (r : GReg) (la : BitVec 4) : (s.opened n r la).core.regions = s.core.regions := State.mapSlot_core_regions _ _
@[simp] theorem State.opened_core_dataEnd (s : State) (n : Nat) (r : GReg) (la : BitVec 4) : (s.opened n r la).core.dataEnd = s.core.dataEnd := State.mapSlot_core_dataEnd _ _
@[simp] theorem State.opened_core_dataOfs (s : State) (n : Nat) (r : GReg) (la : BitVec 4) : (s.opened n r la).core.dataOfs = s.core.dataOfs := State.mapSlot_core_dataOfs _ _
@[simp] theorem State.opened_core_program (s : State) (n : Nat) (r : GReg) (la : BitVec 4) : (s.opened n r la).core.program = s.core.program := State.mapSlot_core_program _ _
@[simp] theorem State.opened_core_tlb (s : State) (n : Nat) (r : GReg) (la : BitVec 4) : (s.opened n r la).core.tlb = s.core.tlb := State.mapSlot_core_tlb _ _
@[simp] theorem State.opened_core_detected (s : State) (n : Nat) (r : GReg) (la : BitVec 4) : (s.opened n r la).core.detected = s.core.detected := State.mapSlot_core_detected _ _
@[simp] theorem State.opened_core_alloc (s : State) (n : Nat) (r : GReg) (la : BitVec 4) : (s.opened n r la).core.alloc = s.core.alloc := State.mapSlot_core_alloc _ _
@[simp] theorem State.opened_core_lastVf (s : State) (n : Nat) (r : GReg) (la : BitVec 4) : (s.opened n r la).core.lastVf = s.core.lastVf := State.mapSlot_core_lastVf _ _
@[simp] theorem State.opened_core_lastCtx (s : State) (n : Nat) (r : GReg) (la : BitVec 4) : (s.opened n r la).core.lastCtx = s.core.lastCtx := State.mapSlot_core_lastCtx _ _
@[simp] theorem State.opened_core_reserved (s : State) (n : Nat) (r : GReg) (la : BitVec 4) : (s.opened n r la).core.reserved = s.core.reserved := State.mapSlot_core_reserved _ _
@[simp] theorem State.opened_core_heldBefore (s : State) (n : Nat) (r : GReg) (la : BitVec 4) : (s.opened n r la).core.heldBefore = s.core.heldBefore := State.mapSlot_core_heldBefore _ _
@[simp] theorem State.opened_core_log (s : State) (n : Nat) (r : GReg) (la : BitVec 4) : (s.opened n r la).core.log = s.core.log := State.mapSlot_core_log _ _

/-! ### Writing a g register -/

@[simp] theorem State.setG_others (s : State) (r : GReg) (x : Word) : (s.setG r x).others = s.others := by unfold State.setG; split <;> rfl
@[simp] theorem State.setG_sel (s : State) (r : GReg) (x : Word) : (s.setG r x).sel = s.sel := by unfold State.setG; split <;> rfl
@[simp] theorem State.setG_device (s : State) (r : GReg) (x : Word) : (s.setG r x).device = s.device := by unfold State.setG; split <;> rfl
@[simp] theorem State.setG_epoch (s : State) (r : GReg) (x : Word) : (s.setG r x).epoch = s.epoch := by unfold State.setG; split <;> rfl
@[simp] theorem State.setG_vt (s : State) (r : GReg) (x : Word) : (s.setG r x).vt = s.vt := by unfold State.setG; split <;> rfl
@[simp] theorem State.setG_hbm (s : State) (r : GReg) (x : Word) : (s.setG r x).hbm = s.hbm := by unfold State.setG; split <;> rfl
@[simp] theorem State.setG_hbmPoison (s : State) (r : GReg) (x : Word) : (s.setG r x).hbmPoison = s.hbmPoison := by unfold State.setG; split <;> rfl
@[simp] theorem State.setG_stamps (s : State) (r : GReg) (x : Word) : (s.setG r x).stamps = s.stamps := by unfold State.setG; split <;> rfl
@[simp] theorem State.setG_host (s : State) (r : GReg) (x : Word) : (s.setG r x).host = s.host := by unfold State.setG; split <;> rfl
@[simp] theorem State.setG_stores (s : State) (r : GReg) (x : Word) : (s.setG r x).stores = s.stores := by unfold State.setG; split <;> rfl
@[simp] theorem State.setG_marks (s : State) (r : GReg) (x : Word) : (s.setG r x).marks = s.marks := by unfold State.setG; split <;> rfl
@[simp] theorem State.setG_results (s : State) (r : GReg) (x : Word) : (s.setG r x).results = s.results := by unfold State.setG; split <;> rfl
@[simp] theorem State.setG_early (s : State) (r : GReg) (x : Word) : (s.setG r x).early = s.early := by unfold State.setG; split <;> rfl
@[simp] theorem State.setG_samples (s : State) (r : GReg) (x : Word) : (s.setG r x).samples = s.samples := by unfold State.setG; split <;> rfl
@[simp] theorem State.setG_beacons (s : State) (r : GReg) (x : Word) : (s.setG r x).beacons = s.beacons := by unfold State.setG; split <;> rfl
@[simp] theorem State.setG_published (s : State) (r : GReg) (x : Word) : (s.setG r x).published = s.published := by unfold State.setG; split <;> rfl
@[simp] theorem State.setG_nodes (s : State) (r : GReg) (x : Word) : (s.setG r x).nodes = s.nodes := by unfold State.setG; split <;> rfl
@[simp] theorem State.setG_remotes (s : State) (r : GReg) (x : Word) : (s.setG r x).remotes = s.remotes := by unfold State.setG; split <;> rfl
@[simp] theorem State.setG_contexts (s : State) (r : GReg) (x : Word) : (s.setG r x).contexts = s.contexts := by unfold State.setG; split <;> rfl
@[simp] theorem State.setG_nextNode (s : State) (r : GReg) (x : Word) : (s.setG r x).nextNode = s.nextNode := by unfold State.setG; split <;> rfl
@[simp] theorem State.setG_nextVersion (s : State) (r : GReg) (x : Word) : (s.setG r x).nextVersion = s.nextVersion := by unfold State.setG; split <;> rfl
@[simp] theorem State.setG_freeFrames (s : State) (r : GReg) (x : Word) : (s.setG r x).freeFrames = s.freeFrames := by unfold State.setG; split <;> rfl
@[simp] theorem State.setG_lingering (s : State) (r : GReg) (x : Word) : (s.setG r x).lingering = s.lingering := by unfold State.setG; split <;> rfl
@[simp] theorem State.setG_sectorTlb (s : State) (r : GReg) (x : Word) : (s.setG r x).sectorTlb = s.sectorTlb := by unfold State.setG; split <;> rfl
@[simp] theorem State.setG_sectorHandles (s : State) (r : GReg) (x : Word) : (s.setG r x).sectorHandles = s.sectorHandles := by unfold State.setG; split <;> rfl
@[simp] theorem State.setG_beaconOut (s : State) (r : GReg) (x : Word) : (s.setG r x).beaconOut = s.beaconOut := by unfold State.setG; split <;> rfl
@[simp] theorem State.setG_misses (s : State) (r : GReg) (x : Word) : (s.setG r x).misses = s.misses := by unfold State.setG; split <;> rfl
@[simp] theorem State.setG_barren (s : State) (r : GReg) (x : Word) : (s.setG r x).barren = s.barren := by unfold State.setG; split <;> rfl
@[simp] theorem State.setG_pageCopies (s : State) (r : GReg) (x : Word) : (s.setG r x).pageCopies = s.pageCopies := by unfold State.setG; split <;> rfl
@[simp] theorem State.setG_shootdowns (s : State) (r : GReg) (x : Word) : (s.setG r x).shootdowns = s.shootdowns := by unfold State.setG; split <;> rfl
@[simp] theorem State.setG_publications (s : State) (r : GReg) (x : Word) : (s.setG r x).publications = s.publications := by unfold State.setG; split <;> rfl
@[simp] theorem State.setG_layouts (s : State) (r : GReg) (x : Word) : (s.setG r x).layouts = s.layouts := by unfold State.setG; split <;> rfl
@[simp] theorem State.setG_steals (s : State) (r : GReg) (x : Word) : (s.setG r x).steals = s.steals := by unfold State.setG; split <;> rfl
@[simp] theorem State.setG_msgs (s : State) (r : GReg) (x : Word) : (s.setG r x).msgs = s.msgs := by unfold State.setG; split <;> rfl
@[simp] theorem State.setG_kept (s : State) (r : GReg) (x : Word) : (s.setG r x).kept = s.kept := by unfold State.setG; split <;> rfl
@[simp] theorem State.setG_msgMarks (s : State) (r : GReg) (x : Word) : (s.setG r x).msgMarks = s.msgMarks := by unfold State.setG; split <;> rfl
@[simp] theorem State.setG_msgSeqs (s : State) (r : GReg) (x : Word) : (s.setG r x).msgSeqs = s.msgSeqs := by unfold State.setG; split <;> rfl
@[simp] theorem State.setG_answers (s : State) (r : GReg) (x : Word) : (s.setG r x).answers = s.answers := by unfold State.setG; split <;> rfl
@[simp] theorem State.setG_brokenPackets (s : State) (r : GReg) (x : Word) : (s.setG r x).brokenPackets = s.brokenPackets := by unfold State.setG; split <;> rfl
@[simp] theorem State.setG_portWork (s : State) (r : GReg) (x : Word) : (s.setG r x).portWork = s.portWork := by unfold State.setG; split <;> rfl
@[simp] theorem State.setG_hubWork (s : State) (r : GReg) (x : Word) : (s.setG r x).hubWork = s.hubWork := by unfold State.setG; split <;> rfl
@[simp] theorem State.setG_dumpFaults (s : State) (r : GReg) (x : Word) : (s.setG r x).dumpFaults = s.dumpFaults := by unfold State.setG; split <;> rfl
@[simp] theorem State.setG_ringCounts (s : State) (r : GReg) (x : Word) : (s.setG r x).ringCounts = s.ringCounts := by unfold State.setG; split <;> rfl
@[simp] theorem State.setG_serial (s : State) (r : GReg) (x : Word) : (s.setG r x).serial = s.serial := by unfold State.setG; split <;> rfl
@[simp] theorem State.setG_groups (s : State) (r : GReg) (x : Word) : (s.setG r x).groups = s.groups := by unfold State.setG; split <;> rfl
@[simp] theorem State.setG_copies (s : State) (r : GReg) (x : Word) : (s.setG r x).copies = s.copies := by unfold State.setG; split <;> rfl
@[simp] theorem State.setG_stages (s : State) (r : GReg) (x : Word) : (s.setG r x).stages = s.stages := by unfold State.setG; split <;> rfl
@[simp] theorem State.setG_kernels (s : State) (r : GReg) (x : Word) : (s.setG r x).kernels = s.kernels := by unfold State.setG; split <;> rfl
@[simp] theorem State.setG_nextKernel (s : State) (r : GReg) (x : Word) : (s.setG r x).nextKernel = s.nextKernel := by unfold State.setG; split <;> rfl
@[simp] theorem State.setG_programs (s : State) (r : GReg) (x : Word) : (s.setG r x).programs = s.programs := by unfold State.setG; split <;> rfl
@[simp] theorem State.setG_trapRecords (s : State) (r : GReg) (x : Word) : (s.setG r x).trapRecords = s.trapRecords := by unfold State.setG; split <;> rfl
@[simp] theorem State.setG_stops (s : State) (r : GReg) (x : Word) : (s.setG r x).stops = s.stops := by unfold State.setG; split <;> rfl
@[simp] theorem State.setG_saved (s : State) (r : GReg) (x : Word) : (s.setG r x).saved = s.saved := by unfold State.setG; split <;> rfl
@[simp] theorem State.setG_migrations (s : State) (r : GReg) (x : Word) : (s.setG r x).migrations = s.migrations := by unfold State.setG; split <;> rfl
@[simp] theorem State.setG_kills (s : State) (r : GReg) (x : Word) : (s.setG r x).kills = s.kills := by unfold State.setG; split <;> rfl
@[simp] theorem State.setG_refusals (s : State) (r : GReg) (x : Word) : (s.setG r x).refusals = s.refusals := by unfold State.setG; split <;> rfl
@[simp] theorem State.setG_updates (s : State) (r : GReg) (x : Word) : (s.setG r x).updates = s.updates := by unfold State.setG; split <;> rfl
@[simp] theorem State.setG_requests (s : State) (r : GReg) (x : Word) : (s.setG r x).requests = s.requests := by unfold State.setG; split <;> rfl
@[simp] theorem State.setG_muted (s : State) (r : GReg) (x : Word) : (s.setG r x).muted = s.muted := by unfold State.setG; split <;> rfl
@[simp] theorem State.setG_events (s : State) (r : GReg) (x : Word) : (s.setG r x).events = s.events := by unfold State.setG; split <;> rfl
@[simp] theorem State.setG_pifo (s : State) (r : GReg) (x : Word) : (s.setG r x).pifo = s.pifo := by unfold State.setG; split <;> rfl
@[simp] theorem State.setG_queues (s : State) (r : GReg) (x : Word) : (s.setG r x).queues = s.queues := by unfold State.setG; split <;> rfl
@[simp] theorem State.setG_rank (s : State) (r : GReg) (x : Word) : (s.setG r x).rank = s.rank := by unfold State.setG; split <;> rfl
@[simp] theorem State.setG_dispatch (s : State) (r : GReg) (x : Word) : (s.setG r x).dispatch = s.dispatch := by unfold State.setG; split <;> rfl
@[simp] theorem State.setG_scans (s : State) (r : GReg) (x : Word) : (s.setG r x).scans = s.scans := by unfold State.setG; split <;> rfl
@[simp] theorem State.setG_links (s : State) (r : GReg) (x : Word) : (s.setG r x).links = s.links := by unfold State.setG; split <;> rfl
@[simp] theorem State.setG_jobs (s : State) (r : GReg) (x : Word) : (s.setG r x).jobs = s.jobs := by unfold State.setG; split <;> rfl
@[simp] theorem State.setG_routes (s : State) (r : GReg) (x : Word) : (s.setG r x).routes = s.routes := by unfold State.setG; split <;> rfl
@[simp] theorem State.setG_portSeqs (s : State) (r : GReg) (x : Word) : (s.setG r x).portSeqs = s.portSeqs := by unfold State.setG; split <;> rfl
@[simp] theorem State.setG_vfRequests (s : State) (r : GReg) (x : Word) : (s.setG r x).vfRequests = s.vfRequests := by unfold State.setG; split <;> rfl
@[simp] theorem State.setG_faultsServed (s : State) (r : GReg) (x : Word) : (s.setG r x).faultsServed = s.faultsServed := by unfold State.setG; split <;> rfl
@[simp] theorem State.setG_faultsStored (s : State) (r : GReg) (x : Word) : (s.setG r x).faultsStored = s.faultsStored := by unfold State.setG; split <;> rfl
@[simp] theorem State.setG_snapshots (s : State) (r : GReg) (x : Word) : (s.setG r x).snapshots = s.snapshots := by unfold State.setG; split <;> rfl
@[simp] theorem State.setG_latches (s : State) (r : GReg) (x : Word) : (s.setG r x).latches = s.latches := by unfold State.setG; split <;> rfl
@[simp] theorem State.setG_snap (s : State) (r : GReg) (x : Word) : (s.setG r x).snap = s.snap := by unfold State.setG; split <;> rfl
@[simp] theorem State.setG_skipped (s : State) (r : GReg) (x : Word) : (s.setG r x).skipped = s.skipped := by unfold State.setG; split <;> rfl
@[simp] theorem State.setG_rebinding (s : State) (r : GReg) (x : Word) : (s.setG r x).rebinding = s.rebinding := by unfold State.setG; split <;> rfl
@[simp] theorem State.setG_pointCommits (s : State) (r : GReg) (x : Word) : (s.setG r x).pointCommits = s.pointCommits := by unfold State.setG; split <;> rfl
@[simp] theorem State.setG_portErrors (s : State) (r : GReg) (x : Word) : (s.setG r x).portErrors = s.portErrors := by unfold State.setG; split <;> rfl
@[simp] theorem State.setG_throttled (s : State) (r : GReg) (x : Word) : (s.setG r x).throttled = s.throttled := by unfold State.setG; split <;> rfl
@[simp] theorem State.setG_bringUp (s : State) (r : GReg) (x : Word) : (s.setG r x).bringUp = s.bringUp := by unfold State.setG; split <;> rfl
@[simp] theorem State.setG_failCode (s : State) (r : GReg) (x : Word) : (s.setG r x).failCode = s.failCode := by unfold State.setG; split <;> rfl
@[simp] theorem State.setG_fuse (s : State) (r : GReg) (x : Word) : (s.setG r x).fuse = s.fuse := by unfold State.setG; split <;> rfl
@[simp] theorem State.setG_imageVersion (s : State) (r : GReg) (x : Word) : (s.setG r x).imageVersion = s.imageVersion := by unfold State.setG; split <;> rfl
@[simp] theorem State.setG_badSlices (s : State) (r : GReg) (x : Word) : (s.setG r x).badSlices = s.badSlices := by unfold State.setG; split <;> rfl
@[simp] theorem State.setG_deadDies (s : State) (r : GReg) (x : Word) : (s.setG r x).deadDies = s.deadDies := by unfold State.setG; split <;> rfl
@[simp] theorem State.setG_portsDown (s : State) (r : GReg) (x : Word) : (s.setG r x).portsDown = s.portsDown := by unfold State.setG; split <;> rfl
@[simp] theorem State.setG_nonce (s : State) (r : GReg) (x : Word) : (s.setG r x).nonce = s.nonce := by unfold State.setG; split <;> rfl
@[simp] theorem State.setG_guest (s : State) (r : GReg) (x : Word) : (s.setG r x).guest = s.guest := by unfold State.setG; split <;> rfl
@[simp] theorem State.setG_sliceVt (s : State) (r : GReg) (x : Word) : (s.setG r x).sliceVt = s.sliceVt := by unfold State.setG; split <;> rfl
@[simp] theorem State.setG_agenda (s : State) (r : GReg) (x : Word) : (s.setG r x).agenda = s.agenda := by unfold State.setG; split <;> rfl
@[simp] theorem State.setG_tick (s : State) (r : GReg) (x : Word) : (s.setG r x).tick = s.tick := by unfold State.setG; split <;> rfl
@[simp] theorem State.setG_turn (s : State) (r : GReg) (x : Word) : (s.setG r x).turn = s.turn := by unfold State.setG; split <;> rfl
@[simp] theorem State.setG_ir (s : State) (r : GReg) (x : Word) : (s.setG r x).ir = s.ir := by unfold State.setG; split <;> rfl
@[simp] theorem State.setG_stalled (s : State) (r : GReg) (x : Word) : (s.setG r x).stalled = s.stalled := by unfold State.setG; split <;> rfl
@[simp] theorem State.setG_core_id (s : State) (r : GReg) (x : Word) : (s.setG r x).core.id = s.core.id := by unfold State.setG; split <;> simp
@[simp] theorem State.setG_core_sram (s : State) (r : GReg) (x : Word) : (s.setG r x).core.sram = s.core.sram := by unfold State.setG; split <;> simp
@[simp] theorem State.setG_core_poison (s : State) (r : GReg) (x : Word) : (s.setG r x).core.poison = s.core.poison := by unfold State.setG; split <;> simp
@[simp] theorem State.setG_core_feat (s : State) (r : GReg) (x : Word) : (s.setG r x).core.feat = s.core.feat := by unfold State.setG; split <;> simp
@[simp] theorem State.setG_core_entryFeat (s : State) (r : GReg) (x : Word) : (s.setG r x).core.entryFeat = s.core.entryFeat := by unfold State.setG; split <;> simp
@[simp] theorem State.setG_core_hw (s : State) (r : GReg) (x : Word) : (s.setG r x).core.hw = s.core.hw := by unfold State.setG; split <;> simp
@[simp] theorem State.setG_core_partw (s : State) (r : GReg) (x : Word) : (s.setG r x).core.partw = s.core.partw := by unfold State.setG; split <;> simp
@[simp] theorem State.setG_core_exb (s : State) (r : GReg) (x : Word) : (s.setG r x).core.exb = s.core.exb := by unfold State.setG; split <;> simp
@[simp] theorem State.setG_core_codebase (s : State) (r : GReg) (x : Word) : (s.setG r x).core.codebase = s.core.codebase := by unfold State.setG; split <;> simp
@[simp] theorem State.setG_core_fetchbase (s : State) (r : GReg) (x : Word) : (s.setG r x).core.fetchbase = s.core.fetchbase := by unfold State.setG; split <;> simp
@[simp] theorem State.setG_core_ovld (s : State) (r : GReg) (x : Word) : (s.setG r x).core.ovld = s.core.ovld := by unfold State.setG; split <;> simp
@[simp] theorem State.setG_core_v (s : State) (r : GReg) (x : Word) : (s.setG r x).core.v = s.core.v := by unfold State.setG; split <;> simp
@[simp] theorem State.setG_core_k (s : State) (r : GReg) (x : Word) : (s.setG r x).core.k = s.core.k := by unfold State.setG; split <;> simp
@[simp] theorem State.setG_core_flaws (s : State) (r : GReg) (x : Word) : (s.setG r x).core.flaws = s.core.flaws := by unfold State.setG; split <;> simp
@[simp] theorem State.setG_core_accd (s : State) (r : GReg) (x : Word) : (s.setG r x).core.accd = s.core.accd := by unfold State.setG; split <;> simp
@[simp] theorem State.setG_core_mshape (s : State) (r : GReg) (x : Word) : (s.setG r x).core.mshape = s.core.mshape := by unfold State.setG; split <;> simp
@[simp] theorem State.setG_core_net (s : State) (r : GReg) (x : Word) : (s.setG r x).core.net = s.core.net := by unfold State.setG; split <;> simp
@[simp] theorem State.setG_core_matrix (s : State) (r : GReg) (x : Word) : (s.setG r x).core.matrix = s.core.matrix := by unfold State.setG; split <;> simp
@[simp] theorem State.setG_core_mrun (s : State) (r : GReg) (x : Word) : (s.setG r x).core.mrun = s.core.mrun := by unfold State.setG; split <;> simp
@[simp] theorem State.setG_core_vector (s : State) (r : GReg) (x : Word) : (s.setG r x).core.vector = s.core.vector := by unfold State.setG; split <;> simp
@[simp] theorem State.setG_core_copy (s : State) (r : GReg) (x : Word) : (s.setG r x).core.copy = s.core.copy := by unfold State.setG; split <;> simp
@[simp] theorem State.setG_core_tids (s : State) (r : GReg) (x : Word) : (s.setG r x).core.tids = s.core.tids := by unfold State.setG; split <;> simp
@[simp] theorem State.setG_core_chans (s : State) (r : GReg) (x : Word) : (s.setG r x).core.chans = s.core.chans := by unfold State.setG; split <;> simp
@[simp] theorem State.setG_core_regions (s : State) (r : GReg) (x : Word) : (s.setG r x).core.regions = s.core.regions := by unfold State.setG; split <;> simp
@[simp] theorem State.setG_core_dataEnd (s : State) (r : GReg) (x : Word) : (s.setG r x).core.dataEnd = s.core.dataEnd := by unfold State.setG; split <;> simp
@[simp] theorem State.setG_core_dataOfs (s : State) (r : GReg) (x : Word) : (s.setG r x).core.dataOfs = s.core.dataOfs := by unfold State.setG; split <;> simp
@[simp] theorem State.setG_core_program (s : State) (r : GReg) (x : Word) : (s.setG r x).core.program = s.core.program := by unfold State.setG; split <;> simp
@[simp] theorem State.setG_core_tlb (s : State) (r : GReg) (x : Word) : (s.setG r x).core.tlb = s.core.tlb := by unfold State.setG; split <;> simp
@[simp] theorem State.setG_core_detected (s : State) (r : GReg) (x : Word) : (s.setG r x).core.detected = s.core.detected := by unfold State.setG; split <;> simp
@[simp] theorem State.setG_core_alloc (s : State) (r : GReg) (x : Word) : (s.setG r x).core.alloc = s.core.alloc := by unfold State.setG; split <;> simp
@[simp] theorem State.setG_core_lastVf (s : State) (r : GReg) (x : Word) : (s.setG r x).core.lastVf = s.core.lastVf := by unfold State.setG; split <;> simp
@[simp] theorem State.setG_core_lastCtx (s : State) (r : GReg) (x : Word) : (s.setG r x).core.lastCtx = s.core.lastCtx := by unfold State.setG; split <;> simp
@[simp] theorem State.setG_core_reserved (s : State) (r : GReg) (x : Word) : (s.setG r x).core.reserved = s.core.reserved := by unfold State.setG; split <;> simp
@[simp] theorem State.setG_core_heldBefore (s : State) (r : GReg) (x : Word) : (s.setG r x).core.heldBefore = s.core.heldBefore := by unfold State.setG; split <;> simp
@[simp] theorem State.setG_core_log (s : State) (r : GReg) (x : Word) : (s.setG r x).core.log = s.core.log := by unfold State.setG; split <;> simp
@[simp] theorem State.setG_slot_e (s : State) (r : GReg) (x : Word) : (s.setG r x).slot.e = s.slot.e := by unfold State.setG; split <;> simp
@[simp] theorem State.setG_slot_w (s : State) (r : GReg) (x : Word) : (s.setG r x).slot.w = s.slot.w := by unfold State.setG; split <;> simp
@[simp] theorem State.setG_slot_pc (s : State) (r : GReg) (x : Word) : (s.setG r x).slot.pc = s.slot.pc := by unfold State.setG; split <;> simp
@[simp] theorem State.setG_slot_gtid (s : State) (r : GReg) (x : Word) : (s.setG r x).slot.gtid = s.slot.gtid := by unfold State.setG; split <;> simp
@[simp] theorem State.setG_slot_repc (s : State) (r : GReg) (x : Word) : (s.setG r x).slot.repc = s.slot.repc := by unfold State.setG; split <;> simp
@[simp] theorem State.setG_slot_law (s : State) (r : GReg) (x : Word) : (s.setG r x).slot.law = s.slot.law := by unfold State.setG; split <;> simp
@[simp] theorem State.setG_slot_trapv (s : State) (r : GReg) (x : Word) : (s.setG r x).slot.trapv = s.slot.trapv := by unfold State.setG; split <;> simp
@[simp] theorem State.setG_slot_tcause (s : State) (r : GReg) (x : Word) : (s.setG r x).slot.tcause = s.slot.tcause := by unfold State.setG; split <;> simp
@[simp] theorem State.setG_slot_tpc (s : State) (r : GReg) (x : Word) : (s.setG r x).slot.tpc = s.slot.tpc := by unfold State.setG; split <;> simp
@[simp] theorem State.setG_slot_tval (s : State) (r : GReg) (x : Word) : (s.setG r x).slot.tval = s.slot.tval := by unfold State.setG; split <;> simp
@[simp] theorem State.setG_slot_rect (s : State) (r : GReg) (x : Word) : (s.setG r x).slot.rect = s.slot.rect := by unfold State.setG; split <;> simp
@[simp] theorem State.setG_slot_dealpat (s : State) (r : GReg) (x : Word) : (s.setG r x).slot.dealpat = s.slot.dealpat := by unfold State.setG; split <;> simp
@[simp] theorem State.setG_slot_windows (s : State) (r : GReg) (x : Word) : (s.setG r x).slot.windows = s.slot.windows := by unfold State.setG; split <;> simp
@[simp] theorem State.setG_slot_rep (s : State) (r : GReg) (x : Word) : (s.setG r x).slot.rep = s.slot.rep := by unfold State.setG; split <;> simp
@[simp] theorem State.setG_slot_resume (s : State) (r : GReg) (x : Word) : (s.setG r x).slot.resume = s.slot.resume := by unfold State.setG; split <;> simp
@[simp] theorem State.setG_slot_skip (s : State) (r : GReg) (x : Word) : (s.setG r x).slot.skip = s.slot.skip := by unfold State.setG; split <;> simp
@[simp] theorem State.setG_slot_latch (s : State) (r : GReg) (x : Word) : (s.setG r x).slot.latch = s.slot.latch := by unfold State.setG; split <;> simp
@[simp] theorem State.setG_slot_first (s : State) (r : GReg) (x : Word) : (s.setG r x).slot.first = s.slot.first := by unfold State.setG; split <;> simp
@[simp] theorem State.setG_slot_run (s : State) (r : GReg) (x : Word) : (s.setG r x).slot.run = s.slot.run := by unfold State.setG; split <;> simp
@[simp] theorem State.setG_slot_stepping (s : State) (r : GReg) (x : Word) : (s.setG r x).slot.stepping = s.slot.stepping := by unfold State.setG; split <;> simp
@[simp] theorem State.setG_slot_stepLater (s : State) (r : GReg) (x : Word) : (s.setG r x).slot.stepLater = s.slot.stepLater := by unfold State.setG; split <;> simp
@[simp] theorem State.setG_slot_fetchbase (s : State) (r : GReg) (x : Word) : (s.setG r x).slot.fetchbase = s.slot.fetchbase := by unfold State.setG; split <;> simp
@[simp] theorem State.setG_slot_gap (s : State) (r : GReg) (x : Word) : (s.setG r x).slot.gap = s.slot.gap := by unfold State.setG; split <;> simp
@[simp] theorem State.setG_slot_request (s : State) (r : GReg) (x : Word) : (s.setG r x).slot.request = s.slot.request := by unfold State.setG; split <;> simp
@[simp] theorem State.setG_slot_stop (s : State) (r : GReg) (x : Word) : (s.setG r x).slot.stop = s.slot.stop := by unfold State.setG; split <;> simp
@[simp] theorem State.setG_slot_streams (s : State) (r : GReg) (x : Word) : (s.setG r x).slot.streams = s.slot.streams := by unfold State.setG; split <;> simp
@[simp] theorem State.setG_slot_priv (s : State) (r : GReg) (x : Word) : (s.setG r x).slot.priv = s.slot.priv := by unfold State.setG; split <;> simp
@[simp] theorem State.setG_slot_ctx (s : State) (r : GReg) (x : Word) : (s.setG r x).slot.ctx = s.slot.ctx := by unfold State.setG; split <;> simp
@[simp] theorem State.setG_slot_kernel (s : State) (r : GReg) (x : Word) : (s.setG r x).slot.kernel = s.slot.kernel := by unfold State.setG; split <;> simp
@[simp] theorem State.setG_slot_chan (s : State) (r : GReg) (x : Word) : (s.setG r x).slot.chan = s.slot.chan := by unfold State.setG; split <;> simp
@[simp] theorem State.setG_slot_trigger (s : State) (r : GReg) (x : Word) : (s.setG r x).slot.trigger = s.slot.trigger := by unfold State.setG; split <;> simp
@[simp] theorem State.setG_slot_took (s : State) (r : GReg) (x : Word) : (s.setG r x).slot.took = s.slot.took := by unfold State.setG; split <;> simp
@[simp] theorem State.setG_slot_dirty (s : State) (r : GReg) (x : Word) : (s.setG r x).slot.dirty = s.slot.dirty := by unfold State.setG; split <;> simp
@[simp] theorem State.setG_slot_usedVector (s : State) (r : GReg) (x : Word) : (s.setG r x).slot.usedVector = s.slot.usedVector := by unfold State.setG; split <;> simp
@[simp] theorem State.setG_slot_held (s : State) (r : GReg) (x : Word) : (s.setG r x).slot.held = s.slot.held := by unfold State.setG; split <;> simp
@[simp] theorem State.setG_slot_points (s : State) (r : GReg) (x : Word) : (s.setG r x).slot.points = s.slot.points := by unfold State.setG; split <;> simp
@[simp] theorem State.setG_slot_pointsVt (s : State) (r : GReg) (x : Word) : (s.setG r x).slot.pointsVt = s.slot.pointsVt := by unfold State.setG; split <;> simp
@[simp] theorem State.setG_slot_drainVt (s : State) (r : GReg) (x : Word) : (s.setG r x).slot.drainVt = s.slot.drainVt := by unfold State.setG; split <;> simp
@[simp] theorem State.setG_slot_cwait (s : State) (r : GReg) (x : Word) : (s.setG r x).slot.cwait = s.slot.cwait := by unfold State.setG; split <;> simp
@[simp] theorem State.setG_slot_owed (s : State) (r : GReg) (x : Word) : (s.setG r x).slot.owed = s.slot.owed := by unfold State.setG; split <;> simp
@[simp] theorem State.setG_slot_haltVt (s : State) (r : GReg) (x : Word) : (s.setG r x).slot.haltVt = s.slot.haltVt := by unfold State.setG; split <;> simp
@[simp] theorem State.setG_slot_rows (s : State) (r : GReg) (x : Word) : (s.setG r x).slot.rows = s.slot.rows := by unfold State.setG; split <;> simp
@[simp] theorem State.setE_slot_g (s : State) (r : EReg) (x : Word) : (s.setE r x).slot.g = s.slot.g := by simp [State.setE]
@[simp] theorem State.setE_slot_w (s : State) (r : EReg) (x : Word) : (s.setE r x).slot.w = s.slot.w := by simp [State.setE]
@[simp] theorem State.setE_slot_pc (s : State) (r : EReg) (x : Word) : (s.setE r x).slot.pc = s.slot.pc := by simp [State.setE]
@[simp] theorem State.setE_slot_gtid (s : State) (r : EReg) (x : Word) : (s.setE r x).slot.gtid = s.slot.gtid := by simp [State.setE]
@[simp] theorem State.setE_slot_repc (s : State) (r : EReg) (x : Word) : (s.setE r x).slot.repc = s.slot.repc := by simp [State.setE]
@[simp] theorem State.setE_slot_law (s : State) (r : EReg) (x : Word) : (s.setE r x).slot.law = s.slot.law := by simp [State.setE]
@[simp] theorem State.setE_slot_trapv (s : State) (r : EReg) (x : Word) : (s.setE r x).slot.trapv = s.slot.trapv := by simp [State.setE]
@[simp] theorem State.setE_slot_tcause (s : State) (r : EReg) (x : Word) : (s.setE r x).slot.tcause = s.slot.tcause := by simp [State.setE]
@[simp] theorem State.setE_slot_tpc (s : State) (r : EReg) (x : Word) : (s.setE r x).slot.tpc = s.slot.tpc := by simp [State.setE]
@[simp] theorem State.setE_slot_tval (s : State) (r : EReg) (x : Word) : (s.setE r x).slot.tval = s.slot.tval := by simp [State.setE]
@[simp] theorem State.setE_slot_rect (s : State) (r : EReg) (x : Word) : (s.setE r x).slot.rect = s.slot.rect := by simp [State.setE]
@[simp] theorem State.setE_slot_dealpat (s : State) (r : EReg) (x : Word) : (s.setE r x).slot.dealpat = s.slot.dealpat := by simp [State.setE]
@[simp] theorem State.setE_slot_windows (s : State) (r : EReg) (x : Word) : (s.setE r x).slot.windows = s.slot.windows := by simp [State.setE]
@[simp] theorem State.setE_slot_rep (s : State) (r : EReg) (x : Word) : (s.setE r x).slot.rep = s.slot.rep := by simp [State.setE]
@[simp] theorem State.setE_slot_resume (s : State) (r : EReg) (x : Word) : (s.setE r x).slot.resume = s.slot.resume := by simp [State.setE]
@[simp] theorem State.setE_slot_skip (s : State) (r : EReg) (x : Word) : (s.setE r x).slot.skip = s.slot.skip := by simp [State.setE]
@[simp] theorem State.setE_slot_latch (s : State) (r : EReg) (x : Word) : (s.setE r x).slot.latch = s.slot.latch := by simp [State.setE]
@[simp] theorem State.setE_slot_first (s : State) (r : EReg) (x : Word) : (s.setE r x).slot.first = s.slot.first := by simp [State.setE]
@[simp] theorem State.setE_slot_run (s : State) (r : EReg) (x : Word) : (s.setE r x).slot.run = s.slot.run := by simp [State.setE]
@[simp] theorem State.setE_slot_stepping (s : State) (r : EReg) (x : Word) : (s.setE r x).slot.stepping = s.slot.stepping := by simp [State.setE]
@[simp] theorem State.setE_slot_stepLater (s : State) (r : EReg) (x : Word) : (s.setE r x).slot.stepLater = s.slot.stepLater := by simp [State.setE]
@[simp] theorem State.setE_slot_fetchbase (s : State) (r : EReg) (x : Word) : (s.setE r x).slot.fetchbase = s.slot.fetchbase := by simp [State.setE]
@[simp] theorem State.setE_slot_gap (s : State) (r : EReg) (x : Word) : (s.setE r x).slot.gap = s.slot.gap := by simp [State.setE]
@[simp] theorem State.setE_slot_request (s : State) (r : EReg) (x : Word) : (s.setE r x).slot.request = s.slot.request := by simp [State.setE]
@[simp] theorem State.setE_slot_stop (s : State) (r : EReg) (x : Word) : (s.setE r x).slot.stop = s.slot.stop := by simp [State.setE]
@[simp] theorem State.setE_slot_streams (s : State) (r : EReg) (x : Word) : (s.setE r x).slot.streams = s.slot.streams := by simp [State.setE]
@[simp] theorem State.setE_slot_priv (s : State) (r : EReg) (x : Word) : (s.setE r x).slot.priv = s.slot.priv := by simp [State.setE]
@[simp] theorem State.setE_slot_ctx (s : State) (r : EReg) (x : Word) : (s.setE r x).slot.ctx = s.slot.ctx := by simp [State.setE]
@[simp] theorem State.setE_slot_kernel (s : State) (r : EReg) (x : Word) : (s.setE r x).slot.kernel = s.slot.kernel := by simp [State.setE]
@[simp] theorem State.setE_slot_chan (s : State) (r : EReg) (x : Word) : (s.setE r x).slot.chan = s.slot.chan := by simp [State.setE]
@[simp] theorem State.setE_slot_trigger (s : State) (r : EReg) (x : Word) : (s.setE r x).slot.trigger = s.slot.trigger := by simp [State.setE]
@[simp] theorem State.setE_slot_took (s : State) (r : EReg) (x : Word) : (s.setE r x).slot.took = s.slot.took := by simp [State.setE]
@[simp] theorem State.setE_slot_dirty (s : State) (r : EReg) (x : Word) : (s.setE r x).slot.dirty = s.slot.dirty := by simp [State.setE]
@[simp] theorem State.setE_slot_usedVector (s : State) (r : EReg) (x : Word) : (s.setE r x).slot.usedVector = s.slot.usedVector := by simp [State.setE]
@[simp] theorem State.setE_slot_held (s : State) (r : EReg) (x : Word) : (s.setE r x).slot.held = s.slot.held := by simp [State.setE]
@[simp] theorem State.setE_slot_points (s : State) (r : EReg) (x : Word) : (s.setE r x).slot.points = s.slot.points := by simp [State.setE]
@[simp] theorem State.setE_slot_pointsVt (s : State) (r : EReg) (x : Word) : (s.setE r x).slot.pointsVt = s.slot.pointsVt := by simp [State.setE]
@[simp] theorem State.setE_slot_drainVt (s : State) (r : EReg) (x : Word) : (s.setE r x).slot.drainVt = s.slot.drainVt := by simp [State.setE]
@[simp] theorem State.setE_slot_cwait (s : State) (r : EReg) (x : Word) : (s.setE r x).slot.cwait = s.slot.cwait := by simp [State.setE]
@[simp] theorem State.setE_slot_owed (s : State) (r : EReg) (x : Word) : (s.setE r x).slot.owed = s.slot.owed := by simp [State.setE]
@[simp] theorem State.setE_slot_haltVt (s : State) (r : EReg) (x : Word) : (s.setE r x).slot.haltVt = s.slot.haltVt := by simp [State.setE]
@[simp] theorem State.setE_slot_rows (s : State) (r : EReg) (x : Word) : (s.setE r x).slot.rows = s.slot.rows := by simp [State.setE]
@[simp] theorem State.setW_slot_g (s : State) (r : WReg) (x : WVal) : (s.setW r x).slot.g = s.slot.g := by simp [State.setW, Slot.putW]
@[simp] theorem State.setW_slot_e (s : State) (r : WReg) (x : WVal) : (s.setW r x).slot.e = s.slot.e := by simp [State.setW, Slot.putW]
@[simp] theorem State.setW_slot_pc (s : State) (r : WReg) (x : WVal) : (s.setW r x).slot.pc = s.slot.pc := by simp [State.setW, Slot.putW]
@[simp] theorem State.setW_slot_gtid (s : State) (r : WReg) (x : WVal) : (s.setW r x).slot.gtid = s.slot.gtid := by simp [State.setW, Slot.putW]
@[simp] theorem State.setW_slot_repc (s : State) (r : WReg) (x : WVal) : (s.setW r x).slot.repc = s.slot.repc := by simp [State.setW, Slot.putW]
@[simp] theorem State.setW_slot_law (s : State) (r : WReg) (x : WVal) : (s.setW r x).slot.law = s.slot.law := by simp [State.setW, Slot.putW]
@[simp] theorem State.setW_slot_trapv (s : State) (r : WReg) (x : WVal) : (s.setW r x).slot.trapv = s.slot.trapv := by simp [State.setW, Slot.putW]
@[simp] theorem State.setW_slot_tcause (s : State) (r : WReg) (x : WVal) : (s.setW r x).slot.tcause = s.slot.tcause := by simp [State.setW, Slot.putW]
@[simp] theorem State.setW_slot_tpc (s : State) (r : WReg) (x : WVal) : (s.setW r x).slot.tpc = s.slot.tpc := by simp [State.setW, Slot.putW]
@[simp] theorem State.setW_slot_tval (s : State) (r : WReg) (x : WVal) : (s.setW r x).slot.tval = s.slot.tval := by simp [State.setW, Slot.putW]
@[simp] theorem State.setW_slot_rect (s : State) (r : WReg) (x : WVal) : (s.setW r x).slot.rect = s.slot.rect := by simp [State.setW, Slot.putW]
@[simp] theorem State.setW_slot_dealpat (s : State) (r : WReg) (x : WVal) : (s.setW r x).slot.dealpat = s.slot.dealpat := by simp [State.setW, Slot.putW]
@[simp] theorem State.setW_slot_windows (s : State) (r : WReg) (x : WVal) : (s.setW r x).slot.windows = s.slot.windows := by simp [State.setW, Slot.putW]
@[simp] theorem State.setW_slot_rep (s : State) (r : WReg) (x : WVal) : (s.setW r x).slot.rep = s.slot.rep := by simp [State.setW, Slot.putW]
@[simp] theorem State.setW_slot_resume (s : State) (r : WReg) (x : WVal) : (s.setW r x).slot.resume = s.slot.resume := by simp [State.setW, Slot.putW]
@[simp] theorem State.setW_slot_skip (s : State) (r : WReg) (x : WVal) : (s.setW r x).slot.skip = s.slot.skip := by simp [State.setW, Slot.putW]
@[simp] theorem State.setW_slot_first (s : State) (r : WReg) (x : WVal) : (s.setW r x).slot.first = s.slot.first := by simp [State.setW, Slot.putW]
@[simp] theorem State.setW_slot_run (s : State) (r : WReg) (x : WVal) : (s.setW r x).slot.run = s.slot.run := by simp [State.setW, Slot.putW]
@[simp] theorem State.setW_slot_stepping (s : State) (r : WReg) (x : WVal) : (s.setW r x).slot.stepping = s.slot.stepping := by simp [State.setW, Slot.putW]
@[simp] theorem State.setW_slot_stepLater (s : State) (r : WReg) (x : WVal) : (s.setW r x).slot.stepLater = s.slot.stepLater := by simp [State.setW, Slot.putW]
@[simp] theorem State.setW_slot_fetchbase (s : State) (r : WReg) (x : WVal) : (s.setW r x).slot.fetchbase = s.slot.fetchbase := by simp [State.setW, Slot.putW]
@[simp] theorem State.setW_slot_gap (s : State) (r : WReg) (x : WVal) : (s.setW r x).slot.gap = s.slot.gap := by simp [State.setW, Slot.putW]
@[simp] theorem State.setW_slot_request (s : State) (r : WReg) (x : WVal) : (s.setW r x).slot.request = s.slot.request := by simp [State.setW, Slot.putW]
@[simp] theorem State.setW_slot_stop (s : State) (r : WReg) (x : WVal) : (s.setW r x).slot.stop = s.slot.stop := by simp [State.setW, Slot.putW]
@[simp] theorem State.setW_slot_streams (s : State) (r : WReg) (x : WVal) : (s.setW r x).slot.streams = s.slot.streams := by simp [State.setW, Slot.putW]
@[simp] theorem State.setW_slot_priv (s : State) (r : WReg) (x : WVal) : (s.setW r x).slot.priv = s.slot.priv := by simp [State.setW, Slot.putW]
@[simp] theorem State.setW_slot_ctx (s : State) (r : WReg) (x : WVal) : (s.setW r x).slot.ctx = s.slot.ctx := by simp [State.setW, Slot.putW]
@[simp] theorem State.setW_slot_kernel (s : State) (r : WReg) (x : WVal) : (s.setW r x).slot.kernel = s.slot.kernel := by simp [State.setW, Slot.putW]
@[simp] theorem State.setW_slot_chan (s : State) (r : WReg) (x : WVal) : (s.setW r x).slot.chan = s.slot.chan := by simp [State.setW, Slot.putW]
@[simp] theorem State.setW_slot_trigger (s : State) (r : WReg) (x : WVal) : (s.setW r x).slot.trigger = s.slot.trigger := by simp [State.setW, Slot.putW]
@[simp] theorem State.setW_slot_took (s : State) (r : WReg) (x : WVal) : (s.setW r x).slot.took = s.slot.took := by simp [State.setW, Slot.putW]
@[simp] theorem State.setW_slot_dirty (s : State) (r : WReg) (x : WVal) : (s.setW r x).slot.dirty = s.slot.dirty := by simp [State.setW, Slot.putW]
@[simp] theorem State.setW_slot_usedVector (s : State) (r : WReg) (x : WVal) : (s.setW r x).slot.usedVector = s.slot.usedVector := by simp [State.setW, Slot.putW]
@[simp] theorem State.setW_slot_held (s : State) (r : WReg) (x : WVal) : (s.setW r x).slot.held = s.slot.held := by simp [State.setW, Slot.putW]
@[simp] theorem State.setW_slot_points (s : State) (r : WReg) (x : WVal) : (s.setW r x).slot.points = s.slot.points := by simp [State.setW, Slot.putW]
@[simp] theorem State.setW_slot_pointsVt (s : State) (r : WReg) (x : WVal) : (s.setW r x).slot.pointsVt = s.slot.pointsVt := by simp [State.setW, Slot.putW]
@[simp] theorem State.setW_slot_drainVt (s : State) (r : WReg) (x : WVal) : (s.setW r x).slot.drainVt = s.slot.drainVt := by simp [State.setW, Slot.putW]
@[simp] theorem State.setW_slot_cwait (s : State) (r : WReg) (x : WVal) : (s.setW r x).slot.cwait = s.slot.cwait := by simp [State.setW, Slot.putW]
@[simp] theorem State.setW_slot_owed (s : State) (r : WReg) (x : WVal) : (s.setW r x).slot.owed = s.slot.owed := by simp [State.setW, Slot.putW]
@[simp] theorem State.setW_slot_haltVt (s : State) (r : WReg) (x : WVal) : (s.setW r x).slot.haltVt = s.slot.haltVt := by simp [State.setW, Slot.putW]
@[simp] theorem State.setW_slot_rows (s : State) (r : WReg) (x : WVal) : (s.setW r x).slot.rows = s.slot.rows := by simp [State.setW, Slot.putW]

/-! ### What a slot keeps when an instruction has executed -/

@[simp] theorem Slot.advance_g (t : Slot) (n : Nat) : (t.advance n).g = t.g := by unfold Slot.advance; repeat (first | rfl | split)
@[simp] theorem Slot.advance_e (t : Slot) (n : Nat) : (t.advance n).e = t.e := by unfold Slot.advance; repeat (first | rfl | split)
@[simp] theorem Slot.advance_w (t : Slot) (n : Nat) : (t.advance n).w = t.w := by unfold Slot.advance; repeat (first | rfl | split)
@[simp] theorem Slot.advance_gtid (t : Slot) (n : Nat) : (t.advance n).gtid = t.gtid := by unfold Slot.advance; repeat (first | rfl | split)
@[simp] theorem Slot.advance_repc (t : Slot) (n : Nat) : (t.advance n).repc = t.repc := by unfold Slot.advance; repeat (first | rfl | split)
@[simp] theorem Slot.advance_law (t : Slot) (n : Nat) : (t.advance n).law = t.law := by unfold Slot.advance; repeat (first | rfl | split)
@[simp] theorem Slot.advance_trapv (t : Slot) (n : Nat) : (t.advance n).trapv = t.trapv := by unfold Slot.advance; repeat (first | rfl | split)
@[simp] theorem Slot.advance_tcause (t : Slot) (n : Nat) : (t.advance n).tcause = t.tcause := by unfold Slot.advance; repeat (first | rfl | split)
@[simp] theorem Slot.advance_tpc (t : Slot) (n : Nat) : (t.advance n).tpc = t.tpc := by unfold Slot.advance; repeat (first | rfl | split)
@[simp] theorem Slot.advance_tval (t : Slot) (n : Nat) : (t.advance n).tval = t.tval := by unfold Slot.advance; repeat (first | rfl | split)
@[simp] theorem Slot.advance_rect (t : Slot) (n : Nat) : (t.advance n).rect = t.rect := by unfold Slot.advance; repeat (first | rfl | split)
@[simp] theorem Slot.advance_dealpat (t : Slot) (n : Nat) : (t.advance n).dealpat = t.dealpat := by unfold Slot.advance; repeat (first | rfl | split)
@[simp] theorem Slot.advance_windows (t : Slot) (n : Nat) : (t.advance n).windows = t.windows := by unfold Slot.advance; repeat (first | rfl | split)
@[simp] theorem Slot.advance_resume (t : Slot) (n : Nat) : (t.advance n).resume = t.resume := by unfold Slot.advance; repeat (first | rfl | split)
@[simp] theorem Slot.advance_skip (t : Slot) (n : Nat) : (t.advance n).skip = t.skip := by unfold Slot.advance; repeat (first | rfl | split)
@[simp] theorem Slot.advance_latch (t : Slot) (n : Nat) : (t.advance n).latch = t.latch := by unfold Slot.advance; repeat (first | rfl | split)
@[simp] theorem Slot.advance_first (t : Slot) (n : Nat) : (t.advance n).first = t.first := by unfold Slot.advance; repeat (first | rfl | split)
@[simp] theorem Slot.advance_run (t : Slot) (n : Nat) : (t.advance n).run = t.run := by unfold Slot.advance; repeat (first | rfl | split)
@[simp] theorem Slot.advance_stepping (t : Slot) (n : Nat) : (t.advance n).stepping = t.stepping := by unfold Slot.advance; repeat (first | rfl | split)
@[simp] theorem Slot.advance_stepLater (t : Slot) (n : Nat) : (t.advance n).stepLater = t.stepLater := by unfold Slot.advance; repeat (first | rfl | split)
@[simp] theorem Slot.advance_fetchbase (t : Slot) (n : Nat) : (t.advance n).fetchbase = t.fetchbase := by unfold Slot.advance; repeat (first | rfl | split)
@[simp] theorem Slot.advance_gap (t : Slot) (n : Nat) : (t.advance n).gap = t.gap := by unfold Slot.advance; repeat (first | rfl | split)
@[simp] theorem Slot.advance_request (t : Slot) (n : Nat) : (t.advance n).request = t.request := by unfold Slot.advance; repeat (first | rfl | split)
@[simp] theorem Slot.advance_stop (t : Slot) (n : Nat) : (t.advance n).stop = t.stop := by unfold Slot.advance; repeat (first | rfl | split)
@[simp] theorem Slot.advance_streams (t : Slot) (n : Nat) : (t.advance n).streams = t.streams := by unfold Slot.advance; repeat (first | rfl | split)
@[simp] theorem Slot.advance_priv (t : Slot) (n : Nat) : (t.advance n).priv = t.priv := by unfold Slot.advance; repeat (first | rfl | split)
@[simp] theorem Slot.advance_ctx (t : Slot) (n : Nat) : (t.advance n).ctx = t.ctx := by unfold Slot.advance; repeat (first | rfl | split)
@[simp] theorem Slot.advance_kernel (t : Slot) (n : Nat) : (t.advance n).kernel = t.kernel := by unfold Slot.advance; repeat (first | rfl | split)
@[simp] theorem Slot.advance_chan (t : Slot) (n : Nat) : (t.advance n).chan = t.chan := by unfold Slot.advance; repeat (first | rfl | split)
@[simp] theorem Slot.advance_trigger (t : Slot) (n : Nat) : (t.advance n).trigger = t.trigger := by unfold Slot.advance; repeat (first | rfl | split)
@[simp] theorem Slot.advance_took (t : Slot) (n : Nat) : (t.advance n).took = t.took := by unfold Slot.advance; repeat (first | rfl | split)
@[simp] theorem Slot.advance_dirty (t : Slot) (n : Nat) : (t.advance n).dirty = t.dirty := by unfold Slot.advance; repeat (first | rfl | split)
@[simp] theorem Slot.advance_usedVector (t : Slot) (n : Nat) : (t.advance n).usedVector = t.usedVector := by unfold Slot.advance; repeat (first | rfl | split)
@[simp] theorem Slot.advance_held (t : Slot) (n : Nat) : (t.advance n).held = t.held := by unfold Slot.advance; repeat (first | rfl | split)
@[simp] theorem Slot.advance_points (t : Slot) (n : Nat) : (t.advance n).points = t.points := by unfold Slot.advance; repeat (first | rfl | split)
@[simp] theorem Slot.advance_pointsVt (t : Slot) (n : Nat) : (t.advance n).pointsVt = t.pointsVt := by unfold Slot.advance; repeat (first | rfl | split)
@[simp] theorem Slot.advance_drainVt (t : Slot) (n : Nat) : (t.advance n).drainVt = t.drainVt := by unfold Slot.advance; repeat (first | rfl | split)
@[simp] theorem Slot.advance_cwait (t : Slot) (n : Nat) : (t.advance n).cwait = t.cwait := by unfold Slot.advance; repeat (first | rfl | split)
@[simp] theorem Slot.advance_owed (t : Slot) (n : Nat) : (t.advance n).owed = t.owed := by unfold Slot.advance; repeat (first | rfl | split)
@[simp] theorem Slot.advance_haltVt (t : Slot) (n : Nat) : (t.advance n).haltVt = t.haltVt := by unfold Slot.advance; repeat (first | rfl | split)
@[simp] theorem Slot.advance_flaws (t : Slot) (n : Nat) : (t.advance n).flaws = t.flaws := by unfold Slot.advance; repeat (first | rfl | split)
@[simp] theorem Slot.advance_rows (t : Slot) (n : Nat) : (t.advance n).rows = t.rows := by unfold Slot.advance; repeat (first | rfl | split)
@[simp] theorem Slot.settle_g (t : Slot) : t.settle.g = t.g := rfl
@[simp] theorem Slot.settle_e (t : Slot) : t.settle.e = t.e := rfl
@[simp] theorem Slot.settle_w (t : Slot) : t.settle.w = t.w := rfl
@[simp] theorem Slot.settle_pc (t : Slot) : t.settle.pc = t.pc := rfl
@[simp] theorem Slot.settle_gtid (t : Slot) : t.settle.gtid = t.gtid := rfl
@[simp] theorem Slot.settle_repc (t : Slot) : t.settle.repc = t.repc := rfl
@[simp] theorem Slot.settle_law (t : Slot) : t.settle.law = t.law := rfl
@[simp] theorem Slot.settle_trapv (t : Slot) : t.settle.trapv = t.trapv := rfl
@[simp] theorem Slot.settle_tcause (t : Slot) : t.settle.tcause = t.tcause := rfl
@[simp] theorem Slot.settle_tpc (t : Slot) : t.settle.tpc = t.tpc := rfl
@[simp] theorem Slot.settle_tval (t : Slot) : t.settle.tval = t.tval := rfl
@[simp] theorem Slot.settle_rect (t : Slot) : t.settle.rect = t.rect := rfl
@[simp] theorem Slot.settle_dealpat (t : Slot) : t.settle.dealpat = t.dealpat := rfl
@[simp] theorem Slot.settle_rep (t : Slot) : t.settle.rep = t.rep := rfl
@[simp] theorem Slot.settle_latch (t : Slot) : t.settle.latch = t.latch := rfl
@[simp] theorem Slot.settle_first (t : Slot) : t.settle.first = t.first := rfl
@[simp] theorem Slot.settle_run (t : Slot) : t.settle.run = t.run := rfl
@[simp] theorem Slot.settle_stepLater (t : Slot) : t.settle.stepLater = t.stepLater := rfl
@[simp] theorem Slot.settle_fetchbase (t : Slot) : t.settle.fetchbase = t.fetchbase := rfl
@[simp] theorem Slot.settle_stop (t : Slot) : t.settle.stop = t.stop := rfl
@[simp] theorem Slot.settle_streams (t : Slot) : t.settle.streams = t.streams := rfl
@[simp] theorem Slot.settle_priv (t : Slot) : t.settle.priv = t.priv := rfl
@[simp] theorem Slot.settle_ctx (t : Slot) : t.settle.ctx = t.ctx := rfl
@[simp] theorem Slot.settle_kernel (t : Slot) : t.settle.kernel = t.kernel := rfl
@[simp] theorem Slot.settle_chan (t : Slot) : t.settle.chan = t.chan := rfl
@[simp] theorem Slot.settle_trigger (t : Slot) : t.settle.trigger = t.trigger := rfl
@[simp] theorem Slot.settle_took (t : Slot) : t.settle.took = t.took := rfl
@[simp] theorem Slot.settle_dirty (t : Slot) : t.settle.dirty = t.dirty := rfl
@[simp] theorem Slot.settle_usedVector (t : Slot) : t.settle.usedVector = t.usedVector := rfl
@[simp] theorem Slot.settle_held (t : Slot) : t.settle.held = t.held := rfl
@[simp] theorem Slot.settle_points (t : Slot) : t.settle.points = t.points := rfl
@[simp] theorem Slot.settle_pointsVt (t : Slot) : t.settle.pointsVt = t.pointsVt := rfl
@[simp] theorem Slot.settle_owed (t : Slot) : t.settle.owed = t.owed := rfl
@[simp] theorem Slot.settle_haltVt (t : Slot) : t.settle.haltVt = t.haltVt := rfl
@[simp] theorem Slot.settle_flaws (t : Slot) : t.settle.flaws = t.flaws := rfl
@[simp] theorem State.retired_slot_g (s : State) (n : Nat) : (s.retired n).slot.g = s.slot.g := by simp [State.retired]
@[simp] theorem State.opened_slot_g (s : State) (n : Nat) (r : GReg) (la : BitVec 4) : (s.opened n r la).slot.g = s.slot.g := by simp [State.opened]
@[simp] theorem State.retired_slot_e (s : State) (n : Nat) : (s.retired n).slot.e = s.slot.e := by simp [State.retired]
@[simp] theorem State.opened_slot_e (s : State) (n : Nat) (r : GReg) (la : BitVec 4) : (s.opened n r la).slot.e = s.slot.e := by simp [State.opened]
@[simp] theorem State.retired_slot_w (s : State) (n : Nat) : (s.retired n).slot.w = s.slot.w := by simp [State.retired]
@[simp] theorem State.opened_slot_w (s : State) (n : Nat) (r : GReg) (la : BitVec 4) : (s.opened n r la).slot.w = s.slot.w := by simp [State.opened]
@[simp] theorem State.retired_slot_gtid (s : State) (n : Nat) : (s.retired n).slot.gtid = s.slot.gtid := by simp [State.retired]
@[simp] theorem State.opened_slot_gtid (s : State) (n : Nat) (r : GReg) (la : BitVec 4) : (s.opened n r la).slot.gtid = s.slot.gtid := by simp [State.opened]
@[simp] theorem State.retired_slot_repc (s : State) (n : Nat) : (s.retired n).slot.repc = s.slot.repc := by simp [State.retired]
@[simp] theorem State.opened_slot_repc (s : State) (n : Nat) (r : GReg) (la : BitVec 4) : (s.opened n r la).slot.repc = s.slot.repc := by simp [State.opened]
@[simp] theorem State.retired_slot_law (s : State) (n : Nat) : (s.retired n).slot.law = s.slot.law := by simp [State.retired]
@[simp] theorem State.opened_slot_law (s : State) (n : Nat) (r : GReg) (la : BitVec 4) : (s.opened n r la).slot.law = s.slot.law := by simp [State.opened]
@[simp] theorem State.retired_slot_trapv (s : State) (n : Nat) : (s.retired n).slot.trapv = s.slot.trapv := by simp [State.retired]
@[simp] theorem State.opened_slot_trapv (s : State) (n : Nat) (r : GReg) (la : BitVec 4) : (s.opened n r la).slot.trapv = s.slot.trapv := by simp [State.opened]
@[simp] theorem State.retired_slot_tcause (s : State) (n : Nat) : (s.retired n).slot.tcause = s.slot.tcause := by simp [State.retired]
@[simp] theorem State.opened_slot_tcause (s : State) (n : Nat) (r : GReg) (la : BitVec 4) : (s.opened n r la).slot.tcause = s.slot.tcause := by simp [State.opened]
@[simp] theorem State.retired_slot_tpc (s : State) (n : Nat) : (s.retired n).slot.tpc = s.slot.tpc := by simp [State.retired]
@[simp] theorem State.opened_slot_tpc (s : State) (n : Nat) (r : GReg) (la : BitVec 4) : (s.opened n r la).slot.tpc = s.slot.tpc := by simp [State.opened]
@[simp] theorem State.retired_slot_tval (s : State) (n : Nat) : (s.retired n).slot.tval = s.slot.tval := by simp [State.retired]
@[simp] theorem State.opened_slot_tval (s : State) (n : Nat) (r : GReg) (la : BitVec 4) : (s.opened n r la).slot.tval = s.slot.tval := by simp [State.opened]
@[simp] theorem State.retired_slot_rect (s : State) (n : Nat) : (s.retired n).slot.rect = s.slot.rect := by simp [State.retired]
@[simp] theorem State.opened_slot_rect (s : State) (n : Nat) (r : GReg) (la : BitVec 4) : (s.opened n r la).slot.rect = s.slot.rect := by simp [State.opened]
@[simp] theorem State.retired_slot_dealpat (s : State) (n : Nat) : (s.retired n).slot.dealpat = s.slot.dealpat := by simp [State.retired]
@[simp] theorem State.opened_slot_dealpat (s : State) (n : Nat) (r : GReg) (la : BitVec 4) : (s.opened n r la).slot.dealpat = s.slot.dealpat := by simp [State.opened]
@[simp] theorem State.retired_slot_latch (s : State) (n : Nat) : (s.retired n).slot.latch = s.slot.latch := by simp [State.retired]
@[simp] theorem State.opened_slot_latch (s : State) (n : Nat) (r : GReg) (la : BitVec 4) : (s.opened n r la).slot.latch = s.slot.latch := by simp [State.opened]
@[simp] theorem State.retired_slot_first (s : State) (n : Nat) : (s.retired n).slot.first = s.slot.first := by simp [State.retired]
@[simp] theorem State.opened_slot_first (s : State) (n : Nat) (r : GReg) (la : BitVec 4) : (s.opened n r la).slot.first = s.slot.first := by simp [State.opened]
@[simp] theorem State.retired_slot_run (s : State) (n : Nat) : (s.retired n).slot.run = s.slot.run := by simp [State.retired]
@[simp] theorem State.opened_slot_run (s : State) (n : Nat) (r : GReg) (la : BitVec 4) : (s.opened n r la).slot.run = s.slot.run := by simp [State.opened]
@[simp] theorem State.retired_slot_stepLater (s : State) (n : Nat) : (s.retired n).slot.stepLater = s.slot.stepLater := by simp [State.retired]
@[simp] theorem State.opened_slot_stepLater (s : State) (n : Nat) (r : GReg) (la : BitVec 4) : (s.opened n r la).slot.stepLater = s.slot.stepLater := by simp [State.opened]
@[simp] theorem State.retired_slot_fetchbase (s : State) (n : Nat) : (s.retired n).slot.fetchbase = s.slot.fetchbase := by simp [State.retired]
@[simp] theorem State.opened_slot_fetchbase (s : State) (n : Nat) (r : GReg) (la : BitVec 4) : (s.opened n r la).slot.fetchbase = s.slot.fetchbase := by simp [State.opened]
@[simp] theorem State.retired_slot_stop (s : State) (n : Nat) : (s.retired n).slot.stop = s.slot.stop := by simp [State.retired]
@[simp] theorem State.opened_slot_stop (s : State) (n : Nat) (r : GReg) (la : BitVec 4) : (s.opened n r la).slot.stop = s.slot.stop := by simp [State.opened]
@[simp] theorem State.retired_slot_streams (s : State) (n : Nat) : (s.retired n).slot.streams = s.slot.streams := by simp [State.retired]
@[simp] theorem State.opened_slot_streams (s : State) (n : Nat) (r : GReg) (la : BitVec 4) : (s.opened n r la).slot.streams = s.slot.streams := by simp [State.opened]
@[simp] theorem State.retired_slot_priv (s : State) (n : Nat) : (s.retired n).slot.priv = s.slot.priv := by simp [State.retired]
@[simp] theorem State.opened_slot_priv (s : State) (n : Nat) (r : GReg) (la : BitVec 4) : (s.opened n r la).slot.priv = s.slot.priv := by simp [State.opened]
@[simp] theorem State.retired_slot_ctx (s : State) (n : Nat) : (s.retired n).slot.ctx = s.slot.ctx := by simp [State.retired]
@[simp] theorem State.opened_slot_ctx (s : State) (n : Nat) (r : GReg) (la : BitVec 4) : (s.opened n r la).slot.ctx = s.slot.ctx := by simp [State.opened]
@[simp] theorem State.retired_slot_kernel (s : State) (n : Nat) : (s.retired n).slot.kernel = s.slot.kernel := by simp [State.retired]
@[simp] theorem State.opened_slot_kernel (s : State) (n : Nat) (r : GReg) (la : BitVec 4) : (s.opened n r la).slot.kernel = s.slot.kernel := by simp [State.opened]
@[simp] theorem State.retired_slot_chan (s : State) (n : Nat) : (s.retired n).slot.chan = s.slot.chan := by simp [State.retired]
@[simp] theorem State.opened_slot_chan (s : State) (n : Nat) (r : GReg) (la : BitVec 4) : (s.opened n r la).slot.chan = s.slot.chan := by simp [State.opened]
@[simp] theorem State.retired_slot_trigger (s : State) (n : Nat) : (s.retired n).slot.trigger = s.slot.trigger := by simp [State.retired]
@[simp] theorem State.opened_slot_trigger (s : State) (n : Nat) (r : GReg) (la : BitVec 4) : (s.opened n r la).slot.trigger = s.slot.trigger := by simp [State.opened]
@[simp] theorem State.retired_slot_took (s : State) (n : Nat) : (s.retired n).slot.took = s.slot.took := by simp [State.retired]
@[simp] theorem State.opened_slot_took (s : State) (n : Nat) (r : GReg) (la : BitVec 4) : (s.opened n r la).slot.took = s.slot.took := by simp [State.opened]
@[simp] theorem State.retired_slot_dirty (s : State) (n : Nat) : (s.retired n).slot.dirty = s.slot.dirty := by simp [State.retired]
@[simp] theorem State.opened_slot_dirty (s : State) (n : Nat) (r : GReg) (la : BitVec 4) : (s.opened n r la).slot.dirty = s.slot.dirty := by simp [State.opened]
@[simp] theorem State.retired_slot_usedVector (s : State) (n : Nat) : (s.retired n).slot.usedVector = s.slot.usedVector := by simp [State.retired]
@[simp] theorem State.opened_slot_usedVector (s : State) (n : Nat) (r : GReg) (la : BitVec 4) : (s.opened n r la).slot.usedVector = s.slot.usedVector := by simp [State.opened]
@[simp] theorem State.retired_slot_held (s : State) (n : Nat) : (s.retired n).slot.held = s.slot.held := by simp [State.retired]
@[simp] theorem State.opened_slot_held (s : State) (n : Nat) (r : GReg) (la : BitVec 4) : (s.opened n r la).slot.held = s.slot.held := by simp [State.opened]
@[simp] theorem State.retired_slot_points (s : State) (n : Nat) : (s.retired n).slot.points = s.slot.points := by simp [State.retired]
@[simp] theorem State.opened_slot_points (s : State) (n : Nat) (r : GReg) (la : BitVec 4) : (s.opened n r la).slot.points = s.slot.points := by simp [State.opened]
@[simp] theorem State.retired_slot_pointsVt (s : State) (n : Nat) : (s.retired n).slot.pointsVt = s.slot.pointsVt := by simp [State.retired]
@[simp] theorem State.opened_slot_pointsVt (s : State) (n : Nat) (r : GReg) (la : BitVec 4) : (s.opened n r la).slot.pointsVt = s.slot.pointsVt := by simp [State.opened]
@[simp] theorem State.retired_slot_owed (s : State) (n : Nat) : (s.retired n).slot.owed = s.slot.owed := by simp [State.retired]
@[simp] theorem State.opened_slot_owed (s : State) (n : Nat) (r : GReg) (la : BitVec 4) : (s.opened n r la).slot.owed = s.slot.owed := by simp [State.opened]
@[simp] theorem State.retired_slot_haltVt (s : State) (n : Nat) : (s.retired n).slot.haltVt = s.slot.haltVt := by simp [State.retired]
@[simp] theorem State.opened_slot_haltVt (s : State) (n : Nat) (r : GReg) (la : BitVec 4) : (s.opened n r la).slot.haltVt = s.slot.haltVt := by simp [State.opened]
@[simp] theorem State.retired_slot_flaws (s : State) (n : Nat) : (s.retired n).slot.flaws = s.slot.flaws := by simp [State.retired]
@[simp] theorem State.opened_slot_flaws (s : State) (n : Nat) (r : GReg) (la : BitVec 4) : (s.opened n r la).slot.flaws = s.slot.flaws := by simp [State.opened]
@[simp] theorem State.jumped_slot_g (s : State) (p : Word) : (s.jumped p).slot.g = s.slot.g := by simp [State.jumped]
@[simp] theorem State.jumped_slot_e (s : State) (p : Word) : (s.jumped p).slot.e = s.slot.e := by simp [State.jumped]
@[simp] theorem State.jumped_slot_w (s : State) (p : Word) : (s.jumped p).slot.w = s.slot.w := by simp [State.jumped]
@[simp] theorem State.jumped_slot_gtid (s : State) (p : Word) : (s.jumped p).slot.gtid = s.slot.gtid := by simp [State.jumped]
@[simp] theorem State.jumped_slot_repc (s : State) (p : Word) : (s.jumped p).slot.repc = s.slot.repc := by simp [State.jumped]
@[simp] theorem State.jumped_slot_law (s : State) (p : Word) : (s.jumped p).slot.law = s.slot.law := by simp [State.jumped]
@[simp] theorem State.jumped_slot_trapv (s : State) (p : Word) : (s.jumped p).slot.trapv = s.slot.trapv := by simp [State.jumped]
@[simp] theorem State.jumped_slot_tcause (s : State) (p : Word) : (s.jumped p).slot.tcause = s.slot.tcause := by simp [State.jumped]
@[simp] theorem State.jumped_slot_tpc (s : State) (p : Word) : (s.jumped p).slot.tpc = s.slot.tpc := by simp [State.jumped]
@[simp] theorem State.jumped_slot_tval (s : State) (p : Word) : (s.jumped p).slot.tval = s.slot.tval := by simp [State.jumped]
@[simp] theorem State.jumped_slot_rect (s : State) (p : Word) : (s.jumped p).slot.rect = s.slot.rect := by simp [State.jumped]
@[simp] theorem State.jumped_slot_dealpat (s : State) (p : Word) : (s.jumped p).slot.dealpat = s.slot.dealpat := by simp [State.jumped]
@[simp] theorem State.jumped_slot_rep (s : State) (p : Word) : (s.jumped p).slot.rep = s.slot.rep := by simp [State.jumped]
@[simp] theorem State.jumped_slot_latch (s : State) (p : Word) : (s.jumped p).slot.latch = s.slot.latch := by simp [State.jumped]
@[simp] theorem State.jumped_slot_first (s : State) (p : Word) : (s.jumped p).slot.first = s.slot.first := by simp [State.jumped]
@[simp] theorem State.jumped_slot_run (s : State) (p : Word) : (s.jumped p).slot.run = s.slot.run := by simp [State.jumped]
@[simp] theorem State.jumped_slot_stepLater (s : State) (p : Word) : (s.jumped p).slot.stepLater = s.slot.stepLater := by simp [State.jumped]
@[simp] theorem State.jumped_slot_fetchbase (s : State) (p : Word) : (s.jumped p).slot.fetchbase = s.slot.fetchbase := by simp [State.jumped]
@[simp] theorem State.jumped_slot_stop (s : State) (p : Word) : (s.jumped p).slot.stop = s.slot.stop := by simp [State.jumped]
@[simp] theorem State.jumped_slot_streams (s : State) (p : Word) : (s.jumped p).slot.streams = s.slot.streams := by simp [State.jumped]
@[simp] theorem State.jumped_slot_priv (s : State) (p : Word) : (s.jumped p).slot.priv = s.slot.priv := by simp [State.jumped]
@[simp] theorem State.jumped_slot_ctx (s : State) (p : Word) : (s.jumped p).slot.ctx = s.slot.ctx := by simp [State.jumped]
@[simp] theorem State.jumped_slot_kernel (s : State) (p : Word) : (s.jumped p).slot.kernel = s.slot.kernel := by simp [State.jumped]
@[simp] theorem State.jumped_slot_chan (s : State) (p : Word) : (s.jumped p).slot.chan = s.slot.chan := by simp [State.jumped]
@[simp] theorem State.jumped_slot_trigger (s : State) (p : Word) : (s.jumped p).slot.trigger = s.slot.trigger := by simp [State.jumped]
@[simp] theorem State.jumped_slot_took (s : State) (p : Word) : (s.jumped p).slot.took = s.slot.took := by simp [State.jumped]
@[simp] theorem State.jumped_slot_dirty (s : State) (p : Word) : (s.jumped p).slot.dirty = s.slot.dirty := by simp [State.jumped]
@[simp] theorem State.jumped_slot_usedVector (s : State) (p : Word) : (s.jumped p).slot.usedVector = s.slot.usedVector := by simp [State.jumped]
@[simp] theorem State.jumped_slot_held (s : State) (p : Word) : (s.jumped p).slot.held = s.slot.held := by simp [State.jumped]
@[simp] theorem State.jumped_slot_points (s : State) (p : Word) : (s.jumped p).slot.points = s.slot.points := by simp [State.jumped]
@[simp] theorem State.jumped_slot_pointsVt (s : State) (p : Word) : (s.jumped p).slot.pointsVt = s.slot.pointsVt := by simp [State.jumped]
@[simp] theorem State.jumped_slot_owed (s : State) (p : Word) : (s.jumped p).slot.owed = s.slot.owed := by simp [State.jumped]
@[simp] theorem State.jumped_slot_haltVt (s : State) (p : Word) : (s.jumped p).slot.haltVt = s.slot.haltVt := by simp [State.jumped]
@[simp] theorem State.jumped_slot_flaws (s : State) (p : Word) : (s.jumped p).slot.flaws = s.slot.flaws := by simp [State.jumped]
@[simp] theorem State.jumped_slot_pc (s : State) (p : Word) : (s.jumped p).slot.pc = p := by simp [State.jumped]

/-! ### Reading registers back -/

@[simp] theorem State.g_zero (s : State) : s.g 0 = 0 := rfl

theorem State.setG_g (s : State) (r q : GReg) (x : Word) : (s.setG r x).g q = if q = r ∧ r ≠ 0 then x else s.g q := by
  unfold State.setG State.g
  by_cases hr : r = 0
  · simp [hr]
  · by_cases hq : q = 0
    · simp [hr, hq, Ne.symm hr]
    · by_cases e : q = r
      · subst e; simp [hr]
      · have : (r : Nat) ≠ q := fun h => e (Fin.ext h.symm)
        simp [hr, hq, e, Vector.getElem_set_ne _ _ this]

theorem State.setE_e (s : State) (r q : EReg) (x : Word) : (s.setE r x).e q = if q = r then x else s.e q := by
  unfold State.setE State.e
  by_cases e : q = r
  · subst e; simp
  · have : (r : Nat) ≠ q := fun h => e (Fin.ext h.symm)
    simp [e, Vector.getElem_set_ne _ _ this]

theorem State.setW_w (s : State) (r q : WReg) (x : WVal) : (s.setW r x).w q = if q = r then x else s.w q := by
  unfold State.setW State.w Slot.putW
  by_cases e : q = r
  · subst e; simp
  · have : (r : Nat) ≠ q := fun h => e (Fin.ext h.symm)
    simp [e, Vector.getElem_set_ne _ _ this]

@[simp] theorem State.retired_g (s : State) (n : Nat) (r : GReg) : (s.retired n).g r = s.g r := by simp [State.g]
@[simp] theorem State.retired_e (s : State) (n : Nat) (r : EReg) : (s.retired n).e r = s.e r := by simp [State.e]
@[simp] theorem State.retired_w (s : State) (n : Nat) (r : WReg) : (s.retired n).w r = s.w r := by simp [State.w]
@[simp] theorem State.jumped_g (s : State) (p : Word) (r : GReg) : (s.jumped p).g r = s.g r := by simp [State.g]
@[simp] theorem State.jumped_e (s : State) (p : Word) (r : EReg) : (s.jumped p).e r = s.e r := by simp [State.e]
@[simp] theorem State.jumped_w (s : State) (p : Word) (r : WReg) : (s.jumped p).w r = s.w r := by simp [State.w]
@[simp] theorem State.opened_g (s : State) (n : Nat) (d : GReg) (la : BitVec 4) (r : GReg) : (s.opened n d la).g r = s.g r := by simp [State.g]
@[simp] theorem State.opened_e (s : State) (n : Nat) (d : GReg) (la : BitVec 4) (r : EReg) : (s.opened n d la).e r = s.e r := by simp [State.e]
@[simp] theorem State.opened_w (s : State) (n : Nat) (d : GReg) (la : BitVec 4) (r : WReg) : (s.opened n d la).w r = s.w r := by simp [State.w]
@[simp] theorem State.setG_e (s : State) (r : GReg) (x : Word) (q : EReg) : (s.setG r x).e q = s.e q := by simp [State.e]
@[simp] theorem State.setG_w (s : State) (r : GReg) (x : Word) (q : WReg) : (s.setG r x).w q = s.w q := by simp [State.w]
@[simp] theorem State.setE_g (s : State) (r : EReg) (x : Word) (q : GReg) : (s.setE r x).g q = s.g q := by simp [State.g]
@[simp] theorem State.setE_w (s : State) (r : EReg) (x : Word) (q : WReg) : (s.setE r x).w q = s.w q := by simp [State.w]
@[simp] theorem State.setW_g (s : State) (r : WReg) (x : WVal) (q : GReg) : (s.setW r x).g q = s.g q := by simp [State.g]
@[simp] theorem State.setW_e (s : State) (r : WReg) (x : WVal) (q : EReg) : (s.setW r x).e q = s.e q := by simp [State.e]

/-! ### Results and time -/

@[simp] theorem State.addResult_core (s : State) (r : GReg) (x : Source) : (s.addResult r x).core = s.core := rfl
@[simp] theorem State.addResult_others (s : State) (r : GReg) (x : Source) : (s.addResult r x).others = s.others := rfl
@[simp] theorem State.addResult_sel (s : State) (r : GReg) (x : Source) : (s.addResult r x).sel = s.sel := rfl
@[simp] theorem State.addResult_device (s : State) (r : GReg) (x : Source) : (s.addResult r x).device = s.device := rfl
@[simp] theorem State.addResult_epoch (s : State) (r : GReg) (x : Source) : (s.addResult r x).epoch = s.epoch := rfl
@[simp] theorem State.addResult_vt (s : State) (r : GReg) (x : Source) : (s.addResult r x).vt = s.vt := rfl
@[simp] theorem State.addResult_hbm (s : State) (r : GReg) (x : Source) : (s.addResult r x).hbm = s.hbm := rfl
@[simp] theorem State.addResult_hbmPoison (s : State) (r : GReg) (x : Source) : (s.addResult r x).hbmPoison = s.hbmPoison := rfl
@[simp] theorem State.addResult_stamps (s : State) (r : GReg) (x : Source) : (s.addResult r x).stamps = s.stamps := rfl
@[simp] theorem State.addResult_host (s : State) (r : GReg) (x : Source) : (s.addResult r x).host = s.host := rfl
@[simp] theorem State.addResult_stores (s : State) (r : GReg) (x : Source) : (s.addResult r x).stores = s.stores := rfl
@[simp] theorem State.addResult_marks (s : State) (r : GReg) (x : Source) : (s.addResult r x).marks = s.marks := rfl
@[simp] theorem State.addResult_early (s : State) (r : GReg) (x : Source) : (s.addResult r x).early = s.early := rfl
@[simp] theorem State.addResult_samples (s : State) (r : GReg) (x : Source) : (s.addResult r x).samples = s.samples := rfl
@[simp] theorem State.addResult_beacons (s : State) (r : GReg) (x : Source) : (s.addResult r x).beacons = s.beacons := rfl
@[simp] theorem State.addResult_published (s : State) (r : GReg) (x : Source) : (s.addResult r x).published = s.published := rfl
@[simp] theorem State.addResult_nodes (s : State) (r : GReg) (x : Source) : (s.addResult r x).nodes = s.nodes := rfl
@[simp] theorem State.addResult_remotes (s : State) (r : GReg) (x : Source) : (s.addResult r x).remotes = s.remotes := rfl
@[simp] theorem State.addResult_contexts (s : State) (r : GReg) (x : Source) : (s.addResult r x).contexts = s.contexts := rfl
@[simp] theorem State.addResult_nextNode (s : State) (r : GReg) (x : Source) : (s.addResult r x).nextNode = s.nextNode := rfl
@[simp] theorem State.addResult_nextVersion (s : State) (r : GReg) (x : Source) : (s.addResult r x).nextVersion = s.nextVersion := rfl
@[simp] theorem State.addResult_freeFrames (s : State) (r : GReg) (x : Source) : (s.addResult r x).freeFrames = s.freeFrames := rfl
@[simp] theorem State.addResult_lingering (s : State) (r : GReg) (x : Source) : (s.addResult r x).lingering = s.lingering := rfl
@[simp] theorem State.addResult_sectorTlb (s : State) (r : GReg) (x : Source) : (s.addResult r x).sectorTlb = s.sectorTlb := rfl
@[simp] theorem State.addResult_sectorHandles (s : State) (r : GReg) (x : Source) : (s.addResult r x).sectorHandles = s.sectorHandles := rfl
@[simp] theorem State.addResult_beaconOut (s : State) (r : GReg) (x : Source) : (s.addResult r x).beaconOut = s.beaconOut := rfl
@[simp] theorem State.addResult_misses (s : State) (r : GReg) (x : Source) : (s.addResult r x).misses = s.misses := rfl
@[simp] theorem State.addResult_barren (s : State) (r : GReg) (x : Source) : (s.addResult r x).barren = s.barren := rfl
@[simp] theorem State.addResult_pageCopies (s : State) (r : GReg) (x : Source) : (s.addResult r x).pageCopies = s.pageCopies := rfl
@[simp] theorem State.addResult_shootdowns (s : State) (r : GReg) (x : Source) : (s.addResult r x).shootdowns = s.shootdowns := rfl
@[simp] theorem State.addResult_publications (s : State) (r : GReg) (x : Source) : (s.addResult r x).publications = s.publications := rfl
@[simp] theorem State.addResult_layouts (s : State) (r : GReg) (x : Source) : (s.addResult r x).layouts = s.layouts := rfl
@[simp] theorem State.addResult_steals (s : State) (r : GReg) (x : Source) : (s.addResult r x).steals = s.steals := rfl
@[simp] theorem State.addResult_msgs (s : State) (r : GReg) (x : Source) : (s.addResult r x).msgs = s.msgs := rfl
@[simp] theorem State.addResult_kept (s : State) (r : GReg) (x : Source) : (s.addResult r x).kept = s.kept := rfl
@[simp] theorem State.addResult_msgMarks (s : State) (r : GReg) (x : Source) : (s.addResult r x).msgMarks = s.msgMarks := rfl
@[simp] theorem State.addResult_msgSeqs (s : State) (r : GReg) (x : Source) : (s.addResult r x).msgSeqs = s.msgSeqs := rfl
@[simp] theorem State.addResult_answers (s : State) (r : GReg) (x : Source) : (s.addResult r x).answers = s.answers := rfl
@[simp] theorem State.addResult_brokenPackets (s : State) (r : GReg) (x : Source) : (s.addResult r x).brokenPackets = s.brokenPackets := rfl
@[simp] theorem State.addResult_portWork (s : State) (r : GReg) (x : Source) : (s.addResult r x).portWork = s.portWork := rfl
@[simp] theorem State.addResult_hubWork (s : State) (r : GReg) (x : Source) : (s.addResult r x).hubWork = s.hubWork := rfl
@[simp] theorem State.addResult_dumpFaults (s : State) (r : GReg) (x : Source) : (s.addResult r x).dumpFaults = s.dumpFaults := rfl
@[simp] theorem State.addResult_ringCounts (s : State) (r : GReg) (x : Source) : (s.addResult r x).ringCounts = s.ringCounts := rfl
@[simp] theorem State.addResult_serial (s : State) (r : GReg) (x : Source) : (s.addResult r x).serial = s.serial := rfl
@[simp] theorem State.addResult_groups (s : State) (r : GReg) (x : Source) : (s.addResult r x).groups = s.groups := rfl
@[simp] theorem State.addResult_copies (s : State) (r : GReg) (x : Source) : (s.addResult r x).copies = s.copies := rfl
@[simp] theorem State.addResult_stages (s : State) (r : GReg) (x : Source) : (s.addResult r x).stages = s.stages := rfl
@[simp] theorem State.addResult_kernels (s : State) (r : GReg) (x : Source) : (s.addResult r x).kernels = s.kernels := rfl
@[simp] theorem State.addResult_nextKernel (s : State) (r : GReg) (x : Source) : (s.addResult r x).nextKernel = s.nextKernel := rfl
@[simp] theorem State.addResult_programs (s : State) (r : GReg) (x : Source) : (s.addResult r x).programs = s.programs := rfl
@[simp] theorem State.addResult_trapRecords (s : State) (r : GReg) (x : Source) : (s.addResult r x).trapRecords = s.trapRecords := rfl
@[simp] theorem State.addResult_stops (s : State) (r : GReg) (x : Source) : (s.addResult r x).stops = s.stops := rfl
@[simp] theorem State.addResult_saved (s : State) (r : GReg) (x : Source) : (s.addResult r x).saved = s.saved := rfl
@[simp] theorem State.addResult_migrations (s : State) (r : GReg) (x : Source) : (s.addResult r x).migrations = s.migrations := rfl
@[simp] theorem State.addResult_kills (s : State) (r : GReg) (x : Source) : (s.addResult r x).kills = s.kills := rfl
@[simp] theorem State.addResult_refusals (s : State) (r : GReg) (x : Source) : (s.addResult r x).refusals = s.refusals := rfl
@[simp] theorem State.addResult_updates (s : State) (r : GReg) (x : Source) : (s.addResult r x).updates = s.updates := rfl
@[simp] theorem State.addResult_requests (s : State) (r : GReg) (x : Source) : (s.addResult r x).requests = s.requests := rfl
@[simp] theorem State.addResult_muted (s : State) (r : GReg) (x : Source) : (s.addResult r x).muted = s.muted := rfl
@[simp] theorem State.addResult_events (s : State) (r : GReg) (x : Source) : (s.addResult r x).events = s.events := rfl
@[simp] theorem State.addResult_pifo (s : State) (r : GReg) (x : Source) : (s.addResult r x).pifo = s.pifo := rfl
@[simp] theorem State.addResult_queues (s : State) (r : GReg) (x : Source) : (s.addResult r x).queues = s.queues := rfl
@[simp] theorem State.addResult_rank (s : State) (r : GReg) (x : Source) : (s.addResult r x).rank = s.rank := rfl
@[simp] theorem State.addResult_dispatch (s : State) (r : GReg) (x : Source) : (s.addResult r x).dispatch = s.dispatch := rfl
@[simp] theorem State.addResult_scans (s : State) (r : GReg) (x : Source) : (s.addResult r x).scans = s.scans := rfl
@[simp] theorem State.addResult_links (s : State) (r : GReg) (x : Source) : (s.addResult r x).links = s.links := rfl
@[simp] theorem State.addResult_jobs (s : State) (r : GReg) (x : Source) : (s.addResult r x).jobs = s.jobs := rfl
@[simp] theorem State.addResult_routes (s : State) (r : GReg) (x : Source) : (s.addResult r x).routes = s.routes := rfl
@[simp] theorem State.addResult_portSeqs (s : State) (r : GReg) (x : Source) : (s.addResult r x).portSeqs = s.portSeqs := rfl
@[simp] theorem State.addResult_vfRequests (s : State) (r : GReg) (x : Source) : (s.addResult r x).vfRequests = s.vfRequests := rfl
@[simp] theorem State.addResult_faultsServed (s : State) (r : GReg) (x : Source) : (s.addResult r x).faultsServed = s.faultsServed := rfl
@[simp] theorem State.addResult_faultsStored (s : State) (r : GReg) (x : Source) : (s.addResult r x).faultsStored = s.faultsStored := rfl
@[simp] theorem State.addResult_snapshots (s : State) (r : GReg) (x : Source) : (s.addResult r x).snapshots = s.snapshots := rfl
@[simp] theorem State.addResult_latches (s : State) (r : GReg) (x : Source) : (s.addResult r x).latches = s.latches := rfl
@[simp] theorem State.addResult_snap (s : State) (r : GReg) (x : Source) : (s.addResult r x).snap = s.snap := rfl
@[simp] theorem State.addResult_skipped (s : State) (r : GReg) (x : Source) : (s.addResult r x).skipped = s.skipped := rfl
@[simp] theorem State.addResult_rebinding (s : State) (r : GReg) (x : Source) : (s.addResult r x).rebinding = s.rebinding := rfl
@[simp] theorem State.addResult_pointCommits (s : State) (r : GReg) (x : Source) : (s.addResult r x).pointCommits = s.pointCommits := rfl
@[simp] theorem State.addResult_portErrors (s : State) (r : GReg) (x : Source) : (s.addResult r x).portErrors = s.portErrors := rfl
@[simp] theorem State.addResult_throttled (s : State) (r : GReg) (x : Source) : (s.addResult r x).throttled = s.throttled := rfl
@[simp] theorem State.addResult_bringUp (s : State) (r : GReg) (x : Source) : (s.addResult r x).bringUp = s.bringUp := rfl
@[simp] theorem State.addResult_failCode (s : State) (r : GReg) (x : Source) : (s.addResult r x).failCode = s.failCode := rfl
@[simp] theorem State.addResult_fuse (s : State) (r : GReg) (x : Source) : (s.addResult r x).fuse = s.fuse := rfl
@[simp] theorem State.addResult_imageVersion (s : State) (r : GReg) (x : Source) : (s.addResult r x).imageVersion = s.imageVersion := rfl
@[simp] theorem State.addResult_badSlices (s : State) (r : GReg) (x : Source) : (s.addResult r x).badSlices = s.badSlices := rfl
@[simp] theorem State.addResult_deadDies (s : State) (r : GReg) (x : Source) : (s.addResult r x).deadDies = s.deadDies := rfl
@[simp] theorem State.addResult_portsDown (s : State) (r : GReg) (x : Source) : (s.addResult r x).portsDown = s.portsDown := rfl
@[simp] theorem State.addResult_nonce (s : State) (r : GReg) (x : Source) : (s.addResult r x).nonce = s.nonce := rfl
@[simp] theorem State.addResult_guest (s : State) (r : GReg) (x : Source) : (s.addResult r x).guest = s.guest := rfl
@[simp] theorem State.addResult_sliceVt (s : State) (r : GReg) (x : Source) : (s.addResult r x).sliceVt = s.sliceVt := rfl
@[simp] theorem State.addResult_agenda (s : State) (r : GReg) (x : Source) : (s.addResult r x).agenda = s.agenda := rfl
@[simp] theorem State.addResult_tick (s : State) (r : GReg) (x : Source) : (s.addResult r x).tick = s.tick := rfl
@[simp] theorem State.addResult_turn (s : State) (r : GReg) (x : Source) : (s.addResult r x).turn = s.turn := rfl
@[simp] theorem State.addResult_ir (s : State) (r : GReg) (x : Source) : (s.addResult r x).ir = s.ir := rfl
@[simp] theorem State.addResult_stalled (s : State) (r : GReg) (x : Source) : (s.addResult r x).stalled = s.stalled := rfl
@[simp] theorem State.addResult_slot (s : State) (r : GReg) (x : Source) : (s.addResult r x).slot = s.slot := rfl
@[simp] theorem State.addResult_g (s : State) (r : GReg) (x : Source) (q : GReg) : (s.addResult r x).g q = s.g q := rfl
@[simp] theorem State.addResult_e (s : State) (r : GReg) (x : Source) (q : EReg) : (s.addResult r x).e q = s.e q := rfl
@[simp] theorem State.addResult_w (s : State) (r : GReg) (x : Source) (q : WReg) : (s.addResult r x).w q = s.w q := rfl
@[simp] theorem State.tickOn_core (s : State) : s.tickOn.core = s.core := rfl
@[simp] theorem State.tickOn_others (s : State) : s.tickOn.others = s.others := rfl
@[simp] theorem State.tickOn_sel (s : State) : s.tickOn.sel = s.sel := rfl
@[simp] theorem State.tickOn_device (s : State) : s.tickOn.device = s.device := rfl
@[simp] theorem State.tickOn_epoch (s : State) : s.tickOn.epoch = s.epoch := rfl
@[simp] theorem State.tickOn_hbm (s : State) : s.tickOn.hbm = s.hbm := rfl
@[simp] theorem State.tickOn_hbmPoison (s : State) : s.tickOn.hbmPoison = s.hbmPoison := rfl
@[simp] theorem State.tickOn_stamps (s : State) : s.tickOn.stamps = s.stamps := rfl
@[simp] theorem State.tickOn_host (s : State) : s.tickOn.host = s.host := rfl
@[simp] theorem State.tickOn_stores (s : State) : s.tickOn.stores = s.stores := rfl
@[simp] theorem State.tickOn_marks (s : State) : s.tickOn.marks = s.marks := rfl
@[simp] theorem State.tickOn_results (s : State) : s.tickOn.results = s.results := rfl
@[simp] theorem State.tickOn_early (s : State) : s.tickOn.early = s.early := rfl
@[simp] theorem State.tickOn_samples (s : State) : s.tickOn.samples = s.samples := rfl
@[simp] theorem State.tickOn_beacons (s : State) : s.tickOn.beacons = s.beacons := rfl
@[simp] theorem State.tickOn_published (s : State) : s.tickOn.published = s.published := rfl
@[simp] theorem State.tickOn_nodes (s : State) : s.tickOn.nodes = s.nodes := rfl
@[simp] theorem State.tickOn_remotes (s : State) : s.tickOn.remotes = s.remotes := rfl
@[simp] theorem State.tickOn_contexts (s : State) : s.tickOn.contexts = s.contexts := rfl
@[simp] theorem State.tickOn_nextNode (s : State) : s.tickOn.nextNode = s.nextNode := rfl
@[simp] theorem State.tickOn_nextVersion (s : State) : s.tickOn.nextVersion = s.nextVersion := rfl
@[simp] theorem State.tickOn_freeFrames (s : State) : s.tickOn.freeFrames = s.freeFrames := rfl
@[simp] theorem State.tickOn_lingering (s : State) : s.tickOn.lingering = s.lingering := rfl
@[simp] theorem State.tickOn_sectorTlb (s : State) : s.tickOn.sectorTlb = s.sectorTlb := rfl
@[simp] theorem State.tickOn_sectorHandles (s : State) : s.tickOn.sectorHandles = s.sectorHandles := rfl
@[simp] theorem State.tickOn_beaconOut (s : State) : s.tickOn.beaconOut = s.beaconOut := rfl
@[simp] theorem State.tickOn_misses (s : State) : s.tickOn.misses = s.misses := rfl
@[simp] theorem State.tickOn_barren (s : State) : s.tickOn.barren = s.barren := rfl
@[simp] theorem State.tickOn_pageCopies (s : State) : s.tickOn.pageCopies = s.pageCopies := rfl
@[simp] theorem State.tickOn_shootdowns (s : State) : s.tickOn.shootdowns = s.shootdowns := rfl
@[simp] theorem State.tickOn_publications (s : State) : s.tickOn.publications = s.publications := rfl
@[simp] theorem State.tickOn_layouts (s : State) : s.tickOn.layouts = s.layouts := rfl
@[simp] theorem State.tickOn_steals (s : State) : s.tickOn.steals = s.steals := rfl
@[simp] theorem State.tickOn_msgs (s : State) : s.tickOn.msgs = s.msgs := rfl
@[simp] theorem State.tickOn_kept (s : State) : s.tickOn.kept = s.kept := rfl
@[simp] theorem State.tickOn_msgMarks (s : State) : s.tickOn.msgMarks = s.msgMarks := rfl
@[simp] theorem State.tickOn_msgSeqs (s : State) : s.tickOn.msgSeqs = s.msgSeqs := rfl
@[simp] theorem State.tickOn_answers (s : State) : s.tickOn.answers = s.answers := rfl
@[simp] theorem State.tickOn_brokenPackets (s : State) : s.tickOn.brokenPackets = s.brokenPackets := rfl
@[simp] theorem State.tickOn_portWork (s : State) : s.tickOn.portWork = s.portWork := rfl
@[simp] theorem State.tickOn_hubWork (s : State) : s.tickOn.hubWork = s.hubWork := rfl
@[simp] theorem State.tickOn_dumpFaults (s : State) : s.tickOn.dumpFaults = s.dumpFaults := rfl
@[simp] theorem State.tickOn_ringCounts (s : State) : s.tickOn.ringCounts = s.ringCounts := rfl
@[simp] theorem State.tickOn_serial (s : State) : s.tickOn.serial = s.serial := rfl
@[simp] theorem State.tickOn_groups (s : State) : s.tickOn.groups = s.groups := rfl
@[simp] theorem State.tickOn_copies (s : State) : s.tickOn.copies = s.copies := rfl
@[simp] theorem State.tickOn_stages (s : State) : s.tickOn.stages = s.stages := rfl
@[simp] theorem State.tickOn_kernels (s : State) : s.tickOn.kernels = s.kernels := rfl
@[simp] theorem State.tickOn_nextKernel (s : State) : s.tickOn.nextKernel = s.nextKernel := rfl
@[simp] theorem State.tickOn_programs (s : State) : s.tickOn.programs = s.programs := rfl
@[simp] theorem State.tickOn_trapRecords (s : State) : s.tickOn.trapRecords = s.trapRecords := rfl
@[simp] theorem State.tickOn_stops (s : State) : s.tickOn.stops = s.stops := rfl
@[simp] theorem State.tickOn_saved (s : State) : s.tickOn.saved = s.saved := rfl
@[simp] theorem State.tickOn_migrations (s : State) : s.tickOn.migrations = s.migrations := rfl
@[simp] theorem State.tickOn_kills (s : State) : s.tickOn.kills = s.kills := rfl
@[simp] theorem State.tickOn_refusals (s : State) : s.tickOn.refusals = s.refusals := rfl
@[simp] theorem State.tickOn_updates (s : State) : s.tickOn.updates = s.updates := rfl
@[simp] theorem State.tickOn_requests (s : State) : s.tickOn.requests = s.requests := rfl
@[simp] theorem State.tickOn_muted (s : State) : s.tickOn.muted = s.muted := rfl
@[simp] theorem State.tickOn_events (s : State) : s.tickOn.events = s.events := rfl
@[simp] theorem State.tickOn_pifo (s : State) : s.tickOn.pifo = s.pifo := rfl
@[simp] theorem State.tickOn_queues (s : State) : s.tickOn.queues = s.queues := rfl
@[simp] theorem State.tickOn_rank (s : State) : s.tickOn.rank = s.rank := rfl
@[simp] theorem State.tickOn_dispatch (s : State) : s.tickOn.dispatch = s.dispatch := rfl
@[simp] theorem State.tickOn_scans (s : State) : s.tickOn.scans = s.scans := rfl
@[simp] theorem State.tickOn_links (s : State) : s.tickOn.links = s.links := rfl
@[simp] theorem State.tickOn_jobs (s : State) : s.tickOn.jobs = s.jobs := rfl
@[simp] theorem State.tickOn_routes (s : State) : s.tickOn.routes = s.routes := rfl
@[simp] theorem State.tickOn_portSeqs (s : State) : s.tickOn.portSeqs = s.portSeqs := rfl
@[simp] theorem State.tickOn_vfRequests (s : State) : s.tickOn.vfRequests = s.vfRequests := rfl
@[simp] theorem State.tickOn_faultsServed (s : State) : s.tickOn.faultsServed = s.faultsServed := rfl
@[simp] theorem State.tickOn_faultsStored (s : State) : s.tickOn.faultsStored = s.faultsStored := rfl
@[simp] theorem State.tickOn_snapshots (s : State) : s.tickOn.snapshots = s.snapshots := rfl
@[simp] theorem State.tickOn_latches (s : State) : s.tickOn.latches = s.latches := rfl
@[simp] theorem State.tickOn_snap (s : State) : s.tickOn.snap = s.snap := rfl
@[simp] theorem State.tickOn_skipped (s : State) : s.tickOn.skipped = s.skipped := rfl
@[simp] theorem State.tickOn_rebinding (s : State) : s.tickOn.rebinding = s.rebinding := rfl
@[simp] theorem State.tickOn_pointCommits (s : State) : s.tickOn.pointCommits = s.pointCommits := rfl
@[simp] theorem State.tickOn_portErrors (s : State) : s.tickOn.portErrors = s.portErrors := rfl
@[simp] theorem State.tickOn_throttled (s : State) : s.tickOn.throttled = s.throttled := rfl
@[simp] theorem State.tickOn_bringUp (s : State) : s.tickOn.bringUp = s.bringUp := rfl
@[simp] theorem State.tickOn_failCode (s : State) : s.tickOn.failCode = s.failCode := rfl
@[simp] theorem State.tickOn_fuse (s : State) : s.tickOn.fuse = s.fuse := rfl
@[simp] theorem State.tickOn_imageVersion (s : State) : s.tickOn.imageVersion = s.imageVersion := rfl
@[simp] theorem State.tickOn_badSlices (s : State) : s.tickOn.badSlices = s.badSlices := rfl
@[simp] theorem State.tickOn_deadDies (s : State) : s.tickOn.deadDies = s.deadDies := rfl
@[simp] theorem State.tickOn_portsDown (s : State) : s.tickOn.portsDown = s.portsDown := rfl
@[simp] theorem State.tickOn_nonce (s : State) : s.tickOn.nonce = s.nonce := rfl
@[simp] theorem State.tickOn_guest (s : State) : s.tickOn.guest = s.guest := rfl
@[simp] theorem State.tickOn_sliceVt (s : State) : s.tickOn.sliceVt = s.sliceVt := rfl
@[simp] theorem State.tickOn_agenda (s : State) : s.tickOn.agenda = s.agenda := rfl
@[simp] theorem State.tickOn_turn (s : State) : s.tickOn.turn = s.turn := rfl
@[simp] theorem State.tickOn_ir (s : State) : s.tickOn.ir = s.ir := rfl
@[simp] theorem State.tickOn_stalled (s : State) : s.tickOn.stalled = s.stalled := rfl
@[simp] theorem State.tickOn_slot (s : State) : s.tickOn.slot = s.slot := rfl

end Sys2Proof.Machine
end

