-- ==== Sys2Proof/Laws/Ops.lean ====
section
/-! SUPPORT. What the shared operations can do, once for each: trapping, addressing, locating, sending a store, the outcome
of a turn. -/

namespace Sys2Proof.Machine

/-! ### Trapping -/

/-- A trap waits for every outstanding result, or reports a poisoned one in its stead, or is entered (R46, R265, R327). -/
theorem trapAt_cases (c : Cause) (v p : Word) (s : State) :
    (s.outstanding = [] ∧ trapAt c v p s = .next (enterTrap c v p s)) ∨
    (s.outstanding ≠ [] ∧ s.outstanding.findSome? (fun r => r.src.poisoned) = none ∧ trapAt c v p s = stall s) ∨
    (∃ ta, s.outstanding.findSome? (fun r => r.src.poisoned) = some ta ∧
      trapAt c v p s = .next (enterTrap Cause.errorConsumed ta s.slot.pc
        { s with results := s.results.filter fun r => !(r.isOf s.core.id s.sel && r.src.poisoned.isSome) })) := by
  unfold trapAt
  split
  · next ta h => exact .inr (.inr ⟨ta, h, rfl⟩)
  · next h =>
    by_cases e : s.outstanding = []
    · exact .inl ⟨e, by simp [e]⟩
    · exact .inr (.inl ⟨e, h, by simp [e]⟩)

theorem trapAt_next {c : Cause} {v p : Word} {s : State} (h : s.outstanding = []) :
    trapAt c v p s = .next (enterTrap c v p s) := by simp [trapAt, h]

theorem trap_next {c : Cause} {v : Word} {s : State} (h : s.outstanding = []) :
    trap c v s = .next (enterTrap c v s.slot.pc s) := trapAt_next h

/-- A trap always answers a next state: it is entered, or it waits. -/
theorem trapAt_isNext (c : Cause) (v p : Word) (s : State) : ∃ t, trapAt c v p s = .next t := by
  rcases trapAt_cases c v p s with ⟨-, h⟩ | ⟨-, -, h⟩ | ⟨ta, -, h⟩ <;> exact ⟨_, h⟩

theorem trap_isNext (c : Cause) (v : Word) (s : State) : ∃ t, trap c v s = .next t := trapAt_isNext _ _ _ _

theorem sameMemory_setSlot (s : State) (t : Slot) : SameMemory s (s.setSlot t) := sameMemory_mapSlot s fun _ => t

/-- Entering a trap changes no byte of memory. -/
theorem sameMemory_enterTrap (c : Cause) (v p : Word) (s : State) : SameMemory s (enterTrap c v p s) := by
  have d (s : State) : SameMemory s s.dropEarly := SameMemory.refl s
  unfold enterTrap
  simp only
  split
  · exact (d s).trans (sameMemory_setSlot _ _)
  · split
    · exact (d s).trans ((sameMemory_setSlot _ _).trans ⟨fun _ => rfl, rfl, rfl⟩)
    · exact (d s).trans ((sameMemory_setSlot _ _).trans ⟨fun _ => rfl, rfl, rfl⟩)

theorem sameMemory_trapAt {c : Cause} {v p : Word} {s t : State} (h : trapAt c v p s = .next t) : SameMemory s t := by
  rcases trapAt_cases c v p s with ⟨-, e⟩ | ⟨-, -, e⟩ | ⟨ta, -, e⟩ <;> rw [e] at h
  · cases h; exact sameMemory_enterTrap _ _ _ _
  · cases h; exact SameMemory.refl s
  · cases h
    exact SameMemory.trans (⟨fun _ => rfl, rfl, rfl⟩ : SameMemory s { s with results := _ }) (sameMemory_enterTrap _ _ _ _)

/-! ### Addressing -/

theorem addressed_some {a : GReg} {d : Int} {s : State} {k : Word → Out} {ta : Word} (h : offsetAdd (s.g a) d = some ta) :
    addressed a d s k = k ta := by simp [addressed, h]

theorem addressed_none {a : GReg} {d : Int} {s : State} {k : Word → Out} (h : offsetAdd (s.g a) d = none) :
    addressed a d s k = trap Cause.offsetOverflow (s.g a) s := by simp [addressed, h]

/-! ### Locating: an access leaves all but the translation caches as they were -/

theorem touch_caches (s : State) (x : Tlb) : s.touch s.core.id x = s.cachesOf (s.touch s.core.id x) := by
  have e (f : Core → Core) : s.onCore s.core.id f = { s with core := f s.core } := by simp [State.onCore, State.setCore, State.coreOf]
  unfold State.touch State.cachesOf
  simp only [e]
  split <;> rfl

theorem cachesOf_self (s : State) : s = s.cachesOf s := rfl

theorem cachesOf_trans {s t u : State} (h : t = s.cachesOf t) (k : u = t.cachesOf u) : u = s.cachesOf u := by
  rw [k, h]; rfl

theorem locateOne_found {s t : State} {ctx hi n o : Nat} {h : Handle} {v : Version} {w : Bool} {ps : List Place}
    (e : s.locateOne s.core.id ctx hi n h v w o = .found t ps) : t = s.cachesOf t := by
  unfold State.locateOne at e
  split at e
  · next p hit _ =>
    cases hit with
    | none => cases e; exact cachesOf_self _
    | some x => cases e; exact touch_caches _ x
  · cases e
  · cases e
  · split at e <;> cases e

theorem locateMembers_found {core ctx hi : Nat} {w : Bool} {o : Nat} (l : List (NodeRef × Nat)) {s t : State} {qs ps : List Place}
    (hc : s.core.id = core) (e : locateMembers core ctx hi w o l s qs = .found t ps) : t = s.cachesOf t := by
  induction l generalizing s qs with
  | nil => cases e; exact cachesOf_self _
  | cons m l ih =>
    obtain ⟨r, k⟩ := m
    cases r with
    | remote dev m => exact ih hc e
    | own m =>
      simp only [locateMembers] at e
      split at e
      · split at e
        · split at e
          · next u us hu =>
            subst hc
            have hcu := locateOne_found hu
            exact cachesOf_trans hcu (ih (by rw [hcu]; rfl) e)
          · cases e
          · cases e
        · cases e
      · cases e

/-- Translating what an access of the core in focus reached changes nothing but the translation caches (R232). -/
theorem locate_found {s t : State} {ctx : Nat} {w : Bool} {ta : Word} {r : Reach} {ps : List Place}
    (e : s.locate s.core.id ctx w ta r = .found t ps) : t = s.cachesOf t := by
  cases r with
  | own o => cases e; exact cachesOf_self _
  | member c o => cases e; exact cachesOf_self _
  | peer d m o => cases e; exact cachesOf_self _
  | aperture op ms o => exact locateMembers_found _ rfl e
  | object n h v o => exact locateOne_found e

theorem Reaches.caches {op : AccOp} {rd wr : Bool} {ta : Word} {n : Nat} {s t : State} {r : Reach} {ps : List Place}
    (h : Reaches op rd wr ta n s t r ps) : t = s.cachesOf t := locate_found h.2.1

theorem sameMemory_cachesOf (s t : State) : SameMemory s (s.cachesOf t) := by
  refine ⟨fun c => ?_, rfl, rfl⟩
  unfold State.cachesOf State.coreOf
  simp only
  split <;> rfl

/-- An access whose checks pass and that meets no watchpoint goes on with its reach and its places. -/
theorem located_go {op : AccOp} {reads writes : Bool} {ta : Word} {n : Nat} {s t : State} {k : State → Reach → List Place → Out}
    {r : Reach} {ps : List Place} (h : Reaches op reads writes ta n s t r ps) :
    located op reads writes ta n s k = k t r ps := by
  obtain ⟨h1, h2, h3⟩ := h
  have e : t.slot = s.slot := by rw [locate_found h2]; cases hs : s.sel <;> simp [State.cachesOf, State.slot, Core.slot, hs]
  simp [located, translated, watching, h1, h2, h3, e]

/-- What locating can do besides: the trap of a check, the wait for a translation, or the trap of a watchpoint. -/
theorem located_cases (op : AccOp) (reads writes : Bool) (ta : Word) (n : Nat) (s : State) (k : State → Reach → List Place → Out) :
    (∃ t r ps, Reaches op reads writes ta n s t r ps ∧ located op reads writes ta n s k = k t r ps) ∨
    (∃ c v t, located op reads writes ta n s k = trap c v t ∧ t = s.cachesOf t) ∨
    (∃ r t, s.locate s.core.id s.slot.ctx (!op.reads) ta r = .wait t ∧ located op reads writes ta n s k = stall t) := by
  unfold located translated Reaches
  cases h1 : s.reach s.core.id s.slot.ctx op true ta n with
  | error c => exact .inr (.inl ⟨c, ta, s, rfl, rfl⟩)
  | ok r =>
    cases h2 : s.locate s.core.id s.slot.ctx (!op.reads) ta r with
    | fail c => exact .inr (.inl ⟨c, ta, s, by simp [h2], rfl⟩)
    | wait t => exact .inr (.inr ⟨r, t, h2, by simp [h2]⟩)
    | found t ps =>
      have e : t.slot = s.slot := by rw [locate_found h2]; cases hs : s.sel <;> simp [State.cachesOf, State.slot, Core.slot, hs]
      cases h3 : s.slot.watched reads writes ta n with
      | some b => exact .inr (.inl ⟨_, b, t, by simp [h2, watching, e, h3]; rfl, locate_found h2⟩)
      | none => exact .inl ⟨t, r, ps, ⟨rfl, h2, rfl⟩, by simp [h2, watching, e, h3]⟩

/-! ### Sending -/

theorem putStore_frame (w : Sender) (str : Stream) (seq : BitVec 24) (op : StoreOp) (ta : Word)
    (reply : Option (Nat × SlotSel × GReg)) (unit : Option (EngineRef × BitVec 32 × Nat)) (p : Place) (i : Nat) (s : State) :
    ∃ x, s.putStore w str seq op ta reply unit p i = { s with stores := s.stores ++ [x] } ∧ x.place = p ∧
      x.src = w.src ∧ x.origin = w.origin ∧ x.stream = str ∧ x.seq = seq ∧ x.stamp = s.vt ∧ x.op = op ∧
        x.phase = .issued ∧ x.reply = reply ∧ x.ta = ta ∧ x.kernel = w.kernel ∧ x.unit = unit :=
  ⟨_, rfl, rfl, rfl, rfl, rfl, rfl, rfl, rfl, rfl, rfl, rfl, rfl, rfl⟩

/-- Putting stores on their way changes nothing else. -/
theorem putStores_frame (w : Sender) (str : Stream) (seq : BitVec 24) (op : StoreOp) (ta : Word)
    (reply : Option (Nat × SlotSel × GReg)) (unit : Option (EngineRef × BitVec 32 × Nat)) (ps : List Place) (i : Nat) (s : State) :
    ∃ l, s.putStores w str seq op ta reply unit ps i = { s with stores := s.stores ++ l } ∧ l.map (·.place) = ps ∧
      ∀ x ∈ l, x.src = w.src ∧ x.origin = w.origin ∧ x.stream = str ∧ x.seq = seq ∧ x.stamp = s.vt ∧ x.op = op ∧
        x.phase = .issued ∧ x.reply = reply ∧ x.ta = ta ∧ x.kernel = w.kernel ∧ x.unit = unit := by
  induction ps generalizing s i with
  | nil => exact ⟨[], by simp [State.putStores], rfl, by simp⟩
  | cons p ps ih =>
    obtain ⟨x, e, hp, hx⟩ := putStore_frame w str seq op ta reply unit p i s
    obtain ⟨l, h1, h2, h3⟩ := ih (i + 1) (s.putStore w str seq op ta reply unit p i)
    refine ⟨x :: l, ?_, by simp [h2, hp], ?_⟩
    · rw [State.putStores, h1, e]; simp
    · intro y hy
      rcases List.mem_cons.mp hy with rfl | hy
      · exact hx
      · have := h3 y hy
        rw [e] at this; exact this

theorem sameMemory_soil (s : State) (ps : List (Place × Nat)) : SameMemory s (s.soil ps) := by
  unfold State.soil; split
  · exact sameMemory_mapSlot _ _
  · exact SameMemory.refl s

/-- A store that may go is sent, and its witness written where one is named. -/
theorem storeAccess_go {acc : AccOp} {str : Stream} {op : StoreOp} {wres : Option WReg} {ta : Word} {s : State} {k : State → Out}
    {t : State} {r : Reach} {ps : List Place} (h : Reaches acc false true ta op.length s t r ps) (m : MaySend str ps t) :
    storeAccess acc str op wres ta s k = k ((t.send str op ta none ps).setWOpt wres (t.issueWitness r str ps)) := by
  rw [storeAccess, located_go h]; simp [m.1, m.2]

/-! ### Reading back what an operation wrote at its home -/

theorem byteAt_putAt_ne {s : State} (h : s.ok = true) (p q : Place) (l : List (Option Byte))
    (hq : ∀ i < l.length, q ≠ p.add i) (hp : (∃ a, p = .hbm a) ∨ ∃ c o, p = .sram c o) :
    (s.putAt p l).byteAt q = s.byteAt q := by
  have key (m : Mem) (w : Memory.wf m = true) (a b : Nat) (hb : ∀ i < l.length, b ≠ a + i) :
      memRead (memPutEnabled m a l) b = memRead m b := by
    rw [memRead_memPutEnabled w]
    split
    · next hab =>
      have : l[b - a]? = none := List.getElem?_eq_none (by
        by_contra hc; exact hb (b - a) (by omega) (by omega))
      simp [this]
    · rfl
  rcases hp with ⟨a, rfl⟩ | ⟨c, o, rfl⟩
  · cases q with
    | hbm b =>
      have w : Memory.wf s.hbm = true := by simp only [State.ok, Bool.and_eq_true] at h; exact h.1.1.2
      exact key _ w _ _ (fun i hi e => hq i hi (by rw [e]; rfl))
    | sram c o => rfl
    | host q a => rfl
    | peer d m o => rfl
  · cases q with
    | sram d b =>
      show memRead ((s.onCore c fun k => { k with sram := memPutEnabled k.sram o l }).coreOf d).sram b = _
      rw [State.coreOf_onCore s c d (fun k => { k with sram := memPutEnabled k.sram o l }) (fun _ => rfl)]
      split
      · next e =>
        subst e
        have w := State.ok_coreOf h d
        simp only [Core.ok, Bool.and_eq_true] at w
        exact key _ w.2 _ _ (fun i hi e => hq i hi (by rw [e]; rfl))
      · rfl
    | hbm b =>
      show memRead (s.setCore _ _).hbm b = _
      unfold State.setCore; split <;> rfl
    | host r b =>
      show memRead (s.setCore _ _).host _ = _
      unfold State.setCore; split <;> rfl
    | peer d m o => rfl

/-! ### The outcome of a turn -/

theorem orElse_next {t : State} {k : State → Out} (h : t.stalled = false) : Out.orElse (.next t) k = .next t := by
  simp [Out.orElse, h]

theorem orElse_stall {s : State} {k : State → Out} (h : s.stalled = false) : Out.orElse (stall s) k = k s := by
  have : ({ s with stalled := false } : State) = s := by cases s; simp_all
  simp [Out.orElse, stall, this]

end Sys2Proof.Machine
end

