-- ==== Sys2Proof/Tests/Slice0.lean ====
section
/-! SUPPORT. The model's own tests: words of the spec decode, ill-formed terms are refused, steps on small states, and for
each obligation a state and operands that meet its hypotheses. -/

namespace Sys2Proof.Tests

open Sys2Proof.Machine

/-! ### Small states -/

/-- g registers with the listed values. -/
def regs (l : List (GReg × Word)) : Vector Word 32 := l.foldl (fun v p => v.set p.1 p.2) (Vector.replicate 32 0)

/-- A privileged resident task of kernel 1 at image offset 0x40 with these g registers. -/
def slotOf (l : List (GReg × Word)) : Slot :=
  { Slot.reset with run := .running, pc := 0x40, gtid := 0x100000001, kernel := 1, priv := true, g := regs l }

/-- Core 0 with that task, a code window of 256 bytes, eight granules of tiles and four of accumulators. -/
def coreWith (l : List (GReg × Word)) : Core :=
  { Core.reset 0 with
    task := slotOf l, exb := 256, partw := 0x408, alloc := some { kernel := 1, vf := 31, stage := 0 } }

/-- A package where only that core runs. -/
def base (l : List (GReg × Word)) : State := { State.reset with core := coreWith l, vt := 1000, tick := 500, device := 3, hbm := [] }

/-- The same registers in an activation of channel 2 on a core without a resident task. -/
def actAlone (l : List (GReg × Word)) : State :=
  { State.reset with
    core := { coreWith l with task := Slot.reset, act := { slotOf l with chan := some 2, trigger := some 0 } }
    vt := 1000, tick := 500, sel := .act, hbm := [] }

/-- An activation beside a resident task. -/
def actBeside (l : List (GReg × Word)) : State :=
  { base l with core := { coreWith l with act := { slotOf l with chan := some 2, trigger := some 0 } }, sel := .act }

/-- The task without privilege. -/
def plain (l : List (GReg × Word)) : State := { base l with core := { coreWith l with task := { slotOf l with priv := false } } }

theorem issues_of {i : Instr} {s : State} (h : decodeCause i s = none) (g : gate s = .go) (f : s.slot.readsFlaw i = false := by rfl) : Issues i s :=
  issues_iff.mpr ⟨h, g, f⟩

/-! ### Ill-formed terms are refused -/

theorem test_wf_odd_scale_pair : (Instr.mma false 0 1 2 3 0).wellFormed = false := by decide
theorem test_wf_odd_scale_pair_rotating : (Instr.mmar false 0 1 2 15 0).wellFormed = false := by decide
theorem test_wf_exact_conversion_rounds : (Instr.vcvt .bf16Fp32 none .ru 1 2).wellFormed = false := by decide
theorem test_wf_rounding_conversion : (Instr.vcvt .fp32Bf16 none .ru 1 2).wellFormed = true := by decide
theorem test_wf_odd_component_pair : ∀ i ∈ [Instr.walk 1 2 3, .bind 1 2 31, .unbind 2 5, .mkobj .mem 1 2 7], i.wellFormed = false := by
  decide
theorem test_wf_nine_words : ∀ i ∈ [Instr.send 0 9 1 2, .sendr 0 9 1 2, .sendm 0 15 1 2], i.wellFormed = false := by decide
theorem test_wf_payload_past_g31 : (Instr.send 0 8 1 25).wellFormed = false ∧ (Instr.send 0 8 1 24).wellFormed = true := by decide
theorem test_wf_empty_payload_names_g0 : (Instr.sendr 0 0 1 4).wellFormed = false ∧ (Instr.sendr 0 0 1 0).wellFormed = true := by decide
theorem test_wf_message_block : (Instr.recv 3 24).wellFormed = false ∧ (Instr.peek 3 24).wellFormed = false ∧
    (Instr.recv 3 23).wellFormed = true := by decide

/-! ### Words decode: match bits and field places of the spec's table, with a different value in each field -/

theorem test_decode_integer : ∀ p ∈ ([
    (0x006D5503, .add 21 10 27), (0x086D5503, .sub 21 10 27), (0x106D5503, .and 21 10 27), (0x186D5503, .or 21 10 27),
    (0x206D5503, .xor 21 10 27), (0x286D5503, .sll 21 10 27), (0x306D5503, .srl 21 10 27), (0x386D5503, .sra 21 10 27),
    (0x406D5503, .mul 21 10 27), (0x486D5503, .mulh 21 10 27), (0x506D5503, .mulhu 21 10 27), (0x5B6D5503, .div 0x6 21 10 27),
    (0x636D5503, .divu 0x6 21 10 27), (0x6B6D5503, .rem 0x6 21 10 27), (0x736D5503, .remu 0x6 21 10 27),
    (0x786D5503, .slt 21 10 27), (0x806D5503, .sltu 21 10 27), (0x886D5503, .min 21 10 27), (0x906D5503, .max 21 10 27),
    (0x98015503, .mov 21 10), (0xA06D5503, .oadd 21 10 27), (0xA86D5503, .mkta 21 10 27), (0xB0015503, .hdl 21 10),
    (0xB8015503, .ofs 21 10)] : List (Nat × Instr)),
    decodeTableWord 32 p.1 = some p.2 := by decide

theorem test_decode_immediate : ∀ p ∈ ([
    (0xA94D5505, .addi 21 10 0x2a53), (0xA94D5507, .andi 21 10 0x2a53), (0xA94D5509, .ori 21 10 0x2a53),
    (0xA94D550B, .xori 21 10 0x2a53), (0xA94D550D, .slti 21 10 0x2a53), (0xA94D550F, .muli 21 10 0x2a53),
    (0x00A55511, .slli 21 10 0x29), (0x40A55511, .srli 21 10 0x29), (0x80A55511, .srai 21 10 0x29),
    (0xB4B47513, .movi 21 0x5a5a3), (0xB4B47515, .movsi 21 0x5a5a3), (0xA94D5517, .oaddi 21 10 0x2a53),
    (0x00014519, .emovEG 5 10), (0x08007519, .emovGE 21 3), (0x10006519, .emovEE 5 3)] : List (Nat × Instr)),
    decodeTableWord 32 p.1 = some p.2 := by decide

theorem test_decode_control : ∀ p ∈ ([
    (0x9A80151B, .ctlr 21 0x135), (0x9A81401D, .ctlw 0x135 10), (0x9AED5321, .beq 10 27 0x135 0x13),
    (0x9AED5323, .bne 10 27 0x135 0x13), (0x9AED5325, .blt 10 27 0x135 0x13), (0x9AED5327, .bge 10 27 0x135 0x13),
    (0x9AED5329, .bltu 10 27 0x135 0x13), (0x9AED532B, .bgeu 10 27 0x135 0x13), (0xB4B4752D, .jal 21 0x5a5a3),
    (0xA94D552F, .jalr 21 10 0x2a53), (0x00000031, .exit), (0x08000031, .endAct), (0x10001531, .vtr 21),
    (0x18001531, .tid 21), (0x04D40033, .trap 0x135), (0x08000033, .eret), (0x14D40033, .bkpt 0x135), (0x18000033, .csync),
    (0x20000033, .wfe), (0x28014033, .ovld 10)] : List (Nat × Instr)),
    decodeTableWord 32 p.1 = some p.2 := by decide

theorem test_decode_memory : ∀ p ∈ ([
    (0x674D5541, .ld 0x6 .die .w 0x13 10 21), (0x672D5543, .ldAfter 0x6 .die .w 11 10 21), (0x0B4D5545, .st 5 .w 0x13 10 21),
    (0x0B2D5547, .stWitness 5 .w 11 10 21), (0xCD6D5049, .postedAadd (some 9) 5 true 10 27),
    (0xCD6D5149, .postedAand (some 9) 5 true 10 27), (0xCD6D5249, .postedAor (some 9) 5 true 10 27),
    (0xCD6D5349, .postedAxor (some 9) 5 true 10 27), (0xCD6D5449, .postedAmin (some 9) 5 true 10 27),
    (0xCD6D5549, .postedAmax (some 9) 5 true 10 27), (0xCD6D4649, .postedAfadd (some 9) 5 10 27),
    (0xCD6D4749, .xaddFp32 (some 9) 5 10 27), (0xCD6D4849, .xaddBf16 (some 9) 5 10 27),
    (0xCD6D4949, .xaddFp8 (some 9) 5 10 27), (0xCD6D5A49, .cadd (some 9) 5 10 27), (0xCD014B49, .xclr (some 9) 5 10),
    (0x6601554B, .crd 0x6 .die 10 21), (0x6681554B, .xrd 0x6 .die 10 21), (0x076D404B, .cwait .die 10 27),
    (0x0019A94D, .wmerge 9 13 6), (0x0800094D, .wnull 9), (0x1300094D, .wstamp .die 9), (0x1B01A04D, .wchk .die 13),
    (0x2301B54D, .wtest .die 21 13), (0x2881B54D, .wget true 21 13), (0x306D494D, .wput 9 10 27),
    (0xA580094F, .drain 0xa5 (some 9))] : List (Nat × Instr)),
    decodeTableWord 32 p.1 = some p.2 := by decide

theorem test_decode_returning : ∀ p ∈ ([
    (0x6BED5551, .retAadd 0x6 5 true 10 27 21), (0x6BED5553, .retAand 0x6 5 true 10 27 21),
    (0x6BED5555, .retAor 0x6 5 true 10 27 21), (0x6BED5557, .retAxor 0x6 5 true 10 27 21),
    (0x6BED5559, .retAmin 0x6 5 true 10 27 21), (0x6BED555B, .retAmax 0x6 5 true 10 27 21),
    (0x6BED555D, .aswap 0x6 5 true 10 27 21), (0x6BED555F, .acas 0x6 5 true 10 27 21), (0x6B6D5561, .retAfadd 0x6 5 10 27 21)] : List (Nat × Instr)),
    decodeTableWord 32 p.1 = some p.2 := by decide

theorem test_decode_matrix : ∀ p ∈ ([
    (0x00014571, .tshape 5 10), (0x98194573, .tld 5 10 0x13 6), (0x98194575, .tst 5 10 0x13 6),
    (0xDE0CCA77, .mma true 2 6 3 12 27), (0xDE0CCA79, .mmar true 2 6 3 12 27), (0x0000057D, .tzero 5), (0x0800027D, .mrel 2),
    (0x1000027D, .macz 2), (0x1B6C357D, .mrd 0x6 21 1 27), (0x8039B47B, .mepi .pkg 0 .none false 14 13 true .bf16 0)] : List (Nat × Instr)),
    decodeTableWord 32 p.1 = some p.2 := by decide

theorem test_decode_vector_memory_and_float : ∀ p ∈ ([
    (0xC84D4B81, .vld (some 2) .n16 0x13 10 11), (0xCD4D4B83, .vst (some 2) .n16 5 0x13 10 11),
    (0xC8194B85, .vlds (some 2) .n16 6 10 11), (0xCD194B87, .vsts (some 2) .n16 5 6 10 11),
    (0x06388B89, .vfadd (some 2) 11 4 14), (0x0E388B89, .vfsub (some 2) 11 4 14), (0x16388B89, .vfmul (some 2) 11 4 14),
    (0x1E388B89, .vfma (some 2) 11 4 14), (0x26388B89, .vfms (some 2) 11 4 14), (0x2E388B89, .vfnma (some 2) 11 4 14),
    (0x36388B89, .vfmin (some 2) 11 4 14), (0x3E388B89, .vfmax (some 2) 11 4 14), (0x46008B89, .vfabs (some 2) 11 4),
    (0x4E008B89, .vfneg (some 2) 11 4)] : List (Nat × Instr)),
    decodeTableWord 32 p.1 = some p.2 := by decide

theorem test_decode_vector_integer : ∀ p ∈ ([
    (0x06388B8B, .vadd (some 2) 11 4 14), (0x0E388B8B, .vsub (some 2) 11 4 14), (0x16388B8B, .vmul (some 2) 11 4 14),
    (0x1E388B8B, .vand (some 2) 11 4 14), (0x26388B8B, .vor (some 2) 11 4 14), (0x2E388B8B, .vxor (some 2) 11 4 14),
    (0x36388B8B, .vsll (some 2) 11 4 14), (0x3E388B8B, .vsrl (some 2) 11 4 14), (0x46388B8B, .vsra (some 2) 11 4 14),
    (0x4E388B8B, .vmin (some 2) 11 4 14), (0x56388B8B, .vmax (some 2) 11 4 14), (0x3E38828D, .vcmp .ilt (some 2) 2 4 14),
    (0x06388B8F, .vsel 2 11 4 14), (0x360C8B91, .vcvt .i32Fp32 (some 2) .ru 11 4)] : List (Nat × Instr)),
    decodeTableWord 32 p.1 = some p.2 := by decide

theorem test_decode_vector_other : ∀ p ∈ ([
    (0x06008B93, .vrfadd (some 2) 11 4), (0x0E008B93, .vrfmax (some 2) 11 4), (0x16008B93, .vrfmin (some 2) 11 4),
    (0x1E008B93, .vradd (some 2) 11 4), (0x26008B93, .vrmax (some 2) 11 4), (0x2E008B93, .vrmin (some 2) 11 4),
    (0x06008B95, .vrcp (some 2) 11 4), (0x0E008B95, .vrsqrt (some 2) 11 4), (0x16008B95, .vsqrt (some 2) 11 4),
    (0x1E008B95, .vexp2 (some 2) 11 4), (0x26008B95, .vlog2 (some 2) 11 4), (0x2E008B95, .vexp (some 2) 11 4),
    (0x36008B95, .vtanh (some 2) 11 4), (0x06388B97, .vperm (some 2) 11 4 14), (0x0E6C8B97, .vrot (some 2) 11 4 27),
    (0x16014B97, .vsplat (some 2) 11 10), (0x1E6D4B97, .vins (some 2) 11 10 27), (0x26008B97, .vrev (some 2) 11 4),
    (0x000C2299, .kand 2 1 3), (0x080C2299, .kor 2 1 3), (0x100C2299, .kxor 2 1 3), (0x18002299, .knot 2 1),
    (0x20002299, .kmov 2 1), (0x28000299, .kset 2), (0x30000299, .kclr 2), (0x38014299, .kfromg 2 10),
    (0x06388B9B, .vscl (some 2) 11 4 14), (0x0E6C8B9B, .vscls (some 2) 11 4 27), (0x6094959D, .vmovg 0x6 21 4 37),
    (0x6800359D, .kmovg 0x6 21 1)] : List (Nat × Instr)),
    decodeTableWord 32 p.1 = some p.2 := by decide

theorem test_decode_engines : ∀ p ∈ ([
    (0xBB6D49A1, .cpy 5 (some 11) 9 10 27), (0xBB6D49A3, .cpys 5 (some 11) 9 10 27), (0xBB6D49A5, .gath 5 (some 11) 9 10 27),
    (0xBB6D49A7, .fill 5 (some 11) 9 10 27), (0xBB6D49A9, .lay 5 (some 11) 9 10 27), (0xBB6D49AB, .deal 5 (some 11) 9 10 27),
    (0x009540AD, .tidset 37 10), (0x006D40AF, .cpwait 10 27), (0x008149B1, .pub true 9 10)] : List (Nat × Instr)),
    decodeTableWord 32 p.1 = some p.2 := by decide

theorem test_decode_tree : ∀ p ∈ ([
    (0x006955B3, .walk 21 10 26), (0x268155B3, .openNode true false true true false 21 10), (0x406955B3, .bind 21 10 26),
    (0x606940B3, .unbind 10 26), (0x800140B3, .close 10), (0xA00155B3, .stat 21 10), (0xC26955B3, .mkobj .cell 21 10 26),
    (0xE00149B3, .revoke 9 10)] : List (Nat × Instr)),
    decodeTableWord 32 p.1 = some p.2 := by decide

theorem test_decode_messages_and_tasks : ∀ p ∈ ([
    (0xD30155C1, .send 13 0x3 10 21), (0xD30155C3, .sendr 13 0x3 10 21), (0xD30155C5, .sendm 13 0x3 10 21),
    (0xD00015C7, .recv 13 21), (0xD00015C9, .peek 13 21), (0xD80140CB, .chb 13 true 10), (0xD80140CD, .chhold 13 true 10),
    (0xD80140CF, .chready 13 true 10), (0x006D55D1, .spawn 21 10 27), (0x086D55D1, .join 21 10 27), (0x100140D1, .leave 10),
    (0x180140D1, .gbar 10), (0x200155D1, .gidx 21 10), (0x280140D1, .migr 10)] : List (Nat × Instr)),
    decodeTableWord 32 p.1 = some p.2 := by decide

theorem test_decode_compact : ∀ p ∈ ([
    (0x0002, .hnop), (0x3184, .repCount 0x6 0x6), (0x3546, .repRegister 0x6 21), (0x5548, .hmov 21 10), (0x554A, .hadd 21 10),
    (0x554C, .hsub 21 10), (0x554E, .hand 21 10), (0x5550, .hor 21 10), (0x5552, .hxor 21 10), (0x9D54, .hli 21 0x13),
    (0x9D56, .haddi 21 0x13), (0x9D58, .hslli 21 0x13), (0x9D5A, .hsrli 21 0x13), (0x9D5C, .hsrai 21 0x13),
    (0x9D5E, .hbeqz 21 0x13), (0x9D60, .hbnez 21 0x13), (0xB162, .hj 0x2c5), (0x0564, .hjr 21), (0x0266, .hwnull 9)] : List (Nat × Instr)),
    decodeTableWord 32 p.1 = some p.2 := by decide

theorem test_decode_rejects : decodeTableWord 16 0 = none ∧ decodeTableWord 32 0x00000001 = none ∧ decodeTableWord 32 0xFFFFFFFF = none ∧
    decodeTableWord 32 0x40000031 = none ∧ decodeTableWord 16 0x0028 = none ∧ decodeTableWord 32 0x01000011 = none := by decide

theorem test_encode_program_words : encode (.ld 7 .pkg .w 0 8 9) = some (.word 0x79010941) ∧ encode (.hadd 5 6) = some (.compact 0x314A) ∧
    encode (.mepi .pkg 0 .none false 14 13 true .bf16 0) = some (.word 0x8039B47B) := by decide

/-! ### Hypotheses of the obligations are met: scalar, control and trap statements -/

/-- g1 = 7, g2 = −3, g3 an own SRAM address past the code window, g5 a counter, g6 a cell, g7 the most negative number. -/
def some1 : List (GReg × Word) :=
  [(1, 7), (2, -3), (3, 0x1000), (4, 0xFFFFFFFFFFFF), (5, 0x1000000000000), (6, 0x2000000000000), (7, 0x8000000000000000), (8, -1)]

theorem witness_RegisterForms : ∀ i ∈ [Instr.add 3 1 2, .sub 0 1 2, .and 1 1 1, .or 31 1 2, .xor 3 1 2, .sll 3 1 2, .srl 3 1 2, .sra 3 2 1,
    .mul 3 7 7, .mulh 3 7 8, .mulhu 3 7 8, .slt 3 2 1, .sltu 3 2 1, .min 3 1 2, .max 3 1 2, .mov 3 1], Issues i (base some1) :=
  fun i hi => issues_of (by revert i; decide) rfl

theorem witness_DivideForms : ∀ i ∈ [Instr.div 3 9 1 2, .divu 0 9 1 2, .rem 15 9 7 8, .remu 3 0 1 0, .div 3 9 7 8, .div 1 9 1 0],
    Issues i (base some1) := fun i hi => issues_of (by revert i; decide) rfl

theorem witness_DivideForms_corner : ((base some1).g 7).toInt = -2 ^ 63 ∧ ((base some1).g 8).toInt = -1 ∧ (base some1).g 0 = 0 := by decide

theorem witness_ImmediateForms : ∀ i ∈ [Instr.addi 3 1 0x2000, .andi 3 1 0x3FFF, .ori 0 1 1, .xori 3 1 1, .slti 3 1 0x2000, .muli 3 1 0x1FFF,
    .slli 3 1 63, .srli 3 7 63, .srai 3 7 63, .movi 3 0x40000, .movsi 3 0x7FFFF], Issues i (base some1) :=
  fun i hi => issues_of (by revert i; decide) rfl

theorem witness_MovesAndAddresses : (∀ i ∈ [Instr.emovEG 7 1, .emovGE 3 7, .emovEE 0 7, .vtr 3, .tid 3, .oadd 3 4 0, .oaddi 3 4 1, .oaddi 3 4 0,
    .mkta 3 1 3, .mkta 3 4 3, .hdl 3 5, .ofs 3 5], Issues i (base some1)) ∧ (base some1).core.id < 4096 ∧
    -- the last offset and one past it
    (((base some1).g 4).extractLsb' 0 48).toNat + ((base some1).g 0).toInt < 2 ^ 48 ∧
    2 ^ 48 ≤ (((base some1).g 4).extractLsb' 0 48).toNat + (1 : BitVec 14).toInt ∧
    (((base some1).g 3).extractLsb' 0 48).toNat + ((base some1).g 7).toInt < 0 ∧
    ((base some1).g 1).extractLsb' 16 48 = 0 ∧ ((base some1).g 3).extractLsb' 48 16 = 0 ∧ ((base some1).g 4).extractLsb' 16 48 ≠ 0 :=
  ⟨fun i hi => issues_of (by revert i; decide) rfl, by decide⟩

theorem witness_ControlTransfer : (∀ i ∈ [Instr.beq 1 1 0x1FF 31, .bne 1 2 0 0, .blt 2 1 0 1, .bge 1 2 0x100 0, .bltu 1 2 0 4, .bgeu 2 1 0 4,
    .jal 31 0x40000, .jalr 0 3 0, .jalr 31 1 0, .hj 0x200, .hjr 3, .hjr 1], Issues i (base some1)) ∧
    ((base some1).g 3 + BitVec.ofInt 64 (0 : BitVec 14).toInt).getLsbD 0 = false ∧
    ((base some1).g 1 + BitVec.ofInt 64 (0 : BitVec 14).toInt).getLsbD 0 = true ∧
    ((base some1).g 3).getLsbD 0 = false ∧ ((base some1).g 1).getLsbD 0 = true :=
  ⟨fun i hi => issues_of (by revert i; decide) rfl, by decide⟩

theorem witness_CompactForms : ∀ i ∈ [Instr.hnop, .hmov 3 1, .hadd 1 2, .hsub 1 2, .hand 1 2, .hor 1 2, .hxor 1 2, .hli 3 0x10, .haddi 1 0x1F,
    .hslli 1 31, .hsrli 7 31, .hsrai 7 31, .hbeqz 0 0x10, .hbnez 1 0x0F, .hwnull 15], Issues i (base some1) :=
  fun i hi => issues_of (by revert i; decide) rfl

/-- The task with bytes in its window from offset 0x40 on. -/
def withCode (l : List (GReg × Word)) (bytes : List Byte) : State :=
  { base l with core := { coreWith l with sram := memPut [] 0x40 bytes } }

/-- rep.stepd 16 and addi g3, g1, 7, which is 0x001C2305; at the last repetition g18 is written. -/
def repAdd : State := withCode some1 [0xC4, 0x0B, 0x05, 0x23, 0x1C, 0x00]

theorem witness_Repeats : fetch repAdd.core .task (repAdd.slot.pc + 2) = .instr (.addi 3 1 7) 0x001C2305 4 ∧
    Issues (.repCount 1 15) repAdd ∧ repAdd.slot.resume = none ∧ repAdd.slot.breakAt (repAdd.slot.pc + 2) = none ∧ repAdd.outstanding = [] ∧ repInstr 1 15 (.addi 3 1 7) ≠ none ∧
    Issues (.repRegister 1 1) repAdd ∧ 0 < (repAdd.g 1).toNat % 2 ^ 32 ∧ repInstr 1 ((repAdd.g 1).toNat % 2 ^ 32 - 1) (.addi 3 1 7) ≠ none ∧
    -- a register count of 0 fetches only the follower's first halfword
    fetchHalf repAdd.core .task (repAdd.slot.pc + 2) = some 0x2305 ∧ Issues (.repRegister 0 0) repAdd ∧ (repAdd.g 0).toNat % 2 ^ 32 = 0 ∧
    -- a displacement step names no field of addi, and 2^32 - 1 repetitions leave the register file
    repInstr 8 15 (.addi 3 1 7) = none ∧ repInstr 1 4294967294 (.addi 3 1 7) = none ∧ repInstr 0 4294967294 (.addi 3 1 7) ≠ none ∧
    privilegedInstr (.addi 3 1 7) = false ∧ feature (.addi 3 1 7) = none :=
  ⟨by decide, issues_of (by decide) rfl, by decide, by decide, by decide, by decide, issues_of (by decide) rfl, by decide, by decide, by decide,
    issues_of (by decide) rfl, by decide, by decide, by decide, by decide, by decide, by decide⟩

theorem witness_Repeats_resumed : (repAdd.mapSlot fun t => { t with resume := some { done := 3, left := 13, step := 0 } }).slot.resume =
    some { done := 3, left := 13, step := 0 } ∧ repInstr 1 (3 + 13 - 1) (.addi 3 1 7) ≠ none := by decide

/-- In a handler: INH 1, TPC at an even offset. -/
def inHandler : State := (base some1).mapSlot fun t => { t with tcause := 0x22E, tpc := 0x80 }

theorem witness_TrapsReturnsAndWaits : (base some1).outstanding = [] ∧ (∀ i ∈ [Instr.trap 0x1FF, .bkpt 0, .eret, .csync],
    Issues i (base some1)) ∧ (base some1).slot.tcause.getLsbD 9 = false ∧
    (Issues .eret inHandler ∧ inHandler.slot.tcause.getLsbD 9 = true ∧ inHandler.slot.tpc.getLsbD 0 = false) ∧
    (inHandler.mapSlot fun t => { t with tpc := 0x81 }).slot.tpc.getLsbD 0 = true ∧ (base some1).core.ovld = none ∧
    (Issues .wfe ((base some1).mapSlot fun t => { t with latch := true })) ∧ Issues .wfe (actAlone some1) ∧ (actAlone some1).sel = .act :=
  ⟨by decide, fun i hi => issues_of (by revert i; decide) rfl, by decide, ⟨issues_of (by decide) rfl, by decide⟩, by decide, by decide,
    issues_of (by decide) rfl, issues_of (by decide) rfl, by decide⟩

/-- A task with a handler at 0x60, two open windows and a repetition in progress. -/
def trapping : State := (base some1).mapSlot fun t => { t with
  trapv := 0x60, windows := [{ reg := 9, left := 15 }, { reg := 31, left := 1 }], rep := some { done := 2, left := 3, step := 1 } }

theorem witness_TrapEntry : causeClass 0x08 = .user ∧ trapping.slot.trapv ≠ 0 ∧ trapping.slot.tcause.getLsbD 9 = false ∧
    trapping.outstanding = [] ∧ causeClass 0x02 = .firmware ∧ (base some1).slot.trapv = 0 ∧ inHandler.slot.tcause.getLsbD 9 = true := by decide

theorem witness_HandlerRoundTrip : causeClass 0x08 = .user ∧ trapping.slot.trapv ≠ 0 ∧ trapping.slot.tcause.getLsbD 9 = false ∧
    (0x40 : Word).toNat < 2 ^ 32 ∧ trapping.slot.windows.length ≤ 7 ∧ (∀ w ∈ trapping.slot.windows, w.left ≠ 0) ∧
    (∀ r, trapping.slot.pair = some r → r.left ≠ 0) := by
  refine ⟨by decide, by decide, by decide, by decide, by decide, by decide, ?_⟩
  intro r h; cases h; decide

theorem witness_DecodeCauses : (privilegedInstr (.revoke 1 2) = true ∧ (plain some1).slot.priv = false) ∧
    (feature (.tzero 0) = some 0 ∧ ({ base some1 with core := { coreWith some1 with feat := 6 } } : State).core.feat.getLsbD 0 = false) ∧
    ((9 : GReg) ∈ gNames (.add 1 9 2) ∧ trapping.slot.windowed 9 = true) ∧
    (longLatency (.div 15 9 1 2) = some (9, 15) ∧ 7 ≤ ((base some1).mapSlot fun t => { t with
      windows := List.replicate 7 { reg := 20, left := 3 } }).slot.windows.length) := by decide

theorem witness_ControlRegisters : (∀ i ∈ [Instr.ctlr 1 0x000, .ctlr 0 0x002, .ctlr 1 0x00E, .ctlr 1 0x010, .ctlr 1 0x01F, .ctlr 1 0x014, .ctlr 1 0x020,
    .ctlr 1 0x1FF, .ctlw 0x006 3, .ctlw 0x008 0, .ctlw 0x00F 0, .ctlw 0x003 1, .ctlw 0x004 0, .ctlw 0x013 0, .ctlw 0x01F 0],
    Issues i (base some1)) ∧ (base some1).core.id < 4096 ∧ (base some1).actBesideTask = false ∧ (base some1).core.feat.getLsbD 0 = true ∧
    (∀ n : AReg, (base some1).releasePending n = false) ∧ (base some1).slot.priv = true ∧
    ((base some1).g 0).extractLsb' 32 32 = 0 ∧ ((base some1).g 0).extractLsb' 0 8 = 0 ∧
    (((base some1).g 1).extractLsb' 3 61 = 0 ∧ ((base some1).g 1).truncate 3 &&& ~~~(base some1).core.hw = 0) ∧
    (partwReserved ((base some1).g 0) = false ∧ (base some1).core.matrix = [] ∧ (base some1).core.vector = [] ∧
      (base some1).core.copy.idle = true ∧ partwBreaksMatrix (base some1).core ((base some1).g 0) = false ∧
      partwBreaksScratch (base some1).core ((base some1).g 0) = false) ∧
    descriptorFault (base some1).core.partw (base some1).core.accd 3 ((base some1).g 0) = none ∧ (base some1).landingDue 7 = false ∧
    (base some1).core.net[(7 : MReg)].refused = false ∧ shapeFault (base some1).core.partw (base some1).core.mshape 7 ((base some1).g 0) = none := by
  refine ⟨fun i hi => issues_of (by revert i; decide) rfl, by decide, by decide, by decide, by decide, by decide, by decide, by decide, by decide,
    ⟨by decide, by decide, by decide, by decide, by decide, by decide⟩, by decide, by decide, by decide, by decide⟩

theorem witness_ControlTraps : (∀ c ∈ [0x000#9, 0x002#9, 0x00D#9, 0x014#9, 0x017#9, 0x020#9, 0x1FF#9], Issues (.ctlw c 1) (base some1)) ∧
    (∀ c ∈ [0x001#9, 0x003#9, 0x004#9, 0x005#9, 0x00E#9], Issues (.ctlw c 1) (plain some1)) ∧ (plain some1).slot.priv = false ∧
    (actBeside some1).actBesideTask = true ∧ (∀ c ∈ [0x010#9, 0x013#9, 0x018#9, 0x01F#9], Issues (.ctlw c 1) (actBeside some1) ∧
      Issues (.ctlr 1 c) (actBeside some1)) :=
  ⟨fun i hi => issues_of (by revert i; decide) rfl, fun i hi => issues_of (by revert i; decide) rfl, by decide, by decide,
    fun i hi => ⟨issues_of (by revert i; decide) rfl, issues_of (by revert i; decide) rfl⟩⟩

/-! ### Hypotheses of the obligations are met: loads, stores, atomics and witnesses -/

/-- A handle with every right on a node. -/
def handleOn (n : Nat) (shadow : Bool) : Handle :=
  { node := .own n, rights := { read := true, write := true, shadow := shadow }, ceiling := { read := true, write := true, shadow := shadow },
    follow := false, pin := none, shadow := none, dead := false, closing := false }

/-- Handles: 1 a counter object, 2 a cell object, 3 a memory object, 4 a directory, 5 dead. -/
def handles : Tab Handle := [(1, handleOn 12 false), (2, handleOn 0x1000 false), (3, handleOn 10 false), (4, handleOn 2 false),
  (5, { handleOn 10 false with dead := true })]

/-- A cell object of one line at a fixed place. -/
def cellNode : Node := { sysNode .cell 23 64 with kind := .cell }

/-- The same with those handles open. -/
def treed (s : State) : State :=
  { s with contexts := [(0, { pfRoot with handles := handles })], nodes := rootNodes ++ [(0x1000, cellNode)] }

/-- A store witness of this device that has been settled, and one not settled yet. -/
def wits (s : State) : State :=
  (s.setW 1 (.val (storeWitness 0 900 (s.endpoint 0) 0 5 (s.endpoint 0) 0))).setW 2 (.pending .publication 77)

theorem reaches_of {op : AccOp} {r w : Bool} {ta : Word} {n : Nat} {s t : State} {x : Reach} {ps : List Place}
    (h : s.reach s.core.id s.slot.ctx op true ta n = .ok x) (hl : s.locate s.core.id s.slot.ctx (!op.reads) ta x = .found t ps)
    (hw : s.slot.watched r w ta n = none) : Reaches op r w ta n s t x ps := ⟨h, hl, hw⟩

theorem witness_LoadsAndReads : (Issues (.ld 7 .pkg .d 0 3 9) (wits (base some1)) ∧ Issues (.ldAfter 0 .pkg .d 1 3 9) (wits (base some1)) ∧
      Reaches .load true false 0x1000 8 ((wits (base some1)).takeEarly 0x1000).2 ((wits (base some1)).takeEarly 0x1000).2 (.own 0x1000) [.sram 0 0x1000] ∧
      Reaches .load true false 0x1000 8 (wits (base some1)) (wits (base some1)) (.own 0x1000) [.sram 0 0x1000]) ∧
    (wits (base some1)).loadHeld ([Place.sram 0 0x1000].flatMap fun p => p.lines 8) (wits (base some1)).queued = false ∧
    offsetAdd ((wits (base some1)).g 3) ((wits (base some1)).disp 0 8) = some 0x1000 ∧ ((wits (base some1)).takeEarly 0x1000).1 = none ∧
    (wits (base some1)).w 1 = .val (storeWitness 0 900 (3 * 8192) 0 5 (3 * 8192) 0) ∧
    (wits (base some1)).scopeOk (storeWitness 0 900 (3 * 8192) 0 5 (3 * 8192) 0) .pkg 0 = true ∧
    -- the last aligned dword of the scratchpad
    Reaches .load true false 0x4FFF8 8 (base some1) (base some1) (.own 0x4FFF8) [.sram 0 0x4FFF8] :=
  ⟨⟨issues_of (by decide) rfl, issues_of (by decide) rfl, reaches_of (by decide) rfl (by decide), reaches_of (by decide) rfl (by decide)⟩,
    by decide, by decide, by rfl, by decide, by decide, reaches_of (by decide) rfl (by decide)⟩

/-- Beside it an early load of the same place. -/
def early : State := { base some1 with early := [{ core := 0, sel := .task, pc := 0x40, line := .sram 0 0x1000, ta := 0x1000, value := .ready 9 }] }

theorem witness_LoadsAndReads_early : (early.takeEarly 0x1000).1 = some (.ready 9) ∧ Issues (.ld 7 .pkg .d 0 3 9) early ∧
    early.slot.watched true false 0x1000 8 = none ∧ offsetAdd (early.g 3) (early.disp 0 8) = some 0x1000 :=
  ⟨rfl, issues_of (by decide) rfl, by decide, by decide⟩

/-- Beside it a CWAIT that has read its line's stamp. -/
def waited : State := (treed (base some1)).mapSlot fun t => { t with cwait := some none }

theorem witness_LoadsAndReads_counter : (∀ sc ∈ [Scope.core, .pkg, .dom, .sys], Issues (.crd 3 sc 5 9) (treed (base some1)) ∧
      Issues (.cwait sc 5 0) (treed (base some1)) ∧ Issues (.xrd 3 sc 6 9) (treed (base some1))) ∧
    (∃ r t, Reaches .crd true false 0x1000000000000 8 (treed (base some1)) t r [.hbm (objectBase 2)] ∧
      t.loadHeld [Place.hbm (objectBase 2)] t.queued = false ∧ t.poisonedAt (.hbm (objectBase 2)) = false ∧
      ((treed (base some1)).g 0).toNat ≤ t.natAt (.hbm (objectBase 2)) 8 ∧ t.datumPast 0 .pkg (t.lineStamp (.hbm (objectBase 2))) = true) ∧
    (∃ r t, Reaches .xrd true false 0x2000000000000 64 (treed (base some1)) t r [.hbm (objectBase 23)]) ∧
    offsetAdd ((treed (base some1)).g 5) 0 = some 0x1000000000000 ∧ offsetAdd ((treed (base some1)).g 6) 0 = some 0x2000000000000 ∧
    (Issues (.cwait .pkg 5 0) waited ∧ waited.slot.cwait = some none ∧ waited.datumPast 0 .pkg none = true) ∧
    Issues (.cwait .pkg 5 0) (actAlone some1) :=
  ⟨fun sc h => ⟨issues_of (by revert sc; decide) rfl, issues_of (by revert sc; decide) rfl, issues_of (by revert sc; decide) rfl⟩,
    ⟨_, _, reaches_of rfl rfl (by decide), rfl, rfl, by decide, rfl⟩, ⟨_, _, reaches_of rfl rfl (by decide)⟩, by decide, by decide,
    ⟨issues_of (by decide) rfl, rfl, by decide⟩, issues_of (by decide) rfl⟩

theorem witness_StoresAndAccessTraps : (Reaches .store false true 0x1000 8 (base some1) (base some1) (.own 0x1000) [.sram 0 0x1000] ∧
      MaySend 5 [.sram 0 0x1000] (base some1)) ∧ Issues (.st 5 .d 0 3 1) (base some1) ∧ Issues (.stWitness 5 .d 9 3 1) (base some1) ∧
    offsetAdd ((base some1).g 3) ((base some1).disp 0 8) = some 0x1000 ∧ offsetAdd ((base some1).g 4) ((base some1).disp 1 8) = none ∧
    Issues (.ld 0 .pkg .d 1 4 9) (base some1) ∧ Issues (.st 0 .d 1 4 9) (base some1) ∧
    ((base some1).takeEarly 0x1001).2.reach 0 0 .load true 0x1001 8 = .error 0x08 ∧ (base some1).reach 0 0 .posted true 0x1004 8 = .error 0x08 ∧
    (base some1).reach 0 0 .store true 0x1001 8 = .error 0x08 ∧ (base some1).reach 0 0 .store true 0x80 8 = .error Cause.codeWrite :=
  ⟨⟨reaches_of (by decide) rfl (by decide), by decide, by decide⟩, issues_of (by decide) rfl, issues_of (by decide) rfl, by decide, by decide,
    issues_of (by decide) rfl, issues_of (by decide) rfl, by decide, by decide, by decide, by decide⟩

theorem witness_AtomicsIssue : (∀ w : Option WReg, w ∈ [none, some (9 : WReg)] → ∀ i ∈ [Instr.postedAadd w 5 true 3 1, .postedAand w 0 false 3 1,
      .postedAor w 0 true 3 1, .postedAxor w 0 true 3 1, .postedAmin w 0 true 3 1, .postedAmax w 0 true 3 1, .postedAfadd w 0 3 1,
      .cadd w 0 5 1, .xaddFp32 w 0 6 1, .xaddBf16 w 0 6 1, .xaddFp8 w 0 6 1, .xclr w 0 6], Issues i (treed (base some1))) ∧
    (∀ i ∈ [Instr.retAadd 3 5 true 3 1 9, .retAand 3 5 true 3 1 9, .retAor 3 5 true 3 1 9, .retAxor 3 5 true 3 1 9, .retAmin 3 5 true 3 1 9,
      .retAmax 3 5 true 3 1 9, .aswap 3 5 false 3 1 9, .acas 3 5 false 3 1 9, .retAfadd 3 5 3 1 9], Issues i (treed (base some1))) ∧
    offsetAdd ((treed (base some1)).g 3) 0 = some 0x1000 ∧
    (∀ n ∈ [4, 8], Reaches .posted false true 0x1000 n (treed (base some1)) (treed (base some1)) (.own 0x1000) [.sram 0 0x1000] ∧
      Reaches .returning true true 0x1000 n (treed (base some1)) (treed (base some1)) (.own 0x1000) [.sram 0 0x1000]) ∧
    MaySend 5 [.sram 0 0x1000] (treed (base some1)) ∧
    (∃ r t, Reaches .cadd false true 0x1000000000000 8 (treed (base some1)) t r [.hbm (objectBase 2)]) ∧
    (∃ r t, Reaches .xadd false true 0x2000000000000 64 (treed (base some1)) t r [.hbm (objectBase 23)] ∧
      MaySend 0 [.hbm (objectBase 23)] t) := by
  refine ⟨fun w hw i hi => issues_of (by revert w i; decide) rfl, fun i hi => issues_of (by revert i; decide) rfl, by decide, ?_,
    ⟨by decide, by decide⟩, ⟨_, _, reaches_of rfl rfl (by decide)⟩, ⟨_, _, reaches_of rfl rfl (by decide), rfl, rfl⟩⟩
  intro n hn
  fin_cases hn <;> exact ⟨reaches_of (by decide) rfl (by decide), reaches_of (by decide) rfl (by decide)⟩

theorem witness_Witnesses : (∀ i ∈ [Instr.wnull 0, .wstamp .dom 3, .wstamp .host 3, .wget true 9 1, .wput 4 0 0, .wput 4 8 1, .wmerge 5 1 0,
      .wchk .pkg 0, .wchk .core 1, .wtest .pkg 9 1, .wtest .host 9 1, .wtest .pkg 9 2, .drain 0xFF none, .drain 1 (some 3)],
      Issues i (wits (base some1))) ∧ Scope.code .dom < 6 ∧ 6 ≤ Scope.code .host ∧ witMalformed ((wits (base some1)).g 0 ++ (wits (base some1)).g 0) = false ∧
    witMalformed ((wits (base some1)).g 8 ++ (wits (base some1)).g 1) = true ∧
    (wits (base some1)).w 0 = .val 0 ∧ (wits (base some1)).triviallySatisfied 0 = true ∧
    (wits (base some1)).triviallySatisfied (storeWitness 0 900 (3 * 8192) 0 5 (3 * 8192) 0) = false ∧
    witDevice (storeWitness 0 900 (3 * 8192) 0 5 (3 * 8192) 0) = 3 ∧ (wits (base some1)).w 2 = .pending .publication 77 ∧
    (wits (base some1)).drained 0xFF = true := by
  refine ⟨fun i hi => issues_of (by revert i; decide) rfl, by decide, by decide, by decide, by decide, by decide, by decide, by decide, by decide, by decide,
    by decide⟩

/-- A store of the task on stream 5, on its way. -/
def sending : State := (base some1).send 5 (.bytes [some 1]) 0x1000 none [.sram 0 0x1000]

theorem witness_StoreHeld : sending.loadHeld ([Place.sram 0 0x1000]) [] = true ∧ sending.storeHeld 0 [.sram 0 0x1000] [] = true ∧
    sending.drained 0x20 = false ∧ sending.drained 0x1F = true := by decide

/-! ### Hypotheses of the obligations are met: matrix and vector statements -/

/-- m1 FP8 4 by 8 at base 0, m2 FP8 8 by 4 at base 1, m3 BF16 8 by 4 at base 2, m0 empty; acc0 4 by 4 at offset 0. -/
def tiles (s : State) : State :=
  { s with
    core := { s.core with
      mshape := (((Vector.replicate 8 (0 : Word)).set 1 0x080400).set 2 0x040801).set 3 0x040842
      accd := (Vector.replicate 4 (0 : Word)).set 0 0x0404 } }

/-- Matrix operands: g9 a fresh 128 by 128 shape at base 7, g10 too large a one, g11 the last word of the region, g12 one past it. -/
def someM : List (GReg × Word) := [(1, 7), (3, 0x1000), (9, 0x808007), (10, 0x808047), (11, 0x0303), (12, 0x0304), (13, 0x040802)]

def mx : State := tiles (base someM)

theorem matrixReady_of {i : Instr} {l : List MReg} {s : State} (h : decodeCause i s = none) (g : gate s = .go)
    (a : s.actBesideTask = false ∧ s.core.matrix.length < 3) (t : ∀ n ∈ l, s.landingDue n = false ∧ s.core.net[n].refused = false)
    (f : s.slot.readsFlaw i = false := by rfl) : MatrixReady i l s := ⟨issues_of h g f, a.1, a.2, t⟩

theorem witness_MatrixRegisterFormsAndShapes : MatrixReady (.tshape 7 9) [7] mx ∧ shapeFault mx.core.partw mx.core.mshape 7 (mx.g 9) = none ∧
    MatrixReady (.tshape 7 10) [7] mx ∧ shapeFault mx.core.partw mx.core.mshape 7 (mx.g 10) = some 0x17 ∧
    shapeFault mx.core.partw mx.core.mshape 7 (mx.g 13) = some 0x18 ∧ MatrixReady (.tzero 1) [1] mx ∧ MatrixReady (.mrel 0) [] mx ∧
    MatrixReady (.macz 0) [] mx ∧ mx.releasePending 0 = false ∧ MatrixReady (.mrd 15 5 0 11) [] mx ∧
    ((mx.g 11).extractLsb' 16 48 = 0 ∧ ((mx.g 11).extractLsb' 0 8).toNat < accRows mx.core.accd[(0 : AReg)] ∧
      ((mx.g 11).extractLsb' 8 8).toNat < accCols mx.core.accd[(0 : AReg)]) ∧
    MatrixReady (.mrd 15 5 0 12) [] mx ∧ accRows mx.core.accd[(0 : AReg)] ≤ ((mx.g 12).extractLsb' 0 8).toNat :=
  ⟨matrixReady_of (by decide) rfl (by decide) (by decide), by decide, matrixReady_of (by decide) rfl (by decide) (by decide), by decide, by decide,
    matrixReady_of (by decide) rfl (by decide) (by decide), matrixReady_of (by decide) rfl (by decide) (by decide),
    matrixReady_of (by decide) rfl (by decide) (by decide), by decide, matrixReady_of (by decide) rfl (by decide) (by decide), by decide,
    matrixReady_of (by decide) rfl (by decide) (by decide), by decide⟩

theorem witness_ShapeChecks : shapeFault 0x408 mx.core.mshape 0 0x808008 = some 0x18 ∧ shapeFault 0x408 mx.core.mshape 0 0x808007 = none ∧
    shapeFault 0x408 mx.core.mshape 0 0x818007 = some 0x17 ∧ shapeFault 0x408 mx.core.mshape 0 0x0080FF = some 0x17 ∧
    shapeFault 0x408 mx.core.mshape 0 0x00807F = none ∧ shapeFault 0x408 mx.core.mshape 1 0x080400 = none := by decide

/-- Whether rows reach their places, and the state then and what they reach have a property. -/
def rowsRun (op : AccOp) (tas : List Word) (n : Nat) (s : State) (f : State → List (List (Place × Nat)) → List Word → Bool) : Bool :=
  match s.checkRows op n tas with
  | .error _ => false
  | .ok rs => match s.locateRows (!op.reads) (rs.drop s.slot.rows.length) s.slot.rows with
    | .found t ps => (tas.all fun ta => decide (s.slot.watched op.reads (!op.reads) ta n = none)) && f t ps (rs.map fun r => r.2.1)
    | _ => false

theorem rows_of {op : AccOp} {tas : List Word} {n : Nat} {s : State} {f : State → List (List (Place × Nat)) → List Word → Bool}
    (h : rowsRun op tas n s f = true) : ∃ t ps ts, RowsReach op tas n s t ps ts ∧ f t ps ts = true := by
  unfold rowsRun at h
  split at h
  · exact absurd h (by simp)
  · next rs e =>
    split at h
    · next t ps l =>
      simp only [Bool.and_eq_true, List.all_eq_true, decide_eq_true_eq] at h
      exact ⟨t, ps, _, ⟨rs, e, l, h.1, rfl⟩, h.2⟩
    · exact absurd h (by simp)

theorem witness_MatrixMemoryForms : (∀ i ∈ [Instr.tld 0 3 0 0, .tst 0 3 0 0], MatrixReady i [0] mx) ∧ shNonempty mx.core.mshape[(0 : MReg)] = false ∧
    (∀ i ∈ [Instr.tld 1 3 0 0, .tst 1 3 0 0], MatrixReady i [1] mx) ∧ shNonempty mx.core.mshape[(1 : MReg)] = true ∧
    rowAddresses (mx.g 3) ((List.range (shRows mx.core.mshape[(1 : MReg)])).map fun (r : Nat) => mx.disp 0 64 + (r : Int) * (mx.e 0).toInt) =
      some [0x1000, 0x1000, 0x1000, 0x1000] ∧
    (∀ op ∈ [AccOp.load, .store], ∃ t ps ts, RowsReach op [0x1000, 0x1000, 0x1000, 0x1000] 8 mx t ps ts ∧ decide (ts ≠ []) = true) ∧
    MatrixReady (.mepi .pkg 5 .none true 1 3 true .bf16 0) [] mx ∧ Scope.code .pkg ≤ 5 ∧ mx.releasePending 0 = false :=
  ⟨fun i hi => matrixReady_of (by revert i; decide) rfl (by decide) (by decide), by decide,
    fun i hi => matrixReady_of (by revert i; decide) rfl (by decide) (by decide), by decide, by decide,
    fun op h => rows_of (f := fun _ _ ts => decide (ts ≠ [])) (by revert op; decide), matrixReady_of (by decide) rfl (by decide) (by decide), by decide, by decide⟩

/-- The same core in a rectangle of two columns. -/
def inRect (broken : Bool) : State :=
  { mx.mapSlot fun t => { t with rect := 0x10100 } with
    groups := [{ kernel := 1, id := 0, rect := some (0, 1, 0), members := [(0, .task, 0x100000001, 0), (1, .task, 0x100000002, 0)], generation := 0,
                 arrivals := [], broken := broken }] }

theorem witness_Multiplications : MatrixReady (.mma false 0 1 2 14 1) [1, 2] mx ∧ mx.releasePending 0 = false ∧
    mmaFault mx.core.mshape[(1 : MReg)] mx.core.mshape[(2 : MReg)] mx.core.accd[(0 : AReg)] = none ∧
    mmaFault mx.core.mshape[(1 : MReg)] mx.core.mshape[(3 : MReg)] mx.core.accd[(0 : AReg)] = some 0x17 ∧
    mmaFault mx.core.mshape[(1 : MReg)] mx.core.mshape[(2 : MReg)] mx.core.accd[(1 : AReg)] = some 0x19 ∧
    (∀ o ∈ mx.core.vector, vectorWrites o.instr 14 = false ∧ vectorWrites o.instr (pairOf 14) = false) ∧
    MatrixReady (.mmar true 0 1 2 0 0) [1, 2] (inRect false) ∧ (inRect false).slot.rect.getLsbD 16 = true ∧
    (∃ q, (inRect false).rectOf (inRect false).core.id = some q ∧ q.whole = true) ∧
    (MatrixReady (.mmar true 0 1 2 0 0) [] (inRect true) ∧ ∃ q, (inRect true).rectOf (inRect true).core.id = some q ∧ q.whole = false) ∧
    (∀ c ∈ (inRect false).copies, c.src = (inRect false).core.id → c.reg ≠ 1 ∧ c.reg ≠ 2) ∧
    MatrixReady (.mmar true 0 1 2 0 0) [] mx ∧ mx.slot.rect.getLsbD 16 = false :=
  ⟨matrixReady_of (by decide) rfl (by decide) (by decide), by decide, by decide, by decide, by decide, by decide,
    matrixReady_of (by decide) rfl (by decide) (by decide), by decide, ⟨_, rfl, rfl⟩,
    ⟨matrixReady_of (by decide) rfl (by decide) (by decide), _, rfl, rfl⟩, by decide, matrixReady_of (by decide) rfl (by decide) (by decide), by decide⟩

theorem vectorReady_of {i : Instr} {s : State} (h : decodeCause i s = none) (g : gate s = .go)
    (a : s.actBesideTask = false ∧ s.core.vector.length < 3) (f : s.slot.readsFlaw i = false := by rfl) : VectorReady i s :=
  ⟨issues_of h g f, a.1, a.2⟩

theorem witness_VectorRegisterForms : (∀ i ∈ [Instr.vfadd (some 3) 15 14 13, .vcmp .ile none 3 0 15, .vsel 2 1 2 3, .vcvt .fp32Bf16 (some 0) .ru 1 2,
    .vrev none 1 1, .kset 0, .kxor 3 3 3, .vscl none 1 2 3, .vrot none 1 2 1, .vins (some 1) 1 1 3, .kfromg 3 1, .vmovg 15 9 1 63, .kmovg 0 9 3],
    VectorReady i (base some1)) ∧ (∀ i ∈ [Instr.vfadd (some 3) 15 14 13, .kset 0, .vins (some 1) 1 1 3], Issues i (actBeside some1)) ∧
    (actBeside some1).actBesideTask = true :=
  ⟨fun i hi => vectorReady_of (by revert i; decide) rfl (by decide), fun i hi => issues_of (by revert i; decide) rfl, by decide⟩

/-- k1 enables lanes 0 and 63. -/
def masked : State := { base some1 with core := { coreWith some1 with k := (Vector.replicate 4 (0 : Word)).set 1 0x8000000000000001 } }

theorem witness_VectorMemoryForms : (∀ i ∈ [Instr.vld (some 1) .n16 0 3 2, .vst (some 1) .n16 5 0 3 2, .vlds (some 1) .n16 0 3 2,
      .vsts (some 1) .n16 5 0 3 2], VectorReady i masked) ∧
    ((taOfs (masked.g 3) : Int) + masked.disp 0 (64 * Width.bytes .n16)) % Width.bytes .n16 = 0 ∧
    rowAddresses (masked.g 3) ((enabledLanes (Machine.maskOf masked.core.k (some 1))).map fun (j : Fin 64) => masked.disp 0 128 + (j.val : Int) * 2) =
      some [0x1000, 0x107E] ∧
    (∃ t ps ts, RowsReach .load [0x1000, 0x107E] 2 masked t ps ts ∧ t.vldReady (ps.flatten.map fun p => p.1.line) = true) ∧
    (∃ t ps ts, RowsReach .store [0x1000, 0x107E] 2 masked t ps ts ∧ (t.vstReady 5 (lineRuns ts) (ps.flatten.map fun p => p.1.line) &&
      t.vstReady 5 ts.length (ps.flatten.map fun p => p.1.line)) = true) ∧
    -- a base that is not a multiple of the width
    ((taOfs (masked.g 1) : Int) + 0) % Width.bytes .n16 ≠ 0 ∧ masked.actBesideTask = false ∧
    (masked.e 0).toInt % Width.bytes .n16 = 0 ∧ (((masked.setE 7 1).e 7).toInt % Width.bytes .n16 ≠ 0) ∧
    (∀ k, some (1 : KReg) = some k → ∀ o ∈ masked.core.vector, maskWrites o.instr k = false) :=
  ⟨fun i hi => vectorReady_of (by revert i; decide) rfl (by decide), by decide, by decide,
    rows_of (f := fun t ps _ => t.vldReady (ps.flatten.map fun p => p.1.line)) (by decide),
    rows_of (f := fun t ps ts => t.vstReady 5 (lineRuns ts) (ps.flatten.map fun p => p.1.line) &&
      t.vstReady 5 ts.length (ps.flatten.map fun p => p.1.line)) (by decide), by decide, by decide, by decide, by decide, by intro k _ o ho; cases ho⟩

/-- A vector instruction at the head of the queue. -/
def queuedV (i : Instr) (xs : List Word) : State := masked.queueVector (masked.op i xs [] [] [])

theorem witness_VectorResults : ∀ i ∈ [Instr.vfadd (some 1) 1 2 3, .vrot none 1 2 1, .kand 3 1 2, .vcmp .ine (some 1) 3 1 2, .vmovg 0 9 1 63], ∃ o,
    (0 : Nat) < Config.cores ∧ ((queuedV i [7, 65]).coreOf 0).id = 0 ∧ ((queuedV i [7, 65]).coreOf 0).vector = [o] ∧ o.done = 0 ∧
      o.places = [] ∧ o.instr = i := fun i _ => ⟨_, by decide, by rfl, by rfl, rfl, rfl, rfl⟩

theorem witness_VectorResults_flaws : RegName.v 1 ∉ (queuedV (.vmovg 0 9 1 63) []).core.flaws ∧
    RegName.v 1 ∈ ({ queuedV (.vmovg 0 9 1 63) [] with core := { (queuedV (.vmovg 0 9 1 63) []).core with flaws := [.v 1] } } : State).core.flaws := by decide

/-- A memory form in the vector queue with two lanes, the first two bytes of SRAM line 0x40, and a line there with an error or none. -/
def vmem (i : Instr) (bad : List Nat) : State :=
  let o : EngOp := { instr := i, sel := .task, xs := [3], lanes := [], places := [[(.sram 0 0x1000, 1)], [(.sram 0 0x1001, 1)]], tas := [0x1000, 0x1001],
                     done := 0, id := 77, buf := [], vt := 900 }
  { masked with core := { masked.core with vector := [o], poison := bad } }

theorem witness_VectorResults_memory : (∀ i ∈ [Instr.vld none .n8 0 3 1, .vst none .n8 0 0 3 1], ∃ o, ((vmem i []).coreOf 0).vector = [o] ∧ o.instr = i ∧ (vmem i []).ok = true ∧
      o.next = [(0, 0x1000, [(.sram 0 0x1000, 1)]), (1, 0x1001, [(.sram 0 0x1001, 1)])]) ∧
    firstPoison ((vmem (.vld none .n8 0 3 1) []).focusOn 0 .task) 0x1000 (.sram 0 0x1000) 1 = none ∧
    firstPoison ((vmem (.vld none .n8 0 3 1) [0x40]).focusOn 0 .task) 0x1000 (.sram 0 0x1000) 1 = some 0x1000 := by
  refine ⟨?_, by decide, by decide⟩
  intro i hi; fin_cases hi <;> exact ⟨_, rfl, rfl, by decide, by decide⟩
/-! ### Hypotheses of the obligations are met: engines and the tree -/

/-- g3 and g9 own SRAM addresses, g10 endpoint 0 of device 3, g11 outside the device; e0 = 64. -/
def someE : List (GReg × Word) := [(1, 7), (3, 0x1000), (9, 0x2000), (10, 0x6000), (11, 0x8000), (12, 1)]

def eng : State := (base someE).setE 0 64

/-- An activation that waits for a publication's confirmation in w2. -/
def confirming : State := (actAlone someE).setW 2 (.pending .confirmation 4)

theorem witness_EngineInstructions : (∀ i ∈ [Instr.cpy 5 none 3 3 9, .fill 0 none 15 3 9, .gath 1 none 2 3 9], Issues i eng) ∧
    eng.copyFault (eng.command .cpy 5 none 3 (eng.g 3) (eng.g 9) []) = none ∧
    (eng.copyFault (eng.command .cpy 5 none 3 (eng.g 0) (eng.g 9) [])).isSome = true ∧
    MayAwait (some 3) eng ∧ (Issues (.cpy 5 (some 2) 3 3 9) confirming ∧ confirming.sel = .act ∧ confirming.w 2 = .pending .confirmation 4) ∧
    (eng.engine (.copy 0)).room (.copy 0) = true ∧ eng.ownStoreQueued = false ∧
    eng.afterOk (eng.command .cpy 5 none 3 (eng.g 3) (eng.g 9) []).wait = true ∧
    Issues (.tidset 63 3) eng ∧ taOfs (eng.g 3) % 8 = 0 ∧ eng.slot.watched true false (eng.g 3) 96 = none ∧
    Issues (.cpwait 10 0) eng ∧ eng.engineNamed (eng.g 10) = some (.copy 0) ∧ ((eng.engine (.copy 0)).below - (eng.g 0).truncate 32).toNat < 2 ^ 31 ∧
    2 ^ 31 ≤ ((eng.engine (.copy 0)).below - (eng.g 12).truncate 32).toNat ∧
    ((eng.g 11).extractLsb' 13 8).toNat ≠ eng.device.toNat :=
  ⟨fun i hi => issues_of (by revert i; decide) rfl, by decide, by decide, .inl rfl, ⟨issues_of (by decide) rfl, rfl, rfl⟩, by decide, by decide,
    by decide, issues_of (by decide) rfl, by decide, by decide,
    issues_of (by decide) rfl, by decide, by decide, by decide, by decide⟩

/-- Two rank-1 FP32 records of 4 elements in registers 0 and 1. -/
def recs : State :=
  { eng with
    core := { eng.core with
      tids := [(0, { format := 3, rank := 1, scaled := false, square := false, base := 0x1000, sbase := 0, ext := [4], str := [4] }),
               (1, { format := 3, rank := 1, scaled := false, square := false, base := 0x2000, sbase := 0, ext := [4], str := [4] })] } }

theorem witness_EngineInstructions_lay : Issues (.lay 5 none 3 0 12) recs ∧ (recs.tid (recs.g 0)).isSome = true ∧ (recs.tid (recs.g 12)).isSome = true :=
  ⟨issues_of (by decide) rfl, by decide, by decide⟩

theorem recordPlaces_own {s : State} {ta : Word} {o : Nat} {l : List Nat} {ps : List Place}
    (h : ∀ i ∈ l, s.reach s.core.id s.slot.ctx .load true (mkTa (taHandle ta) (taOfs ta + 8 * i)) 8 = .ok (.own (o + 8 * i))) :
    s.recordPlaces ta l ps = .found s (ps ++ l.map fun (i : Nat) => .sram s.core.id (o + 8 * i)) := by
  induction l generalizing ps with
  | nil => simp [State.recordPlaces]
  | cons i l ih =>
    rw [State.recordPlaces, h i List.mem_cons_self]
    change s.recordPlaces ta l (ps ++ [.sram s.core.id (o + 8 * i)]) = _
    rw [ih fun k hk => h k (List.mem_cons_of_mem i hk), List.append_assoc]
    rfl

/-- The places of a record's dwords. -/
def recordDwords : List Place := (List.range 12).map fun (k : Nat) => Place.sram 0 (0x1000 + 8 * k)

theorem witness_EngineInstructions_record : eng.reach 0 0 .load false (eng.g 3) 96 = .ok (.own 0x1000) ∧
    eng.recordPlaces (eng.g 3) (List.range 12) [] = .found eng recordDwords :=
  ⟨by decide, recordPlaces_own (s := eng) (ta := eng.g 3) (o := 0x1000) (l := List.range 12) (ps := []) (by decide)⟩

theorem witness_EngineInstructions_record_read : eng.slot.watched true false (eng.g 3) 96 = none ∧
    eng.loadHeld ((recordDwords.map Place.line).eraseDups) eng.queued = false ∧ ∀ p ∈ recordDwords, eng.poisonedAt p = false :=
  ⟨by rfl, by decide, by decide⟩

/-- A command as the task would issue it. -/
def aCommand : Cmd := eng.command .cpy 5 none 3 0x1000 0x2000 []

/-- The copy engine idle with a command queued, and running one with a unit read. -/
def queuedC : State := { eng with core := { eng.core with copy := { Engine.reset with queue := [aCommand] } } }

def runningC (p : Plan) : State :=
  { eng with
    core := { eng.core with
      copy := { Engine.reset with
        running := some { cmd := aCommand, number := 0, unit := 0, plan := some p, issued := false, failure := none, bytes := 0, first := true, last := none } } } }

theorem witness_EngineSteps : engineExists (.copy 4095) = true ∧ engineExists (.layout 255) = true ∧ engineExists (.copy 4096) = false ∧
    (queuedC.engine (.copy 0)).running = none ∧ (queuedC.engine (.copy 0)).queue = [aCommand] ∧ queuedC.traceOf aCommand = none ∧
    (runningC { reads := [(.sram 0 0x1000, 64)], got := [], writes := [] }).ownWriteDue aCommand (.sram 0 0x1000) = false ∧
    (runningC { reads := [(.sram 0 0x1000, 64)], got := [], writes := [] }).poisonedAt (.sram 0 0x1000) = false ∧
    (runningC { reads := [], got := [1], writes := [([.sram 0 0x2000], 0x2000, 1)] }).unsettled 0 2 5 < 64 ∧
    ({ eng with core := { eng.core with copy := { Engine.reset with settling := [{ cmd := aCommand, number := 0, unit := 1, plan := none, issued := true, failure := none, bytes := 64, first := false, last := some 990 }] } } } : State).commandSettled
      (.copy 0) { cmd := aCommand, number := 0, unit := 1, plan := none, issued := true, failure := none, bytes := 64, first := false, last := some 990 } = true ∧
    aCommand.queue = none ∧ aCommand.token = some (3, 500) :=
  ⟨by decide, by decide, by decide, rfl, rfl, rfl, by decide, by decide, by decide, rfl, rfl, rfl⟩

theorem witness_EngineSteps_refusal : ∃ x, ({ runningC { reads := [], got := [], writes := [] } with
      stores := [{ src := 0, origin := 2, stream := 5, seq := 1, pred := none, stamp := 0, covered := true, place := .sram 0 0x2000,
                   op := .bytes [some 1], phase := .refused 0x2F, kernel := 1, ctx := 0, reply := none, unit := some (.copy 0, 0, 0), sends := 0,
                   sent := 0, out := true, via := none, packet := none, hub := none, ta := 0x2000, replica := 0 }] } : State).stores[0]? = some x ∧ x.unit = some (.copy 0, 0, 0) ∧
    x.phase = .refused 0x2F := ⟨_, rfl, rfl, rfl⟩

theorem witness_LayoutEnginesSteal : ({ eng with vt := 1024 } : State).vt.toNat % 64 = 0 ∧ tabGet eng.steals 0 ≠ some 1024 ∧ eng.vt.toNat % 64 ≠ 0 ∧ ({ eng with layouts := [(1, { Engine.reset with queue := [{ aCommand with op := .lay }] })] } : State).busiest 0 = some 1 ∧
    (∀ c, eng.attachmentOfKernel c = none) := ⟨by decide, by decide, by decide, by decide, by intro c; rfl⟩

/-- g5 the own directory /sys through handle 4, g6 its handle 3, g10 and g11 a name that is not there, g12 and g13 the name coremap. -/
def someT : List (GReg × Word) :=
  [(4, 0xFFF0000000000000), (5, 0x4000000000000), (6, 0x3000000000000), (7, 0x5000000000000), (8, 0x6000000000000), (10, 0x78), (12, 0x70616D65726F63)]

def tr : State := treed (base someT)

theorem witness_TreeInstructions : tr.outstanding = [] ∧ (∀ i ∈ [Instr.walk 9 5 12, .openNode true false false false false 9 6, .stat 9 6, .bind 5 6 10,
      .unbind 5 12, .mkobj .dir 9 5 10, .close 6, .close 8], Issues i tr) ∧
    (∃ t x, treeWalk 0 0 (tr.g 5) (tr.g 12) (tr.g 13) tr = .ok (t, x)) ∧ treeWalk 0 0 (tr.g 5) (tr.g 10) (tr.g 11) tr = .error (0x24, .comp) ∧
    (∃ t x, treeOpen 0 0 (tr.g 6) { read := true, write := false, shadow := false } false false tr = .ok (t, x)) ∧
    (∃ t x, treeStat 0 0 (tr.g 6) tr = .ok (t, x)) ∧ treeStat 0 0 (tr.g 8) tr = .error (0x0A, .ta) ∧
    (∃ t x, treeBind 0 0 (tr.g 5) (tr.g 6) (tr.g 10) (tr.g 11) tr = .ok (t, x)) ∧
    (∃ t x, treeUnbind 0 0 (tr.g 5) (tr.g 12) (tr.g 13) tr = .ok (t, x)) ∧ tr.ownHeld = false ∧ tr.closable 0 (tr.g 6) = true ∧
    tr.cachedAnywhere 0 3 = false ∧ tr.closable 0 (tr.g 8) = false :=
  ⟨by decide, fun i hi => issues_of (by revert i; decide) rfl, ⟨_, _, rfl⟩, rfl, ⟨_, _, rfl⟩, ⟨_, _, rfl⟩, rfl, ⟨_, _, rfl⟩, ⟨_, _, rfl⟩,
    by decide, by decide, by decide, by decide⟩

theorem witness_TreeInstructions_cached : ({ tr with sectorTlb := [(0, [Tlb.mk 0 3 10 100 0 4096 0 true true])] } : State).cachedAnywhere 0 3 = true := by decide

/-- A version of node 0x1001, an object of one page. -/
def versionOf (id : Nat) (own : Option (List Nat)) : Version := Version.mk id (.hbm 0 1) 4096 0 own 0 0 1 []

/-- Handle 3 with a shadow version of its node that is not published. -/
def shadowed : State :=
  { tr with
    contexts := [(0, { pfRoot with handles := [(3, { handleOn 0x1001 true with shadow := some 7 }), (5, { handleOn 10 false with dead := true })] })]
    nodes := rootNodes ++ [(0x1001, { kind := .mem, creator := 0, home := 0, body := .object 6 [versionOf 6 none, versionOf 7 (some [])] })] }

theorem witness_PublishAndRevoke : (∀ i ∈ [Instr.pub false 3 6, .pub true 3 6, .pub false 3 7, .revoke 3 6, .revoke 3 7, .revoke 3 8], Issues i shadowed) ∧
    shadowed.publishable 0 (shadowed.g 6) = .ok (some (0x1001, 7)) ∧ tr.publishable 0 (tr.g 6) = .error 0x0D ∧
    (∃ nd vs, shadowed.node 0x1001 = some nd ∧ nd.body = .object 6 vs) ∧ shadowed.outstanding = [] ∧
    shadowed.revocable 0x8 = none ∧ shadowed.revocable 0x3000000000000 = some (0, 3, false) ∧
    shadowed.revocable 0x5000000000000 = some (0, 5, true) :=
  ⟨fun i hi => issues_of (by revert i; decide) rfl, by rfl, by rfl, ⟨_, _, rfl, rfl⟩, by decide, by decide, by decide, by decide⟩


/-! ### Hypotheses of the obligations are met: tree operations and records -/

theorem witness_TreeOperations : ∃ h nd es, tr.handleOf 0 0 (taHandle (tr.g 5)) = .ok h ∧ h.node = .own 2 ∧ tr.node 2 = some nd ∧ nd.body = .dir es ∧
    componentOk (tr.g 12) (tr.g 13) = true ∧ componentOk (tr.g 10) (tr.g 11) = true ∧ h.ceiling.read = true ∧ h.ceiling.write = true ∧
    (∀ e ∈ es, e.name ≠ componentOf (tr.g 10) (tr.g 11)) ∧ (∃ e, es.find? (fun e => e.name = componentOf (tr.g 12) (tr.g 13)) = some e) ∧
    (tr.context 0).freeIndex = some 21 ∧ (∃ k, tr.handleOf 0 0 (taHandle (tr.g 6)) = .ok k) ∧ tr.inPlat 0 2 = true ∧ tr.entryRoom nd es = true :=
  ⟨_, _, _, rfl, rfl, rfl, rfl, by decide, by decide, by decide, by decide, by decide, ⟨_, rfl⟩, by decide, ⟨_, rfl⟩, by decide, by decide⟩

/-- The same directory through a handle whose ceiling gives nothing. -/
def trNone : State :=
  { tr with contexts := [(0, { pfRoot with handles := [(4, { handleOn 2 false with ceiling := Rights.none })] })] }

theorem witness_TreeOperations_ceiling : ∃ h, trNone.handleOf 0 0 (taHandle (trNone.g 5)) = .ok h ∧ h.node = .own 2 ∧ h.ceiling.read = false ∧
    h.ceiling.write = false ∧ trNone.inPlat 0 2 = true := ⟨_, rfl, rfl, rfl, rfl, by decide⟩

/-- Shootdowns that every cache has acknowledged, and one on its way. -/
def allCaches : List Nat := List.range 4112

theorem mem_allCaches (k : Nat) (h : k < 4112) : k ∈ allCaches := List.mem_range.mpr h

def shooting (all : List Nat) : State :=
  { shadowed with
    shootdowns := [{ what := .handle 0 3, why := .close (.task 0 .task), reached := all },
      { what := .handle 0 5, why := .revoke (.task 0 .task) 4 77, reached := all },
      { what := .node 0x1001 6, why := .publish 78, reached := all }, { what := .handle 0 3, why := .firmware, reached := [0] }]
    publications := [{ id := 79, who := .task 0 .task, w := 5, ctx := 0, handle := 3, node := 0x1001, version := 7, kernel := 1, vt := 3, conf := true, bound := false },
      { id := 78, who := .task 0 .task, w := 5, ctx := 0, handle := 3, node := 0x1001, version := 7, kernel := 1, vt := 3, conf := false, bound := true }] }

theorem shooting_parts (all : List Nat) : (∃ d, (shooting all).shootdowns[3]? = some d ∧ d.reached = [0]) ∧
    (shooting all).shootdowns[0]? = some { what := .handle 0 3, why := .close (.task 0 .task), reached := all } ∧
    (shooting all).shootdowns[1]? = some { what := .handle 0 5, why := .revoke (.task 0 .task) 4 77, reached := all } ∧
    (∃ p i d, (shooting all).publications[1]? = some p ∧ p.bound = true ∧ p.who = .task 0 .task ∧
      (shooting all).shootdowns.findIdx? (fun d => d.why = .publish p.id) = some i ∧ (shooting all).shootdowns[i]? = some d ∧ d.reached = all) :=
  ⟨⟨_, rfl, rfl⟩, rfl, rfl, ⟨_, 2, _, rfl, rfl, rfl, rfl, rfl, rfl⟩⟩

theorem witness_TreeEvents : (∃ d, (shooting allCaches).shootdowns[3]? = some d ∧ d.reached.contains 4111 = false) ∧
    (∃ l, (shooting allCaches).shootdowns[0]? = some { what := .handle 0 3, why := .close (.task 0 .task), reached := l } ∧ ∀ k < 4112, k ∈ l) ∧
    (∃ l, (shooting allCaches).shootdowns[1]? = some { what := .handle 0 5, why := .revoke (.task 0 .task) 4 77, reached := l } ∧ ∀ k < 4112, k ∈ l) ∧
    (shooting allCaches).storesThrough 0 5 = false ∧
    (∃ p i d, (shooting allCaches).publications[1]? = some p ∧ p.bound = true ∧ p.who = .task 0 .task ∧
      (shooting allCaches).shootdowns.findIdx? (fun d => d.why = .publish p.id) = some i ∧ (shooting allCaches).shootdowns[i]? = some d ∧
      ∀ k < 4112, k ∈ d.reached) := by
  obtain ⟨⟨d, hd, hr⟩, h0, h1, p, i, e, a, b, c, f, g, k⟩ := shooting_parts allCaches
  exact ⟨⟨d, hd, by rw [hr]; decide⟩, ⟨_, h0, mem_allCaches⟩, ⟨_, h1, mem_allCaches⟩, by rfl, p, i, e, a, b, c, f, g, by rw [k]; exact mem_allCaches⟩

/-- Kernel 1, running, on core 0. -/
def kernelOne : Kernel :=
  { queue := 2, index := 0, tag := 9, seq := 0, ctx := 0, vf := 31, priv := true, program := 0, entry := 0, featreq := 0, partw := 0x408, cores := [0],
    params := [], d4 := 0, d5 := 0, d6 := 0, firstGtid := 0x300000001, vtStart := 5, vtEnd := 0, state := .running, cause := 0, record := 0, stages := 1,
    nextGroup := 1, reporter := none, leaving := [], counts := false, dumps := none }

/-- A confirmed publication to be bound, a miss and a page copy in an object of one 4 KiB page behind a one-level table at 0. -/
def walking : State :=
  { shadowed with
    contexts := [(0, { pfRoot with handles := [(3, handleOn 0x1001 true)] })]
    nodes := rootNodes ++ [(0x1001, { kind := .mem, creator := 0, home := 0, body := .object 6 [versionOf 6 none, versionOf 7 (some [])] })]
    hbm := [(1, 0x30), (7, 0x8E)]
    kernels := [(1, { kernelOne with state := .complete })], published := [(4 * 4096, 2000)]
    publications := [{ id := 79, who := .task 0 .task, w := 5, ctx := 0, handle := 3, node := 0x1001, version := 7, kernel := 1, vt := 3, conf := true, bound := false }]
    misses := [{ sector := 0, cores := [0], ctx := 0, handle := 3, node := 0x1001, ver := 6, ofs := 0x10 }]
    pageCopies := [{ node := 0x1001, ver := 7, page := 0, size := 4096, frame := 9 }] }

theorem witness_TreeEvents_publication : ∃ p nd old vs, walking.publications[0]? = some p ∧ p.bound = false ∧ walking.killedKernel p.kernel = false ∧
    walking.confirmedAt p.kernel p.vt = true ∧ walking.mayBind 0 p = true ∧ walking.node p.node = some nd ∧ nd.body = .object old vs :=
  ⟨_, _, _, _, rfl, rfl, by decide, by decide, by decide, rfl, rfl⟩

theorem witness_TreeEvents_walks : (∃ m h, walking.misses[0]? = some m ∧ ((walking.misses.take 0).filter fun k => k.sector / 4 = m.sector / 4).length < 128 ∧
      tabGet (walking.context m.ctx).handles m.handle = some h ∧ h.dead = false ∧ walking.hbmPoison.contains (descriptorOf m.ver / 64) = false ∧
      walk walking (descriptorRoot walking.hbm m.ver).2 (descriptorRoot walking.hbm m.ver).1 m.ofs = .page 0x3000 4096 true true) ∧
    (∀ frame size w r, walk walking (descriptorRoot walking.hbm 6).2 (descriptorRoot walking.hbm 6).1 0x1000 ≠ .page frame size w r) ∧
    ∃ c nd b vs v, walking.pageCopies[0]? = some c ∧ walking.node c.node = some nd ∧ nd.body = .object b vs ∧ findVersion vs c.ver = some v ∧ v.loc = .hbm 0 1 ∧
      walk walking 1 0 c.page = .page 0x3000 c.size true true := by
  refine ⟨⟨_, _, rfl, by decide, rfl, by decide, by decide, by decide⟩, ?_, _, _, _, _, _, rfl, rfl, rfl, rfl, rfl, by decide⟩
  intro f z w r h
  have : walk walking (descriptorRoot walking.hbm 6).2 (descriptorRoot walking.hbm 6).1 0x1000 = .absent := by decide
  rw [this] at h; cases h

/-- The same handles without privilege. -/
def trPlain : State := { tr with contexts := [(0, { pfRoot with handles := handles, priv := false })] }

/-- A job of port 2 in context 0. -/
def hosted (s : State) : State := { s with jobs := [(512, { job := 5, ord := true, unord := false, ctx := 0 })] }

theorem witness_EwetalRecords_sender : senderExists (.host 2 5 true) = true ∧ senderExists (.peer 9 2) = true ∧
    (∀ s ∈ [tr, shadowed, trPlain], (hosted s).mapped (.host 2 5 true) = some 0 ∧ (hosted s).mapped (.host 2 5 false) = none) ∧
    (hosted tr).senderDown (.host 2 5 true) = false ∧ ({ hosted tr with portsDown := 4 } : State).senderDown (.host 2 5 true) = true ∧
    (hosted tr).unsettled 0x1118 0 7 < 64 ∧ (hosted tr).hubWork = [] := by decide

theorem witness_EwetalRecords : 
    (∃ t x, treeWalk hubCore 0 ((hosted tr).g 5) ((hosted tr).g 12) ((hosted tr).g 13) (hosted tr) = .ok (t, x)) ∧ treeWalk hubCore 0 ((hosted tr).g 5) ((hosted tr).g 10) ((hosted tr).g 11) (hosted tr) = .error (0x24, .comp) ∧
    (∃ t x, treeOpen hubCore 0 ((hosted tr).g 6) { read := true, write := false, shadow := false } false false (hosted tr) = .ok (t, x)) ∧
    (∃ t x, treeBind hubCore 0 ((hosted tr).g 5) ((hosted tr).g 6) ((hosted tr).g 10) ((hosted tr).g 11) (hosted tr) = .ok (t, x)) ∧
    (∃ t x, treeUnbind hubCore 0 ((hosted tr).g 5) ((hosted tr).g 12) ((hosted tr).g 13) (hosted tr) = .ok (t, x)) ∧ (∃ t x, treeStat hubCore 0 ((hosted tr).g 6) (hosted tr) = .ok (t, x)) ∧
    (∃ t x, mkobjFor 0 8 ((hosted tr).g 5) ((hosted tr).g 10) ((hosted tr).g 11) 0 0 (hosted tr) = .ok (t, x)) ∧ (∃ c o, mkobjFor 0 8 ((hosted tr).g 5) ((hosted tr).g 12) ((hosted tr).g 13) 0 0 (hosted tr) = .error (c, o)) ∧
    (hosted tr).closable 0 ((hosted tr).g 6) = true ∧ (hosted tr).cachedAnywhere 0 3 = false ∧ ((hosted trPlain).context 0).priv = false ∧ ((hosted shadowed).context 0).priv = true ∧
    (hosted shadowed).revocable 0x5000000000000 = some (0, 5, true) ∧ (hosted shadowed).revocable 0x3000000000000 = some (0, 3, false) ∧
    (hosted shadowed).publishable 0 ((hosted shadowed).g 6) = .ok (some (0x1001, 7)) ∧ (hosted tr).readable 0 ((hosted tr).g 6) = .ok () ∧
    (∃ l, (hosted tr).hubRead 0 ((hosted tr).g 6) 64 = .ok l) ∧ (∃ l, (hosted tr).hubRead 0 ((hosted tr).g 6) 1 = .ok l) ∧ taOfs ((hosted tr).g 6) < 2 ^ 48 ∧ Memory.wf (hosted tr).host = true :=
  ⟨⟨_, _, rfl⟩, rfl, ⟨_, _, rfl⟩, ⟨_, _, rfl⟩, ⟨_, _, rfl⟩, ⟨_, _, rfl⟩, ⟨_, _, rfl⟩, ⟨_, _, rfl⟩, by decide, by decide, by decide, by decide, by decide,
    by decide, by rfl, by rfl, ⟨_, rfl⟩, ⟨_, rfl⟩, by decide, by decide⟩

/-- A published handle has no version left to publish. -/
def published0 : State := { tr with contexts := [(0, { pfRoot with handles := [(3, { handleOn 10 true with shadow := none })] })] }

theorem witness_EwetalRecords_nothing : (hosted published0).publishable 0 (published0.g 6) = .ok none ∧ (hosted published0).mapped (.host 2 5 true) = some 0 := ⟨by rfl, by decide⟩

/-! ### Hypotheses of the obligations are met: loads, stores and the datum as they go on -/

/-- A load of core 0's task of a dword at 0x1000, waiting for nothing. -/
def aLoad : Load := { places := [.sram 0 0x1000], bytes := 8, kind := .plain, scope := .pkg, wit := none, ta := 0x1000, read := [], got := none }

def aResult (src : Source) : Result := { core := 0, sel := .task, reg := 8, src := src }

/-- These results outstanding. -/
def owing (l : List Source) : State := { base some1 with results := l.map aResult }

/-- A stamp of a later epoch than the datum has seen. -/
def unseen : Word128 := stampWitness 5 900 4

theorem witness_LoadEvents : (∃ r, (owing [.ready 9]).results[0]? = some r ∧ r.src = .ready 9 ∧ r.core < 8192 ∧ r.reg ≠ 0) ∧
    (∃ r, (owing [.poison 9]).results[0]? = some r ∧ r.src = .poison 9) ∧
    (∀ k ∈ [LoadKind.plain, .combine 2, .crd], ∃ r, (owing [.load { aLoad with kind := k }]).results[0]? = some r ∧ r.src = .load { aLoad with kind := k } ∧
      aLoad.places = [.sram 0 0x1000] ∧ earlierLoad ((owing [.load { aLoad with kind := k }]).results.take 0) r { aLoad with kind := k } = false ∧
      (owing [.load { aLoad with kind := k }]).witnessLets (r.core % 8192) { aLoad with kind := k } (.sram 0 0x1000) = true ∧
      (((Place.sram 0 0x1000).lines { aLoad with kind := k }.reads).any (owing [.load { aLoad with kind := k }]).poisonedAt) = false ∧
      (((Place.sram 0 0x1000).lines { aLoad with kind := k }.reads).any ({ owing [.load { aLoad with kind := k }] with
        core := { (owing []).core with poison := [0x40] } } : State).poisonedAt) = true) ∧
    (∃ r, (owing [.load aLoad, .load aLoad]).results[1]? = some r ∧ earlierLoad ((owing [.load aLoad, .load aLoad]).results.take 1) r aLoad = true) ∧
    (owing []).witnessLets 0 { aLoad with wit := some unseen } (.sram 0 0x1000) = false ∧
    (∀ st ∈ [none, some ((0 : BitVec 6), (900 : BitVec 48))], ∃ r, (owing [.load { aLoad with places := [], got := some (7, st) }]).results[0]? = some r ∧
      r.src = .load { aLoad with places := [], got := some (7, st) }) ∧ (owing []).datumPast 0 .pkg none = true ∧ (owing []).datumPast 0 .pkg (some (0, 900)) = false := by
  refine ⟨⟨_, rfl, rfl, by decide, by decide⟩, ⟨_, rfl, rfl⟩, ?_, ⟨_, rfl, by decide⟩, by decide, ?_, by decide, by decide⟩
  · intro k hk; fin_cases hk <;> exact ⟨_, rfl, rfl, by decide, by decide, by decide, by decide, by decide⟩
  · intro st hs; fin_cases hs <;> exact ⟨_, rfl, rfl⟩

/-- The bytes of an instruction. -/
def ofInstr (i : Instr) : List Byte := match encode i with
  | some e => e.bytes
  | none => []

/-- At 0x40 an add of g1, which is outstanding, and behind it a load through handle 3. -/
def waiting : State :=
  let s : State := tr
  { s with
    core := { s.core with sram := memPut (memPut [] 0x40 (ofInstr (.add 2 1 1))) 0x44 (ofInstr (.ld 0 .pkg .d 0 6 9)) }
    results := [{ core := 0, sel := .task, reg := 1, src := .reply }], ir := 0x40102311 }

theorem witness_LoadEvents_early : waiting.slot.run = .running ∧ waiting.slot.request = none ∧ waiting.slot.rep = none ∧ gate waiting = .wait ∧
    (∃ x k h v o u pa, waiting.lookAhead 1 waiting.slot.pc [] [] = some x ∧
      (∀ e ∈ waiting.early, ¬(e.core = waiting.core.id ∧ e.sel = waiting.sel ∧ e.pc = x.pc)) ∧
      waiting.reach waiting.core.id waiting.slot.ctx .load true x.ta x.bytes = .ok (.object k h v o) ∧
      waiting.locate waiting.core.id waiting.slot.ctx false x.ta (.object k h v o) = .found u [.hbm pa] ∧
      meet ((Place.hbm pa).lines x.bytes) x.lines = false ∧ waiting.loadHeld ((Place.hbm pa).lines x.bytes) waiting.queued = false ∧
      waiting.unread ((Place.hbm pa).lines x.bytes) = false ∧ waiting.poisonedAt (.hbm pa) = false) :=
  ⟨rfl, rfl, rfl, by decide, _, _, _, _, _, _, _, rfl, by decide, rfl, rfl, by decide, by decide, by decide, by decide⟩

/-- One store of core 0's task, at a place in a phase. -/
def aStore (p : Place) (ph : Phase) : Store :=
  { src := 0, origin := 0, stream := 5, seq := 1, pred := none, stamp := 900, covered := true, place := p, op := .bytes [some 1, none, some 2],
    phase := ph, kernel := 1, ctx := 0, reply := none, unit := none, sends := 0, sent := 0, out := true,
    via := none, packet := none, hub := none, ta := 0x1000, replica := 0 }

def storing (x : Store) : State := { base some1 with stores := [x] }

/-- The same at a time by which a store not settled is sent again. -/
def late (x : Store) : State := { storing x with vt := 40000 }

theorem witness_StoreEvents : (∀ x ∈ [aStore (.sram 0 0x4FFFD) .issued, aStore (.hbm 0) .issued, aStore (.hbm (objectBase 32)) .issued],
      (storing x).ok = true ∧ (storing x).stores[0]? = some x ∧ x.phase = .issued ∧ x.out = true ∧ (storing x).predDone x = true ∧ (storing x).markRoom x = true ∧
      (storing x).arrives x.via = true ∧ (storing x).placeUp x.place = true ∧ (storing x).vcHeld x = false ∧ (storing x).refusal x = none ∧ x.op.length ≤ 64) ∧
    ((base some1).nodes.all fun m => m.2.kind ≠ .queue) = true ∧
    (∀ i, i < 32 → 0 + 64 ≤ objectBase i) ∧ (∀ i, i < 32 → objectBase (i + 1) ≤ objectBase 32) ∧
    (storing (aStore (.sram 4095 0x7FFFE) .issued)).refusal (aStore (.sram 4095 0x7FFFE) .issued) = some 0x0C ∧
    (storing (aStore (.sram 4095 0x7FFFE) .issued)).markRoom (aStore (.sram 4095 0x7FFFE) .issued) = true ∧
    (storing { aStore (.sram 0 0x1000) .issued with seq := 2, pred := some 1 }).predDone { aStore (.sram 0 0x1000) .issued with seq := 2, pred := some 1 } = true ∧
    ({ storing (aStore (.sram 0 0x1000) .issued) with stores := [aStore (.sram 0 0x1000) .issued, { aStore (.sram 0 0x1000) .issued with seq := 2, pred := some 1 }] } : State).predDone
      { aStore (.sram 0 0x1000) .issued with seq := 2, pred := some 1 } = false ∧
    (∀ ph ∈ [Phase.committed, .refused 0x12], ∃ x, (storing (aStore (.sram 0 0x1000) ph)).stores[0]? = some x ∧ x.phase = ph ∧ x.place = .sram 0 0x1000 ∧
      x.unit = none ∧ x.src < 4096 ∧ x.reply = none ∧ x.hub = none) ∧
    (∃ x, (storing (aStore (.host 7 0x1000) .committed)).stores[0]? = some x ∧ (∃ p a, x.place = .host p a) ∧ x.phase = .committed) ∧
    (∀ p ∈ [Place.sram 0 0x1000, .host 0 0x1000], ∀ k ∈ [(23 : Nat), 24], (late { aStore p .issued with sends := k }).stores[0]? = some { aStore p .issued with sends := k } ∧
      32768 ≤ ((late { aStore p .issued with sends := k }).vt - (aStore p .issued).sent).toNat ∧ isDispatch (aStore p .issued).src = false) ∧
    ((storing (aStore (.sram 0 0x1000) .issued)).vt - (aStore (.sram 0 0x1000) .issued).sent).toNat < 32768 := by
  refine ⟨by decide, by decide, by decide, by decide, by decide, by decide, by decide, by decide, ?_, ⟨_, rfl, ⟨_, _, rfl⟩, rfl⟩, by decide, by decide⟩
  intro ph hp; fin_cases hp <;> exact ⟨_, rfl, rfl, rfl, rfl, by decide, rfl, rfl⟩

/-- The same store of kernel 1, running, or of no kernel, past its time and its limit. -/
def losing (kernel : Nat) : State := { late { aStore (.sram 0 0x1000) .issued with sends := 24, kernel := kernel } with kernels := [(1, kernelOne)] }

theorem witness_StoreEvents_lost : (∃ x, (losing 1).stores[0]? = some x ∧ 24 ≤ x.sends ∧ x.hub = none ∧ x.kernel ≠ 0 ∧ ((losing 1).kernelRec x.kernel).state = .running) ∧
    (∃ x, (losing 0).stores[0]? = some x ∧ 24 ≤ x.sends ∧ x.hub = none ∧ x.kernel = 0 ∧ isDispatch x.src = false) ∧
    ({ base some1 with portsDown := 1 } : State).placeUp (.host 0 0) = false := by
  refine ⟨⟨_, rfl, by decide, rfl, by decide, rfl⟩, ⟨_, rfl, by decide, rfl, rfl, by decide⟩, by decide⟩

theorem witness_DatumEvents_marks : let s : State := { base some1 with msgMarks := [{ core := 1, dev := 4, src := 0, sel := .task, reply := false, seq := 5, vt := 5 }] }
    s.marks[0]? = none ∧ (∃ k, s.msgMarks[0 - s.marks.length]? = some k ∧ (s.vt - k.vt).toNat < 2 ^ 20 ∧ 2 ^ 20 ≤ ((0x100005 : BitVec 48) - k.vt).toNat) :=
  ⟨rfl, _, rfl, by decide, by decide⟩

theorem witness_DatumEvents :
    let m : Mark := { home := 3, src := 0, origin := 0, stream := 5, seq := 1, vt := 5, vf := 31 }
    let x : Sample := { scope := .pkg, region := 0, value := 900 }
    let s : State := { base some1 with marks := [m], samples := [x], beacons := [(9, { epoch := 63, vt := 5, datum := 4 })], published := [(4 * 4096, 700)] }
    s.marks[0]? = some m ∧ (s.vt - m.vt).toNat < 2 ^ 20 ∧ 2 ^ 20 ≤ (({ s with vt := 0x100005 } : State).vt - m.vt).toNat ∧ s.samples[0]? = some x ∧
      tabGet s.published (x.scope.code * 4096 + x.region) = some 700 ∧ tabGet ({ s with published := [] } : State).published (x.scope.code * 4096 + x.region) = none ∧
      tabGet s.beacons (9 : BitVec 8).toNat = some { epoch := 63, vt := 5, datum := 4 } ∧ tabGet s.beacons (8 : BitVec 8).toNat = none ∧
      ((0 : BitVec 6) = 63 + 1) ∧ stampAfter (6 : BitVec 48) 5 = true ∧ (255 < 256 ∧ 15 < 16 ∧ 3 < 4) ∧
      (∀ p ∈ [(2048, 16), (2048, 64), (2048, 256), (2048, 1024)], ({ s with vt := BitVec.ofNat 48 p.1 } : State).vt.toNat % p.2 = 0) ∧
      ∀ p ∈ [16, 64, 256, 1024], s.vt.toNat % p ≠ 0 := by decide

/-- An engine instruction of core 0's task with operands and steps done. -/
def anOp (i : Instr) (xs : List Word) (done : Nat) : EngOp :=
  { instr := i, sel := .task, xs := xs, lanes := [], places := [], tas := [], done := done, id := 77, buf := [], vt := 900 }

def engineRuns (o : EngOp) (run : Bool) : State := { mx with core := { mx.core with matrix := [o], mrun := run }, results := [{ core := 0, sel := .task, reg := 8, src := .engine 77 }] }

theorem witness_MatrixEngineEvents : (∀ i ∈ [Instr.macz 0, .mrd 0 8 0 11], (engineRuns (anOp i [0x0404, 0x0303] 0) false).ok = true ∧
      ((engineRuns (anOp i [0x0404, 0x0303] 0) false).coreOf 0).matrix = [anOp i [0x0404, 0x0303] 0] ∧ ((engineRuns (anOp i [0x0404, 0x0303] 0) false).coreOf 0).mrun = false ∧
      (((engineRuns (anOp i [0x0404, 0x0303] 0) false).coreOf 0).slot .task).run = .running ∧ (((engineRuns (anOp i [0x0404, 0x0303] 0) false).coreOf 0).slot .task).request = none ∧
      ((engineRuns (anOp i [0x0404, 0x0303] 0) true).coreOf 0).mrun = true) ∧
    (∀ i ∈ [Instr.mrel 0, .mepi .pkg 5 .none true 1 3 true .bf16 0], engineSteps (anOp i [0x0404] 0) ≤ 0) ∧ engineSteps (anOp (.mrd 0 8 0 11) [0x0404, 0x0303] 1) ≤ 1 ∧
    (∃ r ∈ (engineRuns (anOp (.mrd 0 8 0 11) [0x0404, 0x0303] 1) true).results, r.core = 0 ∧ r.src = .engine 77) ∧
    ((((engineRuns (anOp (.mrel 0) [0x0404] 0) true).setW 15 (.pending .epilogue 77)).coreOf 0).slot .task).w[(15 : WReg)] = .pending .epilogue 77 := by
  refine ⟨by decide, by decide, by decide, ⟨_, .head _, rfl, rfl⟩, by decide⟩

/-- The same instruction with pieces: one line of SRAM each. -/
def pieced (i : Instr) (xs : List Word) (buf : List (List Byte)) : EngOp :=
  { anOp i xs 0 with places := [[(.sram 0 0x1000, 32)], [(.sram 0 0x1040, 32)]], tas := [0x1000, 0x1040], buf := buf }

theorem witness_MatrixEngineEvents_steps : (∀ i ∈ [Instr.mma true 0 1 2 0 0, .mmar true 0 1 2 0 0, .tzero 1, .macz 0],
      (anOp i [0x080400, 0x080400, 0x0808, 0, 0x1000102030000] 0).done < engineSteps (anOp i [0x080400, 0x080400, 0x0808, 0, 0x1000102030000] 0) ∧
      (∀ d ∈ engineTiles i, ((engineRuns (anOp i [] 0) false).core.net[d]).due = none)) ∧
    (∀ i ∈ [Instr.tld 1 3 1 0, .tst 1 3 1 0, .mepi .pkg 0 .none false 1 3 false .fp32 0],
      let o := pieced i [0x080400, 0, 0] []
      let f := (engineRuns o true).focusOn 0 .task
      o.done < engineSteps o ∧ (∃ p ps, o.places[o.done]? = some (p :: ps)) ∧ f.pieceReadHeld o.id ((Place.sram 0 0x1000).lines 32) = false ∧
        f.streamRoom 0 1 = true ∧ f.pieceStoreHeld o.id 0 [(Place.sram 0 0x1000).line] = false ∧ firstPoison f 0x1000 (.sram 0 0x1000) 32 = none) ∧
    firstPoison (({ engineRuns (pieced (.tld 1 3 1 0) [0x080400] []) true with core := { (engineRuns (pieced (.tld 1 3 1 0) [0x080400] []) true).core with poison := [0x40] } } : State).focusOn 0 .task)
      0x1000 (.sram 0 0x1000) 32 = some 0x1000 := by
  refine ⟨by decide, ?_, by decide⟩
  intro i hi; fin_cases hi <;> exact ⟨by decide, ⟨_, _, rfl⟩, by decide, by decide, by decide, by decide⟩

/-- A copy due at m1 of core 0, which stands in a rectangle and has been read. -/
def landing (shape : Word) : State :=
  { mx with
    core := { mx.core with task := { mx.core.task with rect := 0x1000102030000 }, net := mx.core.net.set 1 { read := true, due := some 1, refused := false } }
    groups := [{ kernel := 1, id := 0, rect := some (0, 1, 0), members := [(0, .task, 0x100000001, 0), (1, .task, 0x100000002, 0)], generation := 0, arrivals := [], broken := false }]
    copies := [{ kernel := 1, src := 1, dst := 0, reg := 1, shape := shape, bytes := List.replicate 32 7 }] }

theorem witness_MatrixEngineEvents_landing : ∀ sh ∈ [(0x080400 : Word), 0x080407, 0x080402, 0x080300], ∃ c, (landing sh).copies[0]? = some c ∧
    ((landing sh).rectAt c.kernel c.dst).isSome = true ∧ ((landing sh).coreOf c.dst).task.kernel = c.kernel ∧ (landing sh).frozen c.dst = false ∧ (((landing sh).coreOf c.dst).net[c.reg]).read = true := by
  intro sh h; fin_cases h <;> exact ⟨_, rfl, by decide, by decide, by decide, by decide⟩

theorem witness_StripComputes : Memory.wf mx.core.sram = true := by decide

/-- Code up to 0x1100; g3 = 0x1000 lies in it, g9 = 0x1100 is its end. -/
def ovl : State := let s : State := base [(3, 0x1000), (9, 0x1100)]; { s with core := { s.core with dataOfs := 0x1100 } }

theorem witness_TasksEnd : (∀ i ∈ [Instr.exit, .endAct], Issues i (base some1)) ∧ (base some1).outstanding = [] ∧ (base some1).retiredAll = true ∧ (base some1).sel = .task ∧
    (∀ i ∈ [Instr.exit, .endAct], Issues i (actAlone some1)) ∧ (actAlone some1).outstanding = [] ∧ (actAlone some1).retiredAll = true ∧ (actAlone some1).sel = .act ∧
    (actAlone some1).ownUncommitted = false ∧ (actAlone some1).slot.chan = some 2 ∧ (∀ m ∈ (actAlone some1).slot.held, m.dst ≠ (actAlone some1).core.id) ∧
    Issues (.ovld 3) ovl ∧ ovl.actBesideTask = false ∧ (ovl.g 3).toNat % 256 = 0 ∧ (ovl.g 3).toNat < ovl.core.dataOfs ∧ ovl.queued = [] ∧ ovl.core.ovld = none ∧
    (ovl.g 9).toNat % 256 = 0 ∧ ovl.core.dataOfs ≤ (ovl.g 9).toNat ∧ Issues (.ovld 9) ovl :=
  ⟨fun i hi => issues_of (by revert i; decide) rfl, by decide, by decide, by decide, fun i hi => issues_of (by revert i; decide) rfl, by decide, by decide, by decide,
    by decide, by decide, by decide, issues_of (by decide) rfl, by decide, by decide, by decide, by decide, by decide, by decide, by decide, issues_of (by decide) rfl⟩

/-! ### Hypotheses of the obligations are met: messages, groups and tasks -/

/-- Destinations: g9 core 0 of device 3, g10 core 4095, g11 a sector's hub, g12 another device; g13 core 1;
g5 and g6 groups; g14 a
word that declares channel 5 with depth 2 and entry 0x40, g15 one of stage 1, g16 one of channel 6. -/
def someS : List (GReg × Word) :=
  [(1, 7), (3, 0x40), (4, 0xFFFFFFFFFFFFFFFF), (5, 5), (6, 6), (7, 0x100000000), (8, 0xC000000000000000), (9, 0x6000), (10, 0x6FFF), (11, 0x7010), (12, 0x8000), (13, 0x6001),
   (14, 0x4000025000), (15, 0x4000025100), (16, 0x4000026000)]

/-- Group 5 of kernel 1, the task its one member; group 6 with another member only; cores 0 and 1 serve the kernel. -/
def grouped (s : State) : State :=
  { s with
    groups := [{ kernel := 1, id := 5, rect := none, members := [(0, .task, 0x100000001, 0)], generation := 0, arrivals := [], broken := false },
      { kernel := 1, id := 6, rect := none, members := [(1, .task, 0x100000002, 0)], generation := 0, arrivals := [], broken := false }]
    others := [(1, { Core.reset 1 with partw := 0x408, alloc := some { kernel := 1, vf := 31, stage := 0 } })]
    kernels := [(1, kernelOne)], published := [(4 * 4096, 2000)] }

def gr : State := grouped (base someS)

/-- An activation beside that task, its request entries or all of them taken. -/
def inAct : State := { grouped (actBeside someS) with device := 3 }

def fullEntries (sel : SlotSel) (reply : Bool) : List Msg :=
  (List.range 4).map fun n => { entry := n, src := 0, sel := sel, reply := reply, dst := 9, kernel := 1, vf := 31, body := .message 0 [], sends := 0, waiting := false, since := 0, far := none, origin := none, poisoned := false }

theorem witness_SendsIssue : (∀ s ∈ [gr, inAct, { inAct with msgs := fullEntries .act false }, { inAct with msgs := fullEntries .act true }],
      ∀ i ∈ [Instr.send 5 8 10 16, .sendr 0 0 10 0, .sendm 15 8 5 24], Issues i s) ∧
    (∀ r ∈ [false, true], gr.destination r (gr.g 9) = .ok (0, none) ∧ gr.destination r (gr.g 10) = .ok (4095, none) ∧ gr.destination r (gr.g 11) = .error 0x16 ∧
      gr.destination r (gr.g 12) = .ok (0, some 4) ∧ inAct.destination r (inAct.g 9) = .ok (0, none) ∧ gr.entriesTaken 0 .task r < 4 ∧ inAct.entriesTaken 0 .act r < 4 ∧
      4 ≤ ({ inAct with msgs := fullEntries .act r } : State).entriesTaken 0 .act r) ∧ gr.sel = .task ∧ inAct.sel = .act ∧
    gr.copiesOf 15 (gr.g 5) 0 [] = .ok [] ∧ gr.copiesOf 15 (gr.g 6) 0 [] = .error (0x22, 6) ∧ gr.copiesOf 15 (gr.g 8) 0 [] = .error (0x21, 0xC000000000000000) := by
  refine ⟨?_, by decide, by decide, by decide, by decide, by decide, by decide⟩
  intro s hs i hi
  fin_cases hs <;> exact issues_of (by revert i; decide) rfl

/-- A message in a ring slot. -/
def inRing (n : Nat) : RingMsg := { slot := n, taken := false, stealable := true, rollbacks := 0, kernel := 1, key := none }

/-- Channel ch of a core with these messages in a ring of four at 0x2000. -/
def withChan (c : Core) (n : Chan) (l : List RingMsg) : Core :=
  { c with chans := c.chans.set n { Channel.reset with depth := 4, valid := true, ring := 0x2000, last := 3, entry := 0x80, msgs := l } }

def chanS (l : List RingMsg) (s : State) : State := { s with core := withChan s.core 2 l }

theorem witness_ChannelsIssue : (∀ s ∈ [gr, chanS [] gr, chanS [inRing 0] gr, chanS [] inAct, chanS [inRing 0] inAct], ∀ i ∈ [Instr.recv 2 23, .peek 2 0], Issues i s) ∧
    gr.core.chans[(2 : Chan)].valid = false ∧ (chanS [] gr).core.chans[(2 : Chan)].valid = true ∧ (chanS [] gr).core.chans[(2 : Chan)].oldest = none ∧
    (chanS [inRing 0] gr).core.chans[(2 : Chan)].oldest = some (inRing 0) ∧
    (chanS [inRing 0] gr).core.ringPoisoned ((chanS [inRing 0] gr).core.chans[(2 : Chan)]) 0 = false ∧
    (chanS [inRing 0] inAct).core.chans[(2 : Chan)].oldest = some (inRing 0) ∧ (chanS [] inAct).core.chans[(2 : Chan)].oldest = none := by
  refine ⟨?_, by decide, by decide, by decide, by decide, by decide, by decide, by decide⟩
  intro s hs i hi
  fin_cases hs <;> exact issues_of (by revert i; decide) rfl

theorem witness_GroupsAndMoves : Issues (.spawn 9 3 4) gr ∧ (gr.g 3).toNat < gr.core.exb.toNat ∧ (gr.g 3).getLsbD 0 = false ∧ gr.target (gr.g 4) = .ok none ∧
    gr.target (gr.g 13) = .ok (some 1) ∧ gr.entriesTaken 0 .task false < 4 ∧ Issues (.join 9 0 0) gr ∧ gr.groupsOf gr.slot.kernel < 4096 ∧ gr.setsOf gr.slot.gtid < 16 ∧
    Issues (.join 9 5 0) gr ∧ Issues (.join 9 6 0) gr ∧
    gr.groups.findIdx? (fun g => decide (g.kernel = gr.slot.kernel ∧ g.id.toNat = (gr.g 5).toNat) && g.rect.isNone) = some 0 ∧
    gr.groups.findIdx? (fun g => decide (g.kernel = gr.slot.kernel ∧ g.id.toNat = (gr.g 6).toNat) && g.rect.isNone) = some 1 ∧
    (∃ g, gr.groups[0]? = some g ∧ g.has gr.slot.gtid = true ∧ (g.members.filter fun m => m.2.2.1 ≠ gr.slot.gtid) = []) ∧
    (∃ g, gr.groups[1]? = some g ∧ g.has gr.slot.gtid = false) ∧ gr.groupOperand (gr.g 5) = .ok 0 ∧ gr.groupOperand (gr.g 6) = .error 0x22 ∧
    gr.groupOperand (gr.g 7) = .error 0x21 ∧ (∀ i ∈ [Instr.gidx 9 5, .gidx 9 6, .leave 5, .leave 6, .gbar 5, .gbar 6, .migr 13], Issues i gr) ∧
    (∀ i ∈ [Instr.gbar 5, .migr 13], Issues i inAct) ∧
    (∃ g g', gr.groups[0]? = some g ∧ (gr.arrive 0 g (g.genOf gr.slot.gtid)).groups[0]? = some g' ∧ g.genOf gr.slot.gtid < g'.generation ∧
      g'.allArrived (g.genOf gr.slot.gtid) = true ∧ stampAfter (gr.datum .pkg gr.core.id) (g'.latest gr.vt (g.genOf gr.slot.gtid)) = true) ∧
    gr.slot.rect.getLsbD 16 = false ∧ gr.movable gr.core.id 1 = true ∧ gr.outstanding = [] ∧ gr.queued = [] ∧ gr.commandsOf gr.core.id gr.slot.gtid = false ∧
    gr.settledAll gr.core.id .task = true ∧ gr.accepts 1 = true :=
  ⟨issues_of (by decide) rfl, by decide, by decide, by decide, by decide, by decide, issues_of (by decide) rfl, by decide, by decide, issues_of (by decide) rfl,
    issues_of (by decide) rfl, by decide, by decide, ⟨_, rfl, by decide, by decide⟩, ⟨_, rfl, by decide⟩, by decide, by decide, by decide,
    fun i hi => issues_of (by revert i; decide) rfl, fun i hi => issues_of (by revert i; decide) rfl, ⟨_, _, rfl, rfl, by decide, by decide, by decide⟩,
    by decide, by decide, by decide, by decide, by decide, by decide, by decide⟩

theorem witness_ChannelsIssue_bind : (∀ i ∈ [Instr.chb 5 true 14, .chb 5 true 15, .chb 5 true 16, .chb 5 false 14, .chhold 5 true 9, .chready 5 false 9], Issues i (gr.setE 0 0x3000)) ∧
    bindFault (gr.setE 0 0x3000) 5 ((gr.setE 0 0x3000).g 14) ((gr.setE 0 0x3000).e 0) = none ∧
    bindFault (gr.setE 0 0x3000) 5 ((gr.setE 0 0x3000).g 15) ((gr.setE 0 0x3000).e 0) = some 0x21 ∧
    bindFault (gr.setE 0 0x3000) 5 ((gr.setE 0 0x3000).g 16) ((gr.setE 0 0x3000).e 0) = some 0x15 ∧ (gr.setE 0 0x3000).destination false ((gr.setE 0 0x3000).g 9) = .ok (0, none) :=
  ⟨fun i hi => issues_of (by revert i; decide) rfl, by decide, by decide, by decide, by decide⟩

/-- The task in a rectangle of two cores. -/
def rectS : State :=
  { gr with
    groups := [{ kernel := 1, id := 0, rect := some (0, 1, 0), members := [(0, .task, 0x100000001, 0), (1, .task, 0x100000002, 0)], generation := 0, arrivals := [], broken := false }] }

theorem witness_GroupsAndMoves_rect : Issues (.leave 0) rectS ∧ rectS.groupOperand (rectS.g 0) = .ok 0 ∧
    ∃ g, rectS.groups[0]? = some g ∧ g.rect.isSome = true ∧ (g.members.filter fun m => m.2.2.1 ≠ rectS.slot.gtid) ≠ [] :=
  ⟨issues_of (by decide) rfl, by decide, _, rfl, by decide, by decide⟩

/-- A message on its way to channel 2 of core 1. -/
def aMsg (reply waiting : Bool) (b : MsgBody) : Msg :=
  { entry := 5, src := 0, sel := .task, reply := reply, dst := 1, kernel := 1, vf := 31, body := b, sends := 0, waiting := waiting, since := 5, far := none, origin := none,
    poisoned := false }

def env2 : Word := 0x20006000

/-- Core 1 of kernel 1 with these messages in channel 2, and one message on its way. -/
def sent (m : Msg) (valid : Bool) (l : List RingMsg) : State :=
  { gr with others := [(1, if valid then withChan { Core.reset 1 with alloc := some { kernel := 1, vf := 31, stage := 0 } } 2 l else Core.reset 1)], msgs := [m] }

theorem witness_MessagesArrive : (∀ r ∈ [false, true], ∀ w ∈ [false, true], (sent (aMsg r w (.message env2 [7])) true [inRing 3]).msgs[0]? = some (aMsg r w (.message env2 [7])) ∧
      (sent (aMsg r w (.message env2 [7])) true [inRing 3]).overtakes (aMsg r w (.message env2 [7])) = false ∧
      ((sent (aMsg r w (.message env2 [7])) true [inRing 3]).coreOf 1).alien 31 = false ∧
      ((sent (aMsg r w (.message env2 [7])) true [inRing 3]).coreOf 1).chans[(2 : Chan)].valid = true ∧
      ((sent (aMsg r w (.message env2 [7])) true [inRing 3]).coreOf 1).chans[(2 : Chan)].full = false ∧
      ((sent (aMsg r w (.message env2 [7])) true [inRing 3]).coreOf 1).chans[(2 : Chan)].refuse = false ∧
      (sent (aMsg r w (.message env2 [7])) true [inRing 3]).othersWait 0 (aMsg r w (.message env2 [7])) 2 = false ∧ (sent (aMsg r w (.message env2 [7])) true [inRing 3]).tenantSaved 1 31 = false ∧
      ((sent (aMsg r w (.message env2 [7])) false []).coreOf 1).chans[(2 : Chan)].valid = false ∧
      ((sent (aMsg r w (.message env2 [7])) true ((List.range 4).map inRing)).coreOf 1).chans[(2 : Chan)].full = true) ∧ (2 : Chan).val = (env2.extractLsb' 28 4).toNat ∧
    (∀ b ∈ [MsgBody.hold 2 true, .ready 2 true], (sent (aMsg false false b) true []).overtakes (aMsg false false b) = false ∧
      ((sent (aMsg false false b) true []).coreOf 1).alien 31 = false) := by decide

theorem witness_MessagesArrive_far : let m : Msg := { aMsg false false (.message env2 [7]) with far := some 4 }
    (sent m true []).msgs[0]? = some m ∧ m.dst < 8192 ∧ (sent m true []).overtakes m = false ∧ ((sent m true []).routeEntry m.src 4).getLsbD 62 = false := by decide

/-- A message of device 4 with sequence q, at core 1, with a mark of sequence 5 there or with full marks. -/
def fromFar (q : BitVec 16) : Msg := { aMsg false false (.message env2 [7]) with origin := some { dev := 4, link := 0, seq := q, noted := false } }

def farMark (dev : Nat) : MsgMark := { core := 1, dev := dev, src := 0, sel := .task, reply := false, seq := 5, vt := 0 }

theorem witness_MessagesArrive_marks : (∀ q : BitVec 16, (sent (fromFar q) true []).msgs[0]? = some (fromFar q) ∧ (fromFar q).placed = false) ∧
    (farMark 4).isFor (fromFar 5) 4 = true ∧ ((5 : BitVec 16) - 5).toNat < 2 ^ 15 ∧ ((5 : BitVec 16) - 0x8006).toNat < 2 ^ 15 ∧ (6 : BitVec 16) = 5 + 1 ∧
    (2 ^ 15 ≤ ((5 : BitVec 16) - 7).toNat ∧ (7 : BitVec 16) ≠ 5 + 1) ∧ (2 ^ 15 ≤ ((5 : BitVec 16) - 0x8005).toNat ∧ (0x8005 : BitVec 16) ≠ 5 + 1) ∧
    [farMark 9].find? (·.isFor (fromFar 5) 4) = none ∧ (64 ≤ (((List.range 64).map farMark).filter fun k => decide (k.core = 1)).length) ∧
    (aMsg false false (.message env2 [7])).placed = true :=
  ⟨fun _ => ⟨rfl, rfl⟩, by decide, by decide, by decide, by decide, by decide, by decide, by decide, by decide, rfl⟩

/-- Kernel 1 with two stages of two cores: stage 1 on cores 1 and 2, stage 2 on cores 3 and 4; stage 1's queue holds a message for channel 2. -/
def stageCore (id stage : Nat) (l : List RingMsg) : Core :=
  withChan { Core.reset id with partw := 0x408, alloc := some { kernel := 1, vf := 31, stage := stage } } 2 l

def stageMsg (n : Nat) : Msg := aMsg false false (.stage 1 (BitVec.ofNat 32 n) env2 [7])

def staged (l1 l2 : List RingMsg) (n : Nat) : State :=
  { base someS with
    core := { Core.reset 0 with alloc := none }
    others := [(1, stageCore 1 1 l1), (2, stageCore 2 1 l2), (3, stageCore 3 2 []), (4, stageCore 4 2 [])]
    kernels := [(1, { kernelOne with cores := [1, 2, 3, 4] })]
    stages := [{ kernel := 1, stage := 1, depth := 32, mask := 4, msgs := (List.range n).map stageMsg, pick := none }, { kernel := 1, stage := 2, depth := 32, mask := 8, msgs := [], pick := none }] }

theorem witness_TaskEvents_stages :
    (let s := staged [] [] 1
     s.stages.findIdx? (fun q => decide (q.kernel = 1 ∧ q.stage = 1)) = some 0 ∧ (∃ q m, s.stages[0]? = some q ∧ q.msgs = [m] ∧ m.body = .stage 1 0 env2 [7]) ∧
      (s.stageCores 1 1)[(0 : BitVec 32).toNat % (s.stageCores 1 1).length]? = some 1 ∧ ((s.coreOf 1).chans[envChan env2]).valid = true ∧ ((s.coreOf 1).chans[envChan env2]).full = false ∧
      s.tenantSaved 1 31 = false) ∧
    (let s : State := { staged [] [] 16 with vt := 8192 }
     let qs := (List.range 16).filterMap fun n => s.stages.find? fun q => decide (q.kernel = 1 ∧ q.stage = n)
     let loads := qs.map fun q => (q.stage, s.stageLoad q, (s.stageCores 1 q.stage).length)
     s.rebinding = none ∧ s.vt.toNat % 4096 = 0 ∧ extreme true loads = some (1, 16, 2) ∧ extreme false loads = some (2, 0, 2) ∧ (s.stageCores 1 2).reverse.find? s.rebindable = some 4 ∧
      8 * 2 ≤ 16 ∧ 4 * 0 * 2 ≤ 16 * 2 ∧ (s.stageOf 1 2).isSome = true) ∧
    (let s : State := { staged [] [] 16 with rebinding := some { kernel := 1, core := 4, src := 2, dst := 1, held := 0, vt := 5 } }
     s.vt ≠ 5 ∧ (s.stageOf 1 2).isSome = true ∧ (s.stageOf 1 1).isSome = true ∧ (s.stageCores 1 2).contains 4 = true ∧ (s.coreOf 4).task.run = .free ∧ (s.coreOf 4).act.run = .free) ∧
    (let s := staged [] [inRing 0, inRing 1] 0
     (s.coreOf 1).alloc = some { kernel := 1, vf := 31, stage := 1 } ∧ (s.coreOf 1).task.run = .free ∧ (s.coreOf 1).act.run = .free ∧ (s.coreOf 1).pick = none ∧
      (∃ q, s.stages.find? (fun q => decide (q.kernel = 1 ∧ q.stage = 1)) = some q ∧ q.chans = [2]) ∧ ((s.coreOf 1).chans[(2 : Chan)]).valid = true ∧
      ((s.coreOf 1).chans[(2 : Chan)]).full = false ∧ s.victim 2 ((s.stageCores 1 1).filter (· ≠ 1)) = some 2 ∧ (((s.coreOf 2).chans[(2 : Chan)]).stealable)[0]? = some (inRing 0)) := by
  refine ⟨⟨by decide, ⟨_, _, rfl, rfl, rfl⟩, by decide, by decide, by decide, by decide⟩, by decide, by decide, by decide, by decide, by decide, by decide,
    ⟨_, rfl, by decide⟩, by decide, by decide, by decide, by decide⟩

theorem witness_TaskEvents : (∃ n, ((chanS [inRing 0] gr).coreOf 0).act.run = .free ∧ ((chanS [inRing 0] gr).coreOf 0).pick = some n ∧
      (((chanS [inRing 0] gr).coreOf 0).chans[n]).oldest = some (inRing 0)) ∧
    (let s := sent (aMsg false false (.spawn 0x300000009 0x40 [1, 2] (some 1))) true []
     s.msgs[0]? = some (aMsg false false (.spawn 0x300000009 0x40 [1, 2] (some 1))) ∧ s.eligible 1 1 = true ∧ s.accepts 1 = true ∧ s.heldAtStart 1 = false) ∧
    ({ gr with migrations := [{ src := 0, dst := 1 }] } : State).migrations[0]? = some { src := 0, dst := 1 } ∧ gr.eligible (gr.coreOf 0).task.kernel 1 = true ∧ gr.vacant 1 = true ∧
    (({ gr with core := { gr.core with ovld := some (0x200, .task) } } : State).coreOf 0).ovld = some (0x200, .task) ∧
    gr.programPoisoned (gr.coreOf 0).program 0x200 (min (gr.coreOf 0).exb.toNat ((gr.coreOf 0).dataOfs - 0x200)) = false := by
  refine ⟨⟨2, by decide, by decide, by decide⟩, by decide, by decide, by decide, by decide, by decide, by decide⟩


/-! ### Hypotheses of the obligations are met: rollback, scans and pre-emption -/

/-- An activation of core 0 that firmware holds for the poison it consumed; it may have stored. -/
def consumed (dirty : Bool) : State :=
  { chanS [inRing 0] inAct with
    core := { (chanS [inRing 0] inAct).core with
      act := { (chanS [inRing 0] inAct).core.act with run := .halted .firmware, tcause := 0x2F, tval := 0x1000, dirty := dirty, trigger := some 0 } } }

theorem witness_RollbackAndScans : ((0 : Nat) < 4096 ∧ 64 * 8191 < 524288 ∧ 8191 ∉ (gr.coreOf 0).poison) ∧ (64 * 1 < Config.hbmBytes ∧ 1 ∉ gr.hbmPoison) ∧
    (8191 ∈ ({ gr with core := { gr.core with poison := [8191] } } : State).core.poison) ∧
    (∀ d ∈ [false, true], ((consumed d).coreOf 0).act.run = .halted .firmware ∧ (((consumed d).coreOf 0).act.tcause).extractLsb' 0 6 = 0x2F ∧
      (consumed d).escalates 0 = d) ∧ ((consumed false).coreOf 0).act.chan ≠ some 3 ∧
    (let s : State := { gr with core := { gr.core with exb := 0x1100, poison := [0x41] } }
     4096 * 1 < (s.coreOf 0).exb.toNat ∧ (∃ l ∈ (s.coreOf 0).poison, 4096 * 1 ≤ 64 * l ∧ 64 * l < min (4096 * 1 + 4096) (s.coreOf 0).exb.toNat) ∧
      s.programPoisoned (s.coreOf 0).program ((s.coreOf 0).codebase.toNat + 4096 * 1) (min (4096 * 1 + 4096) (s.coreOf 0).exb.toNat - 4096 * 1) = false) ∧
    4 ≤ ({ gr with bringUp := 7 } : State).bringUp.toNat ∧ (gr.coreOf 0).entryFeat ≠ gr.mapFeat 0 := by
  refine ⟨by decide, by decide, by decide, by decide, by decide, ⟨by decide, ⟨0x41, by decide, by decide, by decide⟩, by decide⟩, by decide, by decide⟩

/-- Sector 0's scan slot holds command word x of a core that the map marks as a target, its doorbell rung once. -/
def scanS (x : Nat) (u : Scan) : State :=
  { base [] with
    core := Core.reset 0
    hbm := memPutDword (memPutDword (memPutDword [] (objectBase 0 + 8 * 5) 1) (scanSlot 0 0) (BitVec.ofNat 64 x)) (objectBase 2) 1
    scans := [(0, u)] }

def scanIdleU : Scan := { served := 0, running := none, abort := none }

theorem witness_RollbackAndScans_scans : (let s := scanS 5 scanIdleU
     let cmd := memDword s.hbm (scanSlot 0 0)
     let c := (cmd.extractLsb' 0 12).toNat
     (s.scanUnit 0).running = none ∧ (s.scanUnit 0).served < (memDword s.hbm (objectBase 2 + 8 * 0)).toNat ∧
      s.datumPast hubCore .pkg (s.lineStamp (.hbm (objectBase 2 + 8 * 0))) = true ∧ coreSector c = 0 ∧ cmd.extractLsb' 12 20 = 0 ∧
      (s.mapEntry c).extractLsb' 0 2 = 1 ∧ s.scanIdle c = true) ∧
    coreSector (((memDword (scanS 4095 scanIdleU).hbm (scanSlot 0 0)).extractLsb' 0 12).toNat) ≠ 0 ∧
    (memDword (scanS 0x1005 scanIdleU).hbm (scanSlot 0 0)).extractLsb' 12 20 ≠ 0 ∧ ((scanS 6 scanIdleU).mapEntry 6).extractLsb' 0 2 ≠ 1 ∧
    (memDword (scanS 5 { scanIdleU with served := 1 }).hbm (objectBase 2 + 8 * 0)).toNat ≤ ((scanS 5 { scanIdleU with served := 1 }).scanUnit 0).served ∧
    (∀ ab ∈ [none, some ((3 : BitVec 32), 2)], ((scanS 5 { scanIdleU with running := some (5, 7, 9), abort := ab }).scanUnit 0).running = some (5, 7, 9) ∧
      ((scanS 5 { scanIdleU with running := some (5, 7, 9), abort := ab }).scanUnit 0).abort = ab) := by decide

theorem witness_RollbackAndScans_faults :
    let s : State := { scanS 5 scanIdleU with hbm := memPutDword (memPutDword [] (objectBase 2 + 0x108) 1) (objectBase 3 + 64) 0x501 }
    s.faultsServed < (memDword s.hbm (objectBase 2 + 0x108)).toNat ∧ s.datumPast hubCore .pkg (s.lineStamp (.hbm (objectBase 2 + 0x108))) = true ∧
      s.faultSlots = [] ∧ ({ s with faultsStored := [(0, 3)] } : State).faultSlots = [0] ∧ (s.hubDword (objectBase 3 + 64 + 16 * 0)).extractLsb' 0 8 = 1 := by decide

/-- A trap record of core 0's task with a cause, under a policy of queue 2 (whose kernel 1 it is). -/
def trapped (cause : Cause) (policy : BitVec 8) (forwarded : Bool) : State :=
  { gr with
    core := { gr.core with task := { gr.core.task with run := .halted .firmware, tcause := cause.zeroExtend 64, tpc := 0x44 } }
    hbm := memPut [] (objectBase 4 + 32 * 2 + 0x1A) [policy]
    trapRecords := [{ core := 0, sel := .task, cause := cause, forwarded := forwarded }] }

theorem witness_PreemptionEvents_traps : (∀ c ∈ [(0x0E : Cause), 0x0F, 0x0A], ∀ f ∈ [false, true], ∀ p ∈ [(0 : BitVec 8), 1, 2], (trapped c p f).ok = true ∧
      (trapped c p f).trapRecords[0]? = some { core := 0, sel := .task, cause := c, forwarded := f } ∧
      (trapped c p f).recordKernel { core := 0, sel := .task, cause := c, forwarded := f } = 1 ∧ (trapped c p f).policyOf 1 = p.toNat) ∧
    forwards 2 { core := 0, sel := .task, cause := 0x0A, forwarded := false } = true ∧ forwards 1 { core := 0, sel := .task, cause := 0x0E, forwarded := false } = false ∧
    (trapped 0x0A 0 false).killsFor 0 { core := 0, sel := .task, cause := 0x0A, forwarded := false } = true ∧
    (let s := trapped 0x04 0 false
     (s.coreOf 0).task.rect.getLsbD 16 = false ∧ s.eligible (s.coreOf 0).task.kernel 1 = true ∧ s.accepts 1 = true ∧ s.movable 0 1 = true ∧
      (s.coreOf 0).covers (s.coreOf 1).feat = true ∧ s.moveReady 0 = true ∧ (s.coreOf 0).drained = true) := by decide

/-- Core 0's task with a request, or halted by it. -/
def preempt (run : Run) (request : Option Cause) (held : Option (BitVec 16)) : State :=
  { gr with core := { gr.core with task := { gr.core.task with run := run, request := request }, heldBefore := held } }

/-- A saved context of core 1. -/
def savedS : State :=
  let c := gr.coreOf 1
  { gr with
    others := [(1, Core.reset 1)]
    saved := [{ slot := { c.task with run := .halted (.preempted 0x32) }, v := c.v, k := c.k, mshape := c.mshape, accd := c.accd, net := c.net, matrix := [], vector := [],
                copies := [], ovld := none, core := 1, cause := 0x32, key := 8192, detected := [], image := some c }] }

theorem witness_PreemptionEvents : ((preempt .running (some 0x32) none).coreOf 0).requested = some (.task, 0x32) ∧
    (∀ r ∈ (preempt .running (some 0x32) none).results, r.isOf 0 .task = false) ∧ ((preempt .running (some 0x32) none).coreOf 0).matrixHolds .task = false ∧
    (∀ o ∈ ((preempt .running (some 0x32) none).coreOf 0).vector, o.sel ≠ .task) ∧
    (let c := (preempt .running (some 0x32) none).core
     (({ gr with core := { c with task := { c.task with stop := true } } } : State).coreOf 0).requested = some (.task, 0x32)) ∧ isDispatch (dcId 0) = true ∧ (0 ∈ gr.rectangleOf 0 ∧ (gr.coreOf 0).task.run ≠ .free) ∧
    (∀ x ∈ [none, some (5 : BitVec 16)], ((preempt (.halted (.preempted 0x32)) none x).coreOf 0).toSave = some 0x32 ∧
      ((preempt (.halted (.preempted 0x32)) none x).coreOf 0).heldBefore = x ∧ ((preempt (.halted (.preempted 0x32)) none x).coreOf 0).act.run = .free ∧
      ((preempt (.halted (.preempted 0x32)) none x).coreOf 0).saveable = true) ∧
    (∃ x img, savedS.saved[0]? = some x ∧ x.image = some img ∧ savedS.restorable x 1 = true) ∧
    (let s : State := { gr with contexts := [(0, pfRoot), (4, { pfRoot with vf := 16 })], kernels := [(1, { kernelOne with ctx := 4 })] }
     s.guestBusy = false ∧ s.turnOver = true ∧ s.nextGuest ≠ s.guest) ∧ gr.guestBusy = false ∧ gr.turnOver = true ∧ gr.nextGuest = gr.guest := by
  refine ⟨by decide, by decide, by decide, by decide, by decide, by decide, by decide, ?_, ⟨_, _, rfl, rfl, by decide⟩, by decide, by decide⟩
  intro x hx
  fin_cases hx <;> exact ⟨by decide, by decide, by decide, by decide⟩

/-- Kernel 1 in a state, with no slot of its own, or named by a kill. -/
def kernelS (st : KState) (kills : List Kill) : State := { gr with core := Core.reset 0, groups := [], kernels := [(1, { kernelOne with state := st })], kills := kills }

def aKill : Kill := { kernel := 1, cause := 0x34, core := 0 }

theorem witness_KernelEnds : (∀ st ∈ [KState.running, .complete, .confirmed], (kernelS st [aKill]).ok = true ∧ tabGet (kernelS st [aKill]).kernels 1 = some { kernelOne with state := st } ∧
      aKill ∈ (kernelS st [aKill]).kills ∧ (kernelS st [aKill]).unhalted 1 = []) ∧ (kernelS .running []).finished 1 = true ∧ gr.finished 1 = false ∧
    kernelOne.reporter = none ∧ (kernelS .complete []).confirmedAt 1 0 = true ∧ (∀ p ∈ (kernelS .complete []).publications, p.kernel ≠ 1) ∧
    ({ kernelS .complete [] with core := { Core.reset 0 with log := [{ kernel := 1, queue := 2, index := 0, allocVt := 5, release := none, m := false }] }, hbm := [] } : State).confirmedAt 1 5 = false ∧
    ((kernelS .running [aKill]).killDumps 1 kernelOne 0x34).2.all (·.ended) = true ∧ gr.unhalted 1 = [0] ∧ (gr.coreOf 0).alloc = some { kernel := 1, vf := 31, stage := 0 } := by decide

/-! ### Hypotheses of the obligations are met: queues and packets -/

/-- The shadow half of queue 2: the queue object is node 0x1000, four slots, priority 3, the physical function, READIDX 5. -/
def shadow2 (state step : BitVec 8) (rate : List Byte) : List Byte :=
  [0, 0x10, 0, 0, 2, 3, 31, state, 5, 0, 0, 0, 0, 0, 0, 0, 0xFE, 3, step, 0] ++ rate ++ [0, 0, 0, 0, 0, 0, 0, 0]

/-- Queue 2 with one packet: WRITEIDX 6, and at index 5 a packet of header h. -/
def queueS (state step : BitVec 8) (rate : List Byte) (h : Word) : State :=
  let s : State := treed (base someT)
  { s with
    hbm := memPutDword (memPutDword (memPut [] (objectBase 4 + 64) (shadow2 state step rate)) (objectBase 23) 6) (objectBase 23 + 128) h
    queues := [(2, { tokens := 0, accrued := 0, watch := none })] }

/-- One WRITE step with SEQ 5. -/
def writeHeader : Word := 0x5000000031000

/-- A rank program of one EXIT, staged in slot 1 with its length. -/
def rankS (slot len : Nat) : State :=
  let code : List Byte := ofInstr .exit
  { base [] with hbm := memPut (memPutDword [] (objectBase 5 + 512 * slot) (BitVec.ofNat 64 (2 ^ 32 + len * 2 ^ 40))) (objectBase 5 + 512 * slot + 64) code }

theorem witness_QueueEvents : (let s := queueS 1 0 [4, 0, 1, 0] writeHeader
     (tabGet s.queues 2).isSome = true ∧ s.rateOf 2 ≠ 0) ∧
    (∀ b ∈ [false, true], (({ queueS 1 0 [0, 0, 0, 0] writeHeader with updates := [(2, b)] } : State).updates.findIdx? (fun u => u.1 = 2) = some 0 ∧
      ({ queueS 1 0 [0, 0, 0, 0] writeHeader with updates := [(2, b)] } : State).updates[0]? = some (2, b))) ∧
    ((memDword (rankS 1 4).hbm (objectBase 5 + 512 * 1)).getLsbD 32 = true ∧ ((memDword (rankS 1 4).hbm (objectBase 5 + 512 * 1)).extractLsb' 40 8).toNat = 4 ∧
      (memDword (rankS 1 4).hbm (objectBase 5 + 512 * 1)).extractLsb' 48 16 = 0 ∧ (memDword (rankS 1 4).hbm (objectBase 5 + 512 * 1)).extractLsb' 34 6 = 0 ∧
      rankOk (memBytes (rankS 1 4).hbm (objectBase 5 + 512 * 1 + 64) 4) = true) ∧ (memDword (rankS 63 130).hbm (objectBase 5 + 512 * 63)).getLsbD 32 = true ∧
    (memDword (rankS 0 4).hbm (objectBase 5 + 512 * 0)).getLsbD 32 = true ∧
    (let s : State := { queueS 1 0 [0, 0, 0, 0] writeHeader with events := [{ queue := 2, version := 0, code := none }] }
     s.events.findIdx? (fun e => !s.locked e.queue && s.hasToken e.queue) = some 0 ∧ s.queueState 2 = 1 ∧ (∀ x ∈ s.pifo, x.2 ≠ 2)) ∧
    (queueS 0 0 [0, 0, 0, 0] writeHeader).queueState 2 ≠ 1 := by
  refine ⟨by decide, by decide, by decide, by decide, by decide, by decide, by decide⟩

theorem witness_QueueEvents_rank : let s : State := { queueS 1 0 [0, 0, 0, 0] writeHeader with events := [{ queue := 2, version := 0, code := some (ofInstr .exit) }] }
    let u : State := { s with events := [] }
    s.events.findIdx? (fun e => !s.locked e.queue && s.hasToken e.queue) = some 0 ∧ s.queueState 2 = 1 ∧ (∀ x ∈ s.pifo, x.2 ≠ 2) ∧
      (∃ r, rankRun (ofInstr .exit) 33 (u.rankCore 2) = some r) ∧ rankRun [] 33 (u.rankCore 2) = none ∧
      decode (ofInstr .exit) = .ok (.exit, 4) ∧ (rankMeaning (.addi 1 1 1)).isSome = true := by
  refine ⟨by decide, by decide, by decide, ⟨_, rfl⟩, rfl, by decide, by decide⟩

/-- The queue at the head of the PIFO. -/
def headS (step : BitVec 8) (h : Word) : State := { queueS 1 step [0, 0, 0, 0] h with pifo := [(0x60000000, 2)] }

theorem witness_QueueEvents_head : ∀ p ∈ [((0 : BitVec 8), writeHeader), (0x80, writeHeader), (0, 0x31000)],
    (headS p.1 p.2).pifoHead = some 2 ∧ (List.range 12).find? (headS p.1 p.2).idleDc = some 0 ∧ (headS p.1 p.2).queueState 2 = 1 ∧ (headS p.1 p.2).queueFlags 2 = 0 ∧
      (headS p.1 p.2).writeIdx 2 ≠ (headS p.1 p.2).readIdx 2 ∧
      ((headS p.1 p.2).writeIdx 2 + 2 ^ 64 - (headS p.1 p.2).readIdx 2) % 2 ^ 64 ≤ shadowSize ((headS p.1 p.2).shadowHalf 2) := by
  intro p hp
  fin_cases hp <;> exact ⟨by decide, by decide, by decide, by decide, by decide, by decide⟩

theorem witness_QueueEvents_packet : let s := headS 0 writeHeader
    let p := s.slotWords 2 (shadowSize (s.shadowHalf 2)) (s.readIdx 2)
    shadowField (s.shadowHalf 2) 0x12 1 < 128 ∧ ((p.getD 0 0).extractLsb' 48 16).toNat = s.readIdx 2 % 2 ^ 16 ∧ headerBad p = false ∧
      (∀ j < steps (p.getD 0 0), (BitVec.ofNat 16 (shadowField (s.shadowHalf 2) 0x10 2)).getLsbD (stepKind (p.getD 0 0) j) = true) ∧
      ((((headS 0 0x31000).slotWords 2 4 5).getD 0 0).extractLsb' 48 16).toNat ≠ (headS 0 0x31000).readIdx 2 % 2 ^ 16 ∧
      128 ≤ shadowField ((headS 0x80 writeHeader).shadowHalf 2) 0x12 1 := by decide

/-- Dispatch core dc holds queue 2's lock, in step 0 of a packet. -/
def heldBy (packet : List Word) (waiting : Bool) (wait : Option (BitVec 48)) (answer : Option (Cause × Word)) : Dispatch :=
  { Dispatch.idle with queue := some 2, index := 5, shadow := shadow2 1 0 [0, 0, 0, 0], packet := packet, vt := 7, seqWait := wait, waiting := waiting, answer := answer }

def dcS (d : Dispatch) (h : Word) : State := { queueS 1 0 [0, 0, 0, 0] h with dispatch := [(dcId 11, d)] }

theorem witness_QueueEvents_wait : (∀ h ∈ [writeHeader, 0x31000], ((dcS (heldBy [] false (some 7) none) h).dispatcher (dcId 11)).queue = some 2 ∧
      ((dcS (heldBy [] false (some 7) none) h).dispatcher (dcId 11)).seqWait = some 7) ∧
    (let s := dcS (heldBy [] false (some 7) none) 0x31000
     (((s.slotWords 2 4 5).getD 0 0).extractLsb' 48 16).toNat ≠ 5 % 2 ^ 16 ∧ (s.vt - 7).toNat < 4096 ∧ 4096 ≤ (({ s with vt := 4103 } : State).vt - 7).toNat) ∧
    (let s := dcS (heldBy [writeHeader] false none none) writeHeader
     (s.dispatcher (dcId 11)).queue = some 2 ∧ (s.dispatcher (dcId 11)).packet ≠ [] ∧ (s.vt - (s.dispatcher (dcId 11)).vt).toNat < 2 ^ 20 ∧
      2 ^ 20 ≤ (({ s with vt := 0x100007 } : State).vt - (s.dispatcher (dcId 11)).vt).toNat) := by
  refine ⟨?_, by decide, by decide⟩
  intro h hh; fin_cases hh <;> exact ⟨rfl, rfl⟩

/-- A packet of one step of a kind with operands. -/
def packetOf (kind : Nat) (l : List Word) : List Word := BitVec.ofNat 64 (5 * 2 ^ 48 + kind * 2 ^ 16 + 2 ^ 12) :: l ++ List.replicate (7 - l.length) 0

def stepS (kind : Nat) (l : List Word) (waiting : Bool) (answer : Option (Cause × Word)) : State := dcS (heldBy (packetOf kind l) waiting none answer) writeHeader

theorem witness_PacketSteps_stores : (∀ p ∈ [(3, AccOp.store, (0x3000000000000 : Word)), (4, .cadd, 0x1000000000000)], ∀ w ∈ [false, true],
      (stepS p.1 [p.2.2, 7] w none).atStep 11 p.1 = some 2 ∧ ((stepS p.1 [p.2.2, 7] w none).dispatcher (dcId 11)).waiting = w ∧
        taOfs ((stepS p.1 [p.2.2, 7] w none).dispatcher (dcId 11)).a % 8 = 0) ∧
    (∃ u ps, (stepS 3 [0x3000000000000, 7] false none).hubReach 0 .store true 0x3000000000000 8 = .ok (u, ps)) ∧
    (∃ u ps, (stepS 4 [0x1000000000000, 7] false none).hubReach 0 .cadd true 0x1000000000000 8 = .ok (u, ps)) ∧
    (stepS 3 [0x6000000000000, 7] false none).hubReach 0 .store true 0x6000000000000 8 = .error 0x0A ∧
    (stepS 4 [0x6000000000000, 7] false none).hubReach 0 .cadd true 0x6000000000000 8 = .error 0x0A ∧
    taOfs ((stepS 3 [0x3000000000001, 7] false none).dispatcher (dcId 11)).a % 8 ≠ 0 ∧ shadowCtx ((stepS 3 [0x3000000000000, 7] false none).dispatcher (dcId 11)).shadow = 0 ∧
    (∀ r ∈ (stepS 3 [0x3000000000000, 7] true none).refusals, r.1 ≠ dcId 11) ∧ (∀ x ∈ (stepS 3 [0x3000000000000, 7] true none).stores, x.src ≠ dcId 11) ∧
    (∃ t p, (stepS 5 [0x1000000000000, 0] false none).hubReach 0 .crd true 0x1000000000000 8 = .ok (t, [p]) ∧ t.poisonedAt p = false ∧ t.natAt p 8 = 0 ∧
      t.datumPast (dcId 11) .pkg (t.lineStamp p) = true) := by
  refine ⟨?_, ⟨_, _, rfl⟩, ⟨_, _, rfl⟩, rfl, rfl, by decide, by decide, by decide, by decide, ⟨_, _, rfl, by decide, by decide, by decide⟩⟩
  intro p hp w hw; fin_cases hp <;> fin_cases hw <;> exact ⟨by decide, by decide, by decide⟩

theorem witness_PacketSteps_passing : ∀ x ∈ [(none, true), (some ((0 : BitVec 6), (900 : BitVec 48)), false)],
    let s := dcS { heldBy (packetOf 5 [0x1000000000000, 0]) false none none with passing := some x.1 } writeHeader
    s.atStep 11 5 = some 2 ∧ (s.dispatcher (dcId 11)).passing = some x.1 ∧ s.datumPast (dcId 11) .pkg x.1 = x.2 := by
  intro x hx; fin_cases hx <;> exact ⟨by decide, by decide, by decide⟩

theorem witness_PacketSteps_engines : (stepS 6 [0x3000000000000, 0x3000000000040, 64] false none).atStep 11 6 = some 2 ∧
    (let s := stepS 6 [0x3000000000000, 0x3000000000040, 64] false none
     let d := s.dispatcher (dcId 11)
     let c := packetCmd d 11 2 .packetCopy s.vt (d.packet.getD 1 0) (d.packet.getD 2 0) [d.packet.getD 3 0] []
     s.copyFault c = none ∧ (s.engine (.layout (s.layoutHome true c.core c.ctx c.b))).room (.layout (s.layoutHome true c.core c.ctx c.b)) = true) ∧
    (let s := stepS 6 [0x6000000000000, 0x3000000000040, 64] false none
     let d := s.dispatcher (dcId 11)
     (s.copyFault (packetCmd d 11 2 .packetCopy s.vt (d.packet.getD 1 0) (d.packet.getD 2 0) [d.packet.getD 3 0] [])).isSome = true) ∧
    (∀ k ∈ [6, 7, 8], ∀ c ∈ [(0 : Cause), 0x0A], (stepS k [] true (some (c, 7))).atStep 11 k = some 2 ∧ ((stepS k [] true (some (c, 7))).dispatcher (dcId 11)).waiting = true ∧
      ((stepS k [] true (some (c, 7))).dispatcher (dcId 11)).answer = some (c, 7)) := by
  refine ⟨by decide, by decide, by decide, ?_⟩
  intro k hk c hc; fin_cases hk <;> fin_cases hc <;> exact ⟨by decide, by decide, by decide⟩

theorem witness_PacketSteps_room : (∃ u ps, (stepS 3 [0x3000000000000, 7] false none).hubReach 0 .store true 0x3000000000000 8 = .ok (u, ps) ∧ u.unsettled (dcId 11) 0 0 < 64) ∧
    (∃ u ps, ({ stepS 3 [0x3000000000000, 7] false none with
      stores := (List.range 64).map fun n => { aStore (.hbm 0) .issued with src := dcId 11, stream := 0, seq := BitVec.ofNat 24 n } } : State).hubReach 0 .store true 0x3000000000000 8 = .ok (u, ps) ∧
      64 ≤ u.unsettled (dcId 11) 0 0) ∧ (∀ r ∈ (stepS 6 [] true (some (0, 7))).refusals, r.1 ≠ dcId 11) ∧ (stepS 6 [] true (some (0, 7))).dataDue (dcId 11) = false :=
  ⟨⟨_, _, rfl, by decide⟩, ⟨_, _, rfl, by decide⟩, by decide, by decide⟩

/-- A record of rank 1 of four FP32 elements at TA `base`. -/
def recordBytes (base : Word) : List Byte := dwordBytes [0x13, base, 0, 4, 0, 0, 4, 0, 0, 0, 0, 0]

/-- The header of a program without channels, regions, stages and patches, of no image bytes. -/
def headerBytes0 : List Byte := [2, 0] ++ List.replicate 22 0 ++ [8, 4] ++ List.replicate 22 0

/-- A step whose object behind handle 3 begins with these bytes. -/
def objS (kind : Nat) (l : List Word) (b : List Byte) : State :=
  let s := stepS kind l false none
  { s with hbm := memPut s.hbm (objectBase 0) b }

def layS : State := objS 7 [0x3000000000000, 0x3000000000060, 0x76543210000000] (recordBytes 0x3000000000100 ++ recordBytes 0x3000000000200)

def recordAt (base : Word) : Record := { format := 3, rank := 1, scaled := false, square := false, base := base, sbase := 0, ext := [4], str := [4] }

set_option maxRecDepth 4000 in
theorem witness_PacketSteps_layout : layS.atStep 11 7 = some 2 ∧ layS.packetRecordAt 0 0x3000000000000 = .ok (recordAt 0x3000000000100) ∧
    layS.packetRecordAt 0 0x3000000000060 = .ok (recordAt 0x3000000000200) := by refine ⟨by decide, by decide, by decide⟩

theorem witness_PacketSteps_layout_fault :
    let d := layS.dispatcher (dcId 11)
    let c := fun dst => packetCmd d 11 2 .packetLayout layS.vt (d.packet.getD 1 0) (d.packet.getD 2 0) [d.packet.getD 3 0] [recordAt 0x3000000000100, dst]
    layS.layFault (c (recordAt 0x3000000000200)) 0 = none ∧ (layS.layFault (c { recordAt 0x3000000000200 with format := 1 }) 0).isSome = true ∧
      (layS.engine (.layout (layS.layoutHome true (c (recordAt 0x3000000000200)).core 0 0x3000000000200))).room
        (.layout (layS.layoutHome true (c (recordAt 0x3000000000200)).core 0 0x3000000000200)) = true := by refine ⟨by decide, by decide, by decide⟩

set_option maxRecDepth 4000 in
theorem witness_PacketSteps_tree : (let s := stepS 8 [0, 0x4000000000000, 0, 0x70616D65726F63] false none
     s.atStep 11 8 = some 2 ∧ (s.dispatcher (dcId 11)).packet.getD 1 0 = 0 ∧
      ∃ u x, treeWalk hubCore 0 ((s.dispatcher (dcId 11)).packet.getD 2 0) ((s.dispatcher (dcId 11)).packet.getD 4 0) ((s.dispatcher (dcId 11)).packet.getD 5 0) s = .ok (u, x)) ∧
    (let s := stepS 8 [5, 0x6000000000000] false none
     s.atStep 11 8 = some 2 ∧ (s.dispatcher (dcId 11)).packet.getD 1 0 = 5 ∧ treeStat hubCore 0 ((s.dispatcher (dcId 11)).packet.getD 2 0) s = .error (0x0A, .ta)) ∧
    (let s := stepS 9 [0x6000000000000, 0x3000000000000, 8] false none
     s.atStep 11 9 = some 2 ∧ ∃ c, s.readable 0 ((s.dispatcher (dcId 11)).packet.getD 1 0) = .error c) ∧
    (let s := stepS 9 [0x3000000000000, 0x3000000000040, 64] false none
     s.atStep 11 9 = some 2 ∧ s.readable 0 ((s.dispatcher (dcId 11)).packet.getD 1 0) = .ok () ∧
      ∃ l u, s.hubRead 0 ((s.dispatcher (dcId 11)).packet.getD 1 0) 64 = .ok l ∧ s.hubWrite (dcWriter (dcId 11) .data) 0 ((s.dispatcher (dcId 11)).packet.getD 2 0) l = .ok u ∧ u.dataDue (dcId 11) = false) ∧
    (let s : State := { stepS 9 [0x3000000000000, 0x3000000000040, 64] false none with stores := [{ aStore (.host 0 0) .issued with src := dcId 11, hub := some .data }] }
     ∃ l u, s.hubRead 0 ((s.dispatcher (dcId 11)).packet.getD 1 0) 64 = .ok l ∧
      s.hubWrite (dcWriter (dcId 11) .data) 0 ((s.dispatcher (dcId 11)).packet.getD 2 0) l = .ok u ∧ u.dataDue (dcId 11) = true) :=
  ⟨⟨by decide, by decide, _, _, rfl⟩, ⟨by decide, by decide, rfl⟩, ⟨by decide, _, rfl⟩, ⟨by decide, rfl, _, _, rfl, rfl, by decide⟩, _, _, rfl, rfl, by decide⟩

set_option maxRecDepth 4000 in
theorem witness_PacketSteps_ends : (let d := (stepS 3 [] false none).dispatcher (dcId 11)
     steps (d.packet.getD 0 0) ≤ d.step + 1) ∧ (0 : Nat) + 1 < steps 0x5000000332000 ∧ Memory.wf (stepS 3 [] false none).hbm = true ∧
    (objectBase 4 + 32 * 2) / 64 ∉ (stepS 3 [] false none).hbmPoison := by decide

/-- PREPARE of that header through handle 3 into /sys under the name x, and a LAUNCH of the program it made. -/
def prepS (l : List Word) : State := objS 2 l headerBytes0

theorem witness_LaunchAndPrepare_prepare : (prepS [0x3000000000000, 48, 0x78, 0, 0x4000000000000]).atStep 11 2 = some 2 ∧
    (∃ l, (prepS [0x3000000000000, 48, 0x78, 0, 0x4000000000000]).hubRead 0 0x3000000000000 48 = .ok l ∧ l.length = 48 ∧
      headerBytes (parseHeader l).nchan (parseHeader l).nregion (parseHeader l).nstage (parseHeader l).npatch = 48 ∧ (parseHeader l).imageLen = 0 ∧
      headerBroken (parseHeader l) [] = false ∧
      ∃ t, (prepS [0x3000000000000, 48, 0x78, 0, 0x4000000000000]).bindProgram 0 0x4000000000000 0x78 0 (l.take 48) [] = .ok t) ∧
    (∃ l, (prepS [0x3000000000000, 47, 0x78, 0, 0x4000000000000]).hubRead 0 0x3000000000000 47 = .ok l ∧ l.length < 48) :=
  ⟨by decide, ⟨_, rfl, by decide, by decide, by decide, by decide, _, rfl⟩, ⟨_, rfl, by decide⟩⟩

/-- The program object is node 10, named by handle 3; the launch asks for n tasks; VF 3 shares cores and may hold one. -/
def launchS (vf : BitVec 8) (n : Word) (quota on : BitVec 8) : State :=
  let s := stepS 1 [0x3000000000000, 0, n] false none
  { s with
    core := Core.reset 0
    others := [(1, { Core.reset 1 with alloc := some { kernel := 9, vf := 3, stage := 0 } })]
    programs := [(10, { header := headerBytes0, image := [] })]
    hbm := memPut s.hbm (objectBase 9 + 128 * 3) [on, 1, 0, 0, quota]
    dispatch := [(dcId 11, { heldBy (packetOf 1 [0x3000000000000, 0, n]) false none none with shadow := (shadow2 1 0 [0, 0, 0, 0]).set 6 vf })] }

def launchPlan (n : Nat) : Plan316 :=
  { program := 10, header := parseHeader headerBytes0, image := [], params := List.replicate 8 0, rect := none, count := n }

theorem witness_LaunchAndPrepare_paths : (∃ u, (launchS 31 1 1 1).withPaths 0 [] = .ok (u, [])) ∧
    (∃ c, (launchS 31 1 1 1).withPaths 0 [(0, [0])] = .error c) ∧ (∀ c ∈ [0], isDispatch c = false) ∧
    ∃ u i, (launchS 31 1 1 1).withPaths 0 [(0, [0x737973])] = .ok (u, [(0, i)]) :=
  ⟨⟨_, rfl⟩, ⟨_, rfl⟩, by decide, _, _, rfl⟩

theorem witness_LaunchAndPrepare_launch : (launchS 31 1 1 1).atStep 11 1 = some 2 ∧ isDispatch 0 = false ∧
    (∀ n ∈ [1, 2, 4096], (launchS 31 (BitVec.ofNat 64 n) 1 1).plan316 0 (fun i => ((launchS 31 (BitVec.ofNat 64 n) 1 1).dispatcher (dcId 11)).packet.getD i 0) [] = .ok (launchPlan n)) ∧
    (launchS 31 1 1 1).placing 31 0 (BitVec.ofNat 3 (launchPlan 1).header.featreq) none 1 [0] = .found ∧
    (launchS 3 1 1 1).placing 3 0 (BitVec.ofNat 3 (launchPlan 1).header.featreq) none 1 [0] = .wait ∧
    (launchS 3 2 1 1).placing 3 0 (BitVec.ofNat 3 (launchPlan 1).header.featreq) none 2 [0, 2] = .refused 0x38 ∧
    (launchS 3 1 1 0).placing 3 0 (BitVec.ofNat 3 (launchPlan 1).header.featreq) none 1 [0] = .refused 0x38 ∧
    (launchS 31 0 1 1).plan316 0 (fun i => ((launchS 31 0 1 1).dispatcher (dcId 11)).packet.getD i 0) [] = .error 0x09 := by
  refine ⟨by decide, by decide, ?_, by decide, by decide, by decide, by decide, by decide⟩
  intro n hn; fin_cases hn <;> decide

/-! ### Hypotheses of the obligations are met: fabric, debug and system -/

/-- Link 23 in a state. -/
def linkS (st : LinkState) (refused : Option (BitVec 12)) (again : Nat) : State :=
  { base [] with links := [(23, { Link.reset with state := st, refused := refused, again := again })] }

/-- A store to another device on its way, and a message its gateway keeps. -/
def peerS (sends : Nat) : State :=
  { base [] with
    vt := 0x20000, stores := [aStore (.peer 4 0x1000 0) .issued]
    kept := [{ msg := { aMsg false false (.message env2 []) with sends := sends }, seq := 3, sent := 0, link := 1, out := true }] }

theorem witness_FabricAndHostPorts_links : (∀ st ∈ [LinkState.training, .full, .erasure, .removed], ((linkS st none 0).link 23).state = st ∧
      ((linkS st none 0).link 23).good.getLsbD (8 : Fin 9).val = true ∧ 5 < maskCount ((linkS st none 0).link 23).good ∧
      48 ≤ 16 * maskCount ((linkS st none 0).link 23).banks ∧ ((linkS st none 0).link 23).refused = none ∧ ((linkS st none 0).link 23).expect = 0) ∧
    maskCount ((0x00F : BitVec 9) &&& ((linkS .training none 0).link 23).good) < 5 ∧ 5 ≤ maskCount ((0x01F : BitVec 9) &&& ((linkS .training none 0).link 23).good) ∧
    18 ≤ 16 * maskCount (((linkS .training none 0).link 23).banks &&& ((0x01F : BitVec 9) &&& ((linkS .training none 0).link 23).good)) ∧
    (∀ st ∈ [LinkState.full, .erasure, .narrow], st.carries = true) ∧
    (∀ n ∈ [6, 7], ((linkS .full (some 5) n).link 23).refused = some 5 ∧ ((linkS .full (some 5) n).link 23).state.carries = true ∧
      ((linkS .full (some 5) n).link 23).again = n) ∧ (6 + 1 < 8 ∧ 8 ≤ 7 + 1) := by decide

theorem witness_FabricAndHostPorts_kept : (∃ k, (peerS 23).kept[0]? = some k ∧ k.out = true ∧ 2 ^ 17 ≤ ((peerS 23).vt - k.sent).toNat ∧ 32768 ≤ ((peerS 23).vt - k.sent).toNat ∧
      (peerS 23).route k.msg.src (k.msg.far.getD 0) k.msg.dst = none ∧ ({ peerS 23 with links := [(1, { Link.reset with state := .full })] } : State).arrives (some k.link) = true ∧
      (({ peerS 23 with routes := [(0, 0x8000000000000000)], links := [(0, { Link.reset with state := .full })] } : State).route k.msg.src (k.msg.far.getD 0) k.msg.dst).isSome = true ∧
      (({ peerS 23 with vt := 5 } : State).vt - k.sent).toNat < 32768) ∧ (∀ h o, (aStore (.peer 4 0x1000 0) .issued).place ≠ .host h o) ∧
    (let k := linkS .training none 0
     ∀ w ∈ [none, some LinkState.narrow, some .erasure], (({ k with links := [(23, { k.link 23 with keep := w })] } : State).link 23).keep = w) := by
  refine ⟨⟨_, rfl, by decide, by decide, by decide, by decide, by decide, by decide, by decide⟩, ?_, by decide⟩
  intro h o e; cases e

theorem witness_FabricAndHostPorts_fabric : (peerS 0).stores[0]? = some (aStore (.peer 4 0x1000 0) .issued) ∧ (aStore (.peer 4 0x1000 0) .issued).phase = .issued ∧
    (aStore (.peer 4 0x1000 0) .issued).out = true ∧ 2 ^ 17 ≤ ((peerS 0).vt - (aStore (.peer 4 0x1000 0) .issued).sent).toNat ∧
    (∀ n ∈ [23, 24], ∃ k, (peerS n).kept[0]? = some k ∧ k.msg.sends = n) := by
  refine ⟨rfl, rfl, rfl, by decide, ?_⟩
  intro n hn; fin_cases hn <;> exact ⟨_, rfl, rfl⟩

/-- Port 7's last job-table entry with these dwords, and job 9 allowed there in context 0. -/
def jobS (lo hi : Word) : State :=
  let s := treed (base [])
  { s with
    hbm := memPutDword (memPutDword s.hbm (objectBase 12 + 16 * (256 * 7 + 255)) lo) (objectBase 12 + 16 * (256 * 7 + 255) + 8) hi
    jobs := [(256 * 7 + 255, { job := 9, ord := true, unord := false, ctx := 0 })] }

theorem witness_FabricAndHostPorts_ports : (let lo := memDword (jobS 0x8000000900000000 1).hbm (objectBase 12 + 16 * (256 * 7 + 255))
     let hi := memDword (jobS 0x8000000900000000 1).hbm (objectBase 12 + 16 * (256 * 7 + 255) + 8)
     lo.getLsbD 63 = true ∧ lo.extractLsb' 56 7 = 0 ∧ lo.extractLsb' 16 16 = 0 ∧ hi.extractLsb' 2 62 = 0) ∧
    (memDword (jobS 0x900000000 1).hbm (objectBase 12 + 16 * (256 * 7 + 255))).getLsbD 63 = false ∧
    (jobS 0 0).jobContext 7 9 true = some 0 ∧ (jobS 0 0).jobContext 7 9 false = none ∧ (jobS 0 0).jobContext 6 9 true = none ∧ (jobS 0 0).portDown 7 = false ∧ ({ jobS 0 0 with portsDown := 0x80 } : State).portDown 7 = true ∧
    taOfs 0x3000000000000 % 64 + (List.replicate 64 (1 : Byte)).length ≤ 64 ∧
    (∃ w, (jobS 0 0).hubReach 0 .store false 0x3000000000000 64 = .ok w) ∧
    (∃ u ps, ((jobS 0 0).nextPacket 7 1 false).2.hubReach 0 .store false 0x3000000000000 64 = .ok (u, ps) ∧ u.portWork = [] ∧ u.portRoom ((jobS 0 0).nextPacket 7 1 false).1 = true) ∧
    (∃ u ps, (({ jobS 0 0 with stores := (List.range 64).map fun n => { aStore (.hbm 0) .issued with src := 0x112B, stream := 1, seq := BitVec.ofNat 24 n } } : State).nextPacket 7 1 false).2.hubReach 0
      .store false 0x3000000000000 64 = .ok (u, ps) ∧ u.portWork = [] ∧ u.portRoom ((jobS 0 0).nextPacket 7 1 false).1 = false) ∧ (jobS 0 0).hubReach 0 .store false 0x6000000000000 1 = .error 0x0A ∧
    (∀ wide ∈ [false, true], ∃ u ps, ((jobS 0 0).nextPacket 7 1 true).2.hubReach 0 .returning true 0x3000000000000 (if wide then 8 else 4) = .ok (u, ps) ∧ u.portWork = [] ∧
      u.portRoom ((jobS 0 0).nextPacket 7 1 true).1 = true) := by
  refine
  ⟨by decide, by decide, by decide, by decide, by decide, by decide, by decide, by decide, ⟨_, rfl⟩, ⟨_, _, rfl, by decide, by decide⟩, ⟨_, _, rfl, by decide, by decide⟩, rfl, ?_⟩
  intro w hw; fin_cases hw <;> exact ⟨_, _, rfl, by decide, by decide⟩

/-- Attachment 1 names the launch of kernel 1, whose task runs on core 0; its request is w. -/
def debugS (w : Word) (run : Run) : State :=
  { gr with
    core := { gr.core with task := { gr.core.task with run := run, tpc := 0x44 } }
    hbm := memPutDword [] (objectBase 6 + 1024) (BitVec.ofNat 64 (2 ^ 63 + 2 * 2 ^ 48)), requests := [(1, w)]
    stops := [{ core := 1, sel := .task, gtid := 0x100000002, kernel := 1, cause := 0x2C, tpc := 0, tval := 0, vt := 5, dump := none },
      { core := 1, sel := .task, gtid := 0x100000002, kernel := 9, cause := 0x2C, tpc := 0, tval := 0, vt := 5, dump := none }] }

/-- The request of a kind for the task. -/
def reqOf (kind : Nat) : Word := BitVec.ofNat 64 (kind * 2 ^ 60 + 0x100000001)

set_option maxRecDepth 8000 in
theorem witness_DebugEvents : (∀ k ∈ [1, 2, 3, 4, 5], (reqOf k).extractLsb' 40 20 = 0 ∧ ((reqOf k).extractLsb' 60 4).toNat = k ∧
      (debugS (reqOf k) .running).requestTargets 1 (reqOf k) = [(0, .task)]) ∧ ((debugS (reqOf 1) .running).coreOf 0).task.run = .running ∧
    (debugS (reqOf 2) (.halted .debug)).requestTargets 1 (reqOf 2) = [(0, .task)] ∧ (debugS (reqOf 2) (.halted .debug)).unserved [(0, .task)] = false ∧
    ((debugS (reqOf 2) (.halted .debug)).coreOf 0).task.run = .halted .debug ∧ ((reqOf 0).extractLsb' 60 4).toNat = 0 ∧ 5 < ((reqOf 6).extractLsb' 60 4).toNat ∧
    (debugS (reqOf 1) .running).attachedSlots 1 = [(0, .task)] ∧ (∃ p, (debugS (reqOf 1) .running).stops[1]? = some p ∧
      (debugS (reqOf 1) .running).attachmentOfKernel p.kernel = none) ∧
    (∃ p, (debugS (reqOf 1) .running).stops[0]? = some p ∧ (debugS (reqOf 1) .running).attachmentOfKernel p.kernel = some 1 ∧ p.dump = none) ∧
    (debugS (reqOf 1) .running).attach 1 0x28 = 0 := by
  refine ⟨by decide, by decide, by decide, by decide, by decide, by decide, by decide, by decide, ⟨_, rfl, by decide⟩, ⟨_, rfl, by decide, rfl⟩, by decide⟩

/-- Link snapshots every millisecond into the object behind handle 3. -/
def snapS (buf : Word) (vt : BitVec 48) : State :=
  let s := treed (base [])
  { s with hbm := memPutDword (memPutDword (memPutDword s.hbm (objectBase 6) 0x8000000000000001) (objectBase 6 + 8) buf) (objectBase 6 + 16) 1, vt := vt }

theorem witness_DebugEvents_points : let c : PointCommit := { attachment := 1, vt := 0, table := [] }
    let s : State := { debugS (reqOf 1) .running with pointCommits := [c], vt := 2000 }
    s.pointCommits = [c] ∧ s.attachedSlots 1 = [(0, .task)] ∧ 2000 ≤ (s.vt - c.vt).toNat ∧ (({ s with vt := 1999 } : State).vt - c.vt).toNat < 2000 := by
  refine ⟨rfl, by decide, by decide, by decide⟩

theorem witness_DebugEvents_snapshot : (let c := (snapS 0x3000000000000 1300).hubDword (objectBase 6)
     let buf := (snapS 0x3000000000000 1300).hubDword (objectBase 6 + 8)
     let num := (snapS 0x3000000000000 1300).hubDword (objectBase 6 + 16)
     c.getLsbD 63 = true ∧ c.extractLsb' 14 48 = 0 ∧ 0 < (c.extractLsb' 0 14).toNat ∧ (c.extractLsb' 0 14).toNat ≤ 10000 ∧ 0 < num.toNat ∧ num.toNat ≤ 255 ∧
      taOfs buf % 64 = 0) ∧ (1300 : Nat) % (1 * 1300) = 0 ∧ (1301 : Nat) % (1 * 1300) ≠ 0 ∧ (snapS 0x3000000000000 1300).snap = none ∧
    (∀ n ∈ [0, 2], let s : State := { snapS 0x3000000000000 1301 with snap := some { vt := 1300, due := 1300, latches := [], stage := n, failed := false } }
      s.hubDue .snapshot = false ∧ (∃ u, s.hubWrite (dcWriter hubCore .snapshot) pfContext 0x3000000000000 (natBytes 8 0) = .ok u) ∧
        ∃ u, s.hubWrite (dcWriter hubCore .snapshot) pfContext 0x3000000000000 (natBytes 8 (s.snapshots + 1)) = .ok u ∧ u.hubDue .snapshot = false) ∧
    (let s : State := { snapS 0x6000000000000 1301 with snap := some { vt := 1300, due := 1300, latches := [], stage := 0, failed := false } }
     s.hubWrite (dcWriter hubCore .snapshot) pfContext 0x6000000000000 (natBytes 8 0) = .error 0x0A) := by
  refine ⟨by decide, by decide, by decide, rfl, ?_, rfl⟩
  intro n hn; fin_cases hn <;> exact ⟨by decide, ⟨_, rfl⟩, _, rfl, by decide⟩

/-- A dump of the first stop, its header issued or not. -/
def dumpOf (header : Bool) : DumpJob :=
  { id := 7, ctx := 0, ta := 0x3000000000000, cause := 0x2C, core := 1, act := false, gtid := 0x100000002, vt := 5, tpc := 0, parts := [], room := 4096,
    fault := none, header := header, ended := false, failed := false }

/-- The stop with its dump under way, and a store of the dump that has not settled. -/
def dumpS (l : List Store) : State :=
  { debugS (reqOf 1) .running with
    stops := [{ core := 1, sel := .task, gtid := 0x100000002, kernel := 1, cause := 0x2C, tpc := 0, tval := 0, vt := 5, dump := some (dumpOf true) }]
    stores := l }

theorem witness_DebugEvents_dump : (∃ p v j, (dumpS []).stops[0]? = some p ∧ (dumpS []).attachmentOfKernel p.kernel = some 1 ∧ (dumpS []).stopDump 1 p = (v, some j) ∧
      j.ended = true) ∧
    ∃ p v j, (dumpS [{ aStore (.host 0 0) .issued with hub := some (.dump 7 true) }]).stops[0]? = some p ∧
      (dumpS [{ aStore (.host 0 0) .issued with hub := some (.dump 7 true) }]).stopDump 1 p = (v, some j) ∧ j.ended = false :=
  ⟨⟨_, _, _, rfl, by decide, rfl, by decide⟩, _, _, _, rfl, rfl, by decide⟩

theorem witness_DebugEvents_ring : (debugS (reqOf 1) .running).attach 1 8 = 0 ∧
    (let s := snapS 0x3000000000000 1301
     let v : State := { s with hbm := memPutDword (memPutDword s.hbm (objectBase 6 + 1024) (BitVec.ofNat 64 (2 ^ 63 + 2 * 2 ^ 48))) (objectBase 6 + 1032) 0x3000000000000 }
     v.attach 1 8 ≠ 0 ∧ ∃ u, v.recordPut (dcWriter v.reporter .note) pfContext [(0x3000000000048, 1), (0x3000000000050, 2), (0x3000000000058, 3), (0x3000000000040, 4),
       (0x3000000000000, 1)] = .ok u) := ⟨by decide, by decide, _, rfl⟩

theorem witness_DebugEvents_stages : ∀ x ∈ [(1, false), (3, false), (1, true)],
    let s : State := { snapS 0x3000000000000 1301 with snap := some { vt := 1300, due := 1300, latches := [], stage := x.1, failed := x.2 } }
    ∃ k, s.snap = some k ∧ k.stage = x.1 ∧ k.failed = x.2 ∧ s.vt ≠ k.due ∧ s.hubDue .snapshot = false := by
  intro x hx; fin_cases hx <;> exact ⟨_, rfl, rfl, rfl, by decide, by decide⟩

/-- Record 3's STATE has been written, as its fields say. -/
def vfS (dir : BitVec 8) (on : Bool) : State :=
  { base [] with
    hbm := memPut (memPut [] (objectBase 9 + 128 * 3 + 0x28) [dir, 0, 0, 0, 0, 0x11]) (objectBase 10 + 32) [1], vfRequests := [(3, on)]
    nodes := rootNodes ++ [(0x1100, { kind := .epwin, creator := 0, home := 0, body := .epwin 0 1 1 })], kernels := [(1, { kernelOne with vf := 3 })] }

theorem witness_SystemEvents : (∀ b ∈ [false, true], Memory.wf (vfS 2 b).hbm = true ∧ (vfS 2 b).takeVf 3 b = some { vfS 2 b with vfRequests := [] }) ∧
    ({ vfS 2 true with vfRequests := [] } : State).enableFault 3 = none ∧ ({ vfS 10 true with vfRequests := [] } : State).enableFault 3 = some 0x26 ∧
    (vfS 2 false).functionBusy 3 = false ∧ tabGet (vfS 2 false).kernels 1 = some { kernelOne with vf := 3 } ∧
    memDword (vfS 2 true).hbm (objectBase 10 + 32) = 1 ∧ memDword (base []).hbm (objectBase 10 + 32) ≠ 1 ∧ (objectBase 9 + 128 * 3) / 64 ∉ (vfS 2 true).hbmPoison := by
  refine ⟨by decide, by decide, by decide, by decide, by decide, by decide, by decide, by decide⟩

theorem witness_SystemEvents_queues : let s : State := { vfS 2 false with hbm := memPut (vfS 2 false).hbm (objectBase 9 + 128 * 3 + 8) [16, 0, 2, 0] }
    s.takeVf 3 false = some { s with vfRequests := [] } ∧ leNat (memBytes s.hbm (objectBase 9 + 128 * 3 + 0xA) 2) = 2 ∧
      ({ s with kernels := [(1, { kernelOne with vf := 3 })], dispatch := [(dcId 0, { Dispatch.idle with queue := some 16, packet := [1], shadow := [0, 0x10, 0, 0, 2, 3, 3, 1] })] } : State).functionBusy 3 = true := by
  refine ⟨by decide, by decide, by decide⟩

/-- What a bring-up step finds: a signed image of a version, failed channels, lanes and ports. -/
def finds (signed : Bool) (version : BitVec 64) (channels : List Nat) : StepFinds := { signed := signed, version := version, channels := channels, lanes := 2, ports := 4 }

theorem witness_SystemEvents_finds : (finds false 9 []).signed = false ∧ ((finds true 1 []).version < ({ State.reset with fuse := 3 } : State).fuse) ∧
    ((finds true 3 []).signed = true ∧ ({ State.reset with fuse := 3 } : State).fuse ≤ (finds true 3 []).version) ∧ (∃ c ∈ (finds true 3 [255]).channels, c < 256) ∧
    (finds true 3 []).lanes ≠ 0 ∧ (∀ l, ({ vfS 2 true with nonce := some (List.replicate 32 1) } : State).nonce = some l → l.length = 32) := by
  refine ⟨rfl, by decide, by decide, ⟨255, .head _, by decide⟩, by decide, ?_⟩
  intro l h; cases h; rfl

theorem witness_SystemEvents_bringUp : (∀ n ∈ [(0 : BitVec 4), 3, 6], (({ State.reset with bringUp := n } : State).bringUp.toNat < 7 ∧
      ({ State.reset with bringUp := n } : State).failCode ≠ 1 ∧ ({ State.reset with bringUp := n } : State).mayEnd (n.toNat + 1) = true)) ∧
    ({ State.reset with failCode := 1 } : State).failCode = 1 ∧ Memory.wf State.reset.hbm = true := by decide

theorem witness_AtomicsAtHome : (base []).ok = true ∧ (∃ a, Place.hbm 0x7FFFFFFFF8 = .hbm a) ∧ ∃ c o, c < 8192 ∧ Place.sram 8191 0x7FFF8 = .sram c o :=
  ⟨by decide, ⟨_, rfl⟩, ⟨_, _, by decide, rfl⟩⟩

/-! ### Hypotheses of the obligations are met: encodings, steps and invariants -/

theorem witness_EncodeDecode : (Instr.mma false 0 1 2 4 31).wellFormed = true ∧ (encode (.mma false 0 1 2 4 31)).isSome = true ∧
    (Instr.recv 15 23).wellFormed = true ∧ (encode (.recv 15 23)).isSome = true := by decide

theorem witness_DecodeEncode : ∃ i n, decode [0x03, 0x0C, 0x29, 0x00, 0xFF] = .ok (i, n) ∧ n = 4 := ⟨_, _, rfl, rfl⟩

/-- Code at 0x40: an add, an illegal word, or a REP pair's follower behind the REP. -/
def codeAt (pc : Word) (b : List Byte) : State :=
  let s := base []
  { s with core := { s.core with task := { s.core.task with pc := pc }, sram := memPut [] 0x40 b } }

/-- The bytes of ADD g12, g8, g10. -/
def addBytes : List Byte := [0x03, 0x0C, 0x29, 0x00]

theorem witness_StepRunsDecoded : (let s := codeAt 0x40 addBytes
     let v : State := { s.cycle with sel := .task }
     let c := v.core.task
     s.agenda = [] ∧ v.core.act.run ≠ .running ∧ c.run = .running ∧ c.request = none ∧ v.core.ovld = none ∧ v.core.codePoisoned .task c.pc = false ∧
      c.breakpoint = none ∧ c.rep = none ∧ fetch v.core .task c.pc = .instr (.add 12 8 10) 0x00290C03 4) ∧
    fetch (codeAt 0x40 [0xFF, 0xFF, 0xFF, 0xFF]).cycle.core .task 0x40 = .illegal 0xFFFFFFFF ∧ fetch (codeAt 0x100 []).cycle.core .task 0x100 = .miss 0x100 ∧
    fetch (codeAt 0x3E addBytes).cycle.core .task (0x3E + 2) = .instr (.add 12 8 10) 0x00290C03 4 ∧ (repInstr 1 3 (.add 12 8 10)).isSome = true ∧
    (codeAt 0x3E addBytes).cycle.core.codePoisoned .task 0x3E = false ∧
    ((codeAt 0x40 addBytes).core.base .task ≤ 0x40 ∧ 0x40 - (codeAt 0x40 addBytes).core.base .task + 4 ≤ (codeAt 0x40 addBytes).core.exb.toNat ∧
      decode (memBytes (codeAt 0x40 addBytes).core.sram (0x40 - (codeAt 0x40 addBytes).core.base .task) 4) = .ok (.add 12 8 10, 4)) := by
  refine ⟨by decide, by decide, by decide, by decide, by decide, by decide, by decide⟩

theorem witness_StepRunsDecoded_rep : let r : RepLive := { step := 1, done := 3, left := 5 }
    let s := codeAt 0x3E addBytes
    let v : State := { s with core := { s.core with task := { s.core.task with rep := some r } } }
    v.cycle.core.task.rep = some r ∧ v.cycle.core.task.breakpoint = none ∧ v.cycle.core.task.pc = 0x3E := by decide

theorem witness_StepRunsDecoded_act : let s := { actBeside [] with core := { (actBeside []).core with sram := memPut [] 0x40 addBytes } }
    let v : State := { s.cycle with sel := .act }
    let c := v.core.act
    s.agenda = [] ∧ c.run = .running ∧ c.gap = 0 ∧ c.request = none ∧ v.core.ovld = none ∧ v.core.codePoisoned .act c.pc = false ∧ c.rep = none ∧
      c.breakpoint = none ∧ fetch v.core .act c.pc = .instr (.add 12 8 10) 0x00290C03 4 := by
  refine ⟨by decide, by decide, by decide, by decide, by decide, by decide, by decide, by decide, by decide⟩

theorem witness_StepRunsDecoded_turn : isAgent (.messagePlace 0) = true ∧ ({ base [] with agenda := [.hw (.messagePlace 0)] } : State).agenda = .hw (.messagePlace 0) :: [] ∧
    ({ base [] with agenda := [.also (.messagePlace 0)] } : State).agenda = .also (.messagePlace 0) :: [] ∧
    (let s := { actBeside [] with vt := 1002 }; s.agenda = [] ∧ ∃ b, agentsTurn s.cycle.vt = b) ∧ (∃ v w, agentsTurn v = true ∧ agentsTurn w = false) ∧
    (let s := { codeAt 0x40 addBytes with agenda := [.issue (codeAt 0x40 addBytes).cycle.core.id .task] }
     let v : State := { s.cycle with agenda := [], sel := .task }
     let c := v.core.slot .task
     s.agenda = .issue s.cycle.core.id .task :: [] ∧ s.cycle.core.act.run ≠ .running ∧ c.run = .running ∧ c.request = none ∧ v.core.ovld = none ∧
      v.core.codePoisoned .task c.pc = false ∧ c.breakpoint = none ∧ c.rep = none ∧ fetch v.core .task c.pc = .instr (.add 12 8 10) 0x00290C03 4) := by
  refine ⟨by decide, rfl, rfl, ⟨rfl, _, rfl⟩, ⟨1000, 1001, by decide, by decide⟩, by decide⟩

theorem witness_StepKeepsOk : (codeAt 0x40 addBytes).ok = true ∧ ∃ t, step (codeAt 0x40 addBytes) = .next t := ⟨by decide, _, rfl⟩

theorem witness_RegisterFrame : Issues (.add 12 8 10) (base some1) ∧ ∃ t, exec (.add 12 8 10) (base some1) = .next t := ⟨issues_of (by decide) rfl, _, rfl⟩

theorem witness_PoolsUnchanged : (encode (.st 5 .d 0 3 1)).isSome = true ∧ ∃ t, exec (.st 5 .d 0 3 1) (base some1) = .next t := ⟨by decide, _, rfl⟩
end Sys2Proof.Tests
end

section
/-! SUPPORT. The scalar results of R54 to R58 as the spec's arithmetic, each on the signed or unsigned value of the word. -/

namespace Sys2Proof.Machine

/-! ### Sums, products, comparisons and shifts (R54, R56 to R58) -/

theorem boolWord_ltS (a b : Word) : boolWord (ltS a b) = if a.toInt < b.toInt then 1 else 0 := by
  simp only [boolWord, ltS, decide_eq_true_eq]

theorem shl_eq_ofNat (a : Word) (n : Nat) : shl a n = BitVec.ofNat 64 (a.toNat * 2 ^ n) := by
  apply BitVec.eq_of_toNat_eq
  rw [shl, BitVec.toNat_shiftLeft, Nat.shiftLeft_eq, BitVec.toNat_ofNat]

theorem shrU_eq_ofNat (a : Word) (n : Nat) : shrU a n = BitVec.ofNat 64 (a.toNat / 2 ^ n) := by
  rw [shrU, ← Nat.shiftRight_eq_div_pow, ← BitVec.toNat_ushiftRight, BitVec.ofNat_toNat, BitVec.setWidth_eq]

theorem shrS_eq_ofInt (a : Word) (n : Nat) : shrS a n = BitVec.ofInt 64 (a.toInt / 2 ^ n) := by
  rw [← BitVec.ofInt_toInt (x := shrS a n), shrS, BitVec.toInt_sshiftRight, Int.shiftRight_eq_div_pow]
  norm_cast

theorem movsiValue_eq_ofNat (old : Word) (imm : BitVec 19) :
    movsiValue old imm = BitVec.ofNat 64 (old.toNat * 2 ^ 19 + imm.toNat) := by
  rw [movsiValue, ← shl, shl_eq_ofNat, BitVec.ofNat_add, BitVec.ofNat_toNat]

theorem imm14_eq_ofInt (imm : BitVec 14) : imm14 imm = BitVec.ofInt 64 imm.toInt := rfl

theorem toInt_imm14 (imm : BitVec 14) : (imm14 imm).toInt = imm.toInt :=
  BitVec.toInt_signExtend_of_le (by decide)

/-! ### Quotients and remainders (R55) -/

/-- The one signed quotient that leaves the word's range, 2^63, wraps to the dividend. -/
theorem ofInt_tdiv_of_overflow {a b : Word} (ha : a.toInt = -2 ^ 63) (hb : b.toInt = -1) :
    BitVec.ofInt 64 (a.toInt.tdiv b.toInt) = a := by
  calc BitVec.ofInt 64 (a.toInt.tdiv b.toInt)
      = BitVec.ofInt 64 (-2 ^ 63) := by rw [ha, hb]; decide
    _ = a := by rw [← ha, BitVec.ofInt_toInt]

theorem divS_eq (a b : Word) : divS a b =
    if b = 0 then 0xFFFFFFFFFFFFFFFF
    else if a.toInt = -2 ^ 63 ∧ b.toInt = -1 then a else BitVec.ofInt 64 (a.toInt.tdiv b.toInt) := by
  unfold divS
  split
  · rfl
  · split
    next h => exact ofInt_tdiv_of_overflow h.1 h.2
    next => rfl

theorem divU_eq (a b : Word) : divU a b =
    if b = 0 then 0xFFFFFFFFFFFFFFFF else BitVec.ofNat 64 (a.toNat / b.toNat) := rfl

theorem remS_eq (a b : Word) : remS a b =
    if b = 0 then a
    else if a.toInt = -2 ^ 63 ∧ b.toInt = -1 then 0
    else BitVec.ofInt 64 (a.toInt - a.toInt.tdiv b.toInt * b.toInt) := by
  unfold remS
  split
  · rfl
  · split
    next h => rw [h.2, Int.tmod_neg, Int.tmod_one]; rfl
    next => rw [Int.tmod_def, Int.mul_comm]

theorem remU_eq (a b : Word) : remU a b =
    if b = 0 then a else BitVec.ofNat 64 (a.toNat - a.toNat / b.toNat * b.toNat) := by
  rw [remU, Nat.mod_eq_sub_div_mul]

end Sys2Proof.Machine
end

section
/-! SUPPORT. What the decoder reads from a 32-bit word, and the fields of the SHIFT format (R57). -/

namespace Sys2Proof

/-- A word with bit 0 set is an instruction of 32 bits: its four bytes give back the whole word (R5, R31). -/
theorem decodeTableWord_of_odd (n : Nat) {w : Nat} (hodd : w % 2 = 1) (hw : w < 2 ^ 32) :
    decodeTableWord n w = decode32 w := by
  have hbytes : tableBytes w = [BitVec.ofNat 8 w, BitVec.ofNat 8 (w / 256), BitVec.ofNat 8 (w / 256 / 256),
      BitVec.ofNat 8 (w / 256 / 256 / 256)] := by
    simp [tableBytes, lengthOf, hodd, leBytes]
  have hlow : half (BitVec.ofNat 8 w) (BitVec.ofNat 8 (w / 256)) % 2 = 1 := by
    simp only [half, BitVec.toNat_ofNat]; omega
  have hword : half (BitVec.ofNat 8 w) (BitVec.ofNat 8 (w / 256)) +
      65536 * half (BitVec.ofNat 8 (w / 256 / 256)) (BitVec.ofNat 8 (w / 256 / 256 / 256)) = w := by
    simp only [half, BitVec.toNat_ofNat]; omega
  have hlen : lengthOf (half (BitVec.ofNat 8 w) (BitVec.ofNat 8 (w / 256))) ≠ 2 := by
    simp [lengthOf, hlow]
  rw [decodeTableWord, hbytes, decode, if_neg hlen, hword]
  cases decode32 w <;> rfl

/-- The word of major opcode 0x08 with these values of KIND, bits [29:24], SHAMT, A and D (R57). -/
def shiftWord (kind z shamt a d : Nat) : Nat :=
  kind * 2 ^ 30 + z * 2 ^ 24 + shamt * 2 ^ 18 + a * 2 ^ 13 + d * 2 ^ 8 + 0x11

section
variable {k z n a d : Nat} (hk : k < 4) (hz : z < 64) (hn : n < 64) (ha : a < 32) (hd : d < 32)
include hk hz hn ha hd

theorem decodeTableWord_shiftWord : decodeTableWord 32 (shiftWord k z n a d) = decode32 (shiftWord k z n a d) :=
  decodeTableWord_of_odd 32 (by unfold shiftWord; omega) (by unfold shiftWord; omega)

theorem fld_shiftWord :
    fld (shiftWord k z n a d) 1 7 = 0x08 ∧ fld (shiftWord k z n a d) 8 5 = d ∧ fld (shiftWord k z n a d) 13 5 = a ∧
    fld (shiftWord k z n a d) 18 6 = n ∧ fld (shiftWord k z n a d) 24 6 = z ∧ fld (shiftWord k z n a d) 30 2 = k := by
  unfold fld shiftWord
  refine ⟨?_, ?_, ?_, ?_, ?_, ?_⟩ <;> omega

end

/-- The SHIFT word of register operands decodes by KIND, and only with bits [29:24] zero; KIND 3 is no instruction (R47, R57). -/
theorem decode32_shiftWord {k z : Nat} (hk : k < 4) (hz : z < 64) (sh : BitVec 6) (a d : GReg) :
    decode32 (shiftWord k z sh.toNat a.val d.val) =
      if z = 0 then [Instr.slli d a sh, .srli d a sh, .srai d a sh][k]? else none := by
  obtain ⟨hmajor, hD, hA, hshamt, hzero, hkind⟩ := fld_shiftWord hk hz sh.isLt a.isLt d.isLt
  rw [decode32, decodeMajor, hmajor]
  simp only [dec32_08, hD, hA, hshamt, hzero, hkind, Fin.ofNat_val_eq_self, BitVec.ofNat_toNat, BitVec.setWidth_eq, legal,
    decide_eq_true_eq]
  obtain rfl | rfl | rfl | rfl : k = 0 ∨ k = 1 ∨ k = 2 ∨ k = 3 := by omega
  all_goals by_cases h0 : z = 0 <;> simp [h0, checked, Instr.wellFormed]

end Sys2Proof
end

section
/-! SUPPORT. The divide, remainder and immediate forms: the meaning each instruction dispatches to, and the two statements. -/

namespace Sys2Proof.Machine

/-! ### What each form computes (R55 to R58) -/

section
variable (la : BitVec 4) (d a b : GReg) (imm : BitVec 14) (sh : BitVec 6) (wide : BitVec 19) (s : State)

theorem exec_div : exec (.div la d a b) s = lateG (.div la d a b) la d (fun s => divS (s.g a) (s.g b)) s := rfl
theorem exec_divu : exec (.divu la d a b) s = lateG (.divu la d a b) la d (fun s => divU (s.g a) (s.g b)) s := rfl
theorem exec_rem : exec (.rem la d a b) s = lateG (.rem la d a b) la d (fun s => remS (s.g a) (s.g b)) s := rfl
theorem exec_remu : exec (.remu la d a b) s = lateG (.remu la d a b) la d (fun s => remU (s.g a) (s.g b)) s := rfl
theorem exec_addi : exec (.addi d a imm) s = writeG 4 (.addi d a imm) d (fun s => s.g a + imm14 imm) s := rfl
theorem exec_andi : exec (.andi d a imm) s = writeG 4 (.andi d a imm) d (fun s => s.g a &&& imm14 imm) s := rfl
theorem exec_ori : exec (.ori d a imm) s = writeG 4 (.ori d a imm) d (fun s => s.g a ||| imm14 imm) s := rfl
theorem exec_xori : exec (.xori d a imm) s = writeG 4 (.xori d a imm) d (fun s => s.g a ^^^ imm14 imm) s := rfl
theorem exec_slti : exec (.slti d a imm) s = writeG 4 (.slti d a imm) d (fun s => boolWord (ltS (s.g a) (imm14 imm))) s := rfl
theorem exec_muli : exec (.muli d a imm) s = writeG 4 (.muli d a imm) d (fun s => s.g a * imm14 imm) s := rfl
theorem exec_slli : exec (.slli d a sh) s = writeG 4 (.slli d a sh) d (fun s => shl (s.g a) sh.toNat) s := rfl
theorem exec_srli : exec (.srli d a sh) s = writeG 4 (.srli d a sh) d (fun s => shrU (s.g a) sh.toNat) s := rfl
theorem exec_srai : exec (.srai d a sh) s = writeG 4 (.srai d a sh) d (fun s => shrS (s.g a) sh.toNat) s := rfl
theorem exec_movi : exec (.movi d wide) s = writeG 4 (.movi d wide) d (fun _ => wide.signExtend 64) s := rfl
theorem exec_movsi : exec (.movsi d wide) s = writeG 4 (.movsi d wide) d (fun s => movsiValue (s.g d) wide) s := rfl

end

/-! ### The statements -/

/-- Settles O2: a form that issues adds its long-latency result, whose value is the quotient or remainder of R55. -/
theorem divideForms : Obligations.DivideForms := by
  intro la d a b s
  refine ⟨fun h => ?div, fun h => ?divu, fun h => ?rem, fun h => ?remu⟩
  case div => rw [exec_div, lateG_go h, divS_eq]
  case divu => rw [exec_divu, lateG_go h, divU_eq]
  case rem => rw [exec_rem, lateG_go h, remS_eq]
  case remu => rw [exec_remu, lateG_go h, remU_eq]

/-- Settles O3: a form that issues writes its value, brought to the formula of R56 to R58; the SHIFT words decode by their
fields. -/
theorem immediateForms : Obligations.ImmediateForms := by
  intro d a imm sh wide s
  refine ⟨fun h => ?addi, fun h => ?andi, fun h => ?ori, fun h => ?xori, fun h => ?slti, fun h => ?muli, fun h => ?slli,
    fun h => ?srli, fun h => ?srai, fun k z hk hz => ?layout, fun h => ?movi, fun h => ?movsi⟩
  case addi => rw [exec_addi, writeG_go h, imm14_eq_ofInt, BitVec.ofInt_add, BitVec.ofInt_toInt]
  case andi => rw [exec_andi, writeG_go h, imm14_eq_ofInt]
  case ori => rw [exec_ori, writeG_go h, imm14_eq_ofInt]
  case xori => rw [exec_xori, writeG_go h, imm14_eq_ofInt]
  case slti => rw [exec_slti, writeG_go h, boolWord_ltS, toInt_imm14]
  case muli => rw [exec_muli, writeG_go h, imm14_eq_ofInt, BitVec.ofInt_mul, BitVec.ofInt_toInt]
  case slli => rw [exec_slli, writeG_go h, shl_eq_ofNat]
  case srli => rw [exec_srli, writeG_go h, shrU_eq_ofNat]
  case srai => rw [exec_srai, writeG_go h, shrS_eq_ofInt]
  case layout =>
    exact (decodeTableWord_shiftWord hk hz sh.isLt a.isLt d.isLt).trans (decode32_shiftWord hk hz sh a d)
  case movi => rw [exec_movi, writeG_go h, BitVec.signExtend]
  case movsi => rw [exec_movsi, writeG_go h, movsiValue_eq_ofNat]

end Sys2Proof.Machine
end
